-- ==== Sys2Proof/Word.lean ====
section
/-! DEFINITION. The word types of the SX9 (spec/00 R2): registers are 64 bits wide, memory is bytes, a slot is 32 bits. -/

namespace Sys2Proof

/-- A scalar or state register's value. -/
abbrev Word := BitVec 64

/-- A byte of memory. -/
abbrev Byte := BitVec 8

/-- The 32 bits of one slot of a bundle (R19). -/
abbrev SlotWord := BitVec 32

end Sys2Proof
end

