-- ==== Sys2Proof/Syntax.lean ====
section
/-! DEFINITION. The instructions and steps of the SX9: one constructor of `Instr` for each row of spec/opcode_table.json.
The encoded rows carry the fields of their slot word and the byte lent to them; the rows without encoding are the
machine's events and carry what identifies them. -/

namespace Sys2Proof

/-- Where an operation stands and what a header lends to it (R20, R24, R25). `hdr` says that the bundle has a header:
an immediate is then extended by `ext` even when `ext` is 0 (R26). -/
structure Pos where
  slot : BitVec 2
  hdr  : Bool
  wbs  : Bool
  bypA : Bool
  bypB : Bool
  ext  : BitVec 5
  deriving DecidableEq, Repr

/-- The position of slot `k` with nothing lent. -/
def Pos.plain (k : BitVec 2) : Pos := ⟨k, false, false, false, false, 0⟩

/-- What a packet on a link carries (R312, R314, R317, R323, R326, R343, R346, R360). Bytes are in address order; `serves` are the
members that this copy of a multicast request serves, each with the sequence number that the request has for it. -/
inductive Load where
  | read (pa n policy : Nat)
  | write (pa : Nat) (bytes : List Byte) (policy : Nat)
  | amo (pa op size : Nat) (far : Bool) (y expect : Word)
  | reduce (pa red fmt : Nat) (bytes : List Byte)
  | port (words : List Word)
  | mcast (group off : Nat) (members : List Nat) (bytes : List Byte) (policy : Nat) (serves : List (Nat × Nat))
  | collUp (group op low : Nat) (word : Word)
  | collDown (group op : Nat) (word : Word)
  | row (hash : Word) (shard box row va : Nat) (bytes : List Byte) (bad : List Nat)
  | chunk (pa : Nat) (bytes : List Byte) (bad : List Nat)
  | response (word : Word) (bytes : List Byte) (busy : Bool)
  | other (words : List Word)
  deriving DecidableEq, Repr

/-- A packet of the fabric: virtual channel, source and destination device numbers, stream and sequence number (R311),
agency, load. -/
structure Pkt where
  vc     : Nat
  src    : Nat
  dst    : Nat
  stream : Nat
  num    : Nat
  agency : Nat
  body   : Load
  deriving DecidableEq, Repr

/-- A flit that a link receives: which flit of which packet (R306, R308). -/
structure FlitIn where
  pkt : Pkt
  idx : Nat
  deriving DecidableEq, Repr

/-- Whose page fault the firmware answers (R100, R219, R345, R373). -/
inductive Faulted where
  | context (core slot : Nat)
  | channel (core ch : Nat)
  | flow (run : Nat)
  | sweep (h : Nat)
  deriving DecidableEq, Repr

/-- How a boot step ends (R420, R421); the power may be lost within it. -/
inductive BootEnd where
  | passed | failed | powerLost
  deriving DecidableEq, Repr

/-- A step of a boot (R419 to R421): stage, unit, the image that is verified and measured, whether its signature over the digest
holds, how the step ends. -/
structure BootStep where
  stage  : Nat
  unit   : Nat
  image  : List Byte
  signed : Bool
  ends   : BootEnd
  deriving DecidableEq, Repr

/-- The instructions and steps of the SX9. -/
inductive Instr where
  -- scalar ALU, slots 0 and 1 (R48, R49)
  | add (p : Pos) (d a b : BitVec 5)
  | sub (p : Pos) (d a b : BitVec 5)
  | and (p : Pos) (d a b : BitVec 5)
  | or (p : Pos) (d a b : BitVec 5)
  | xor (p : Pos) (d a b : BitVec 5)
  | andn (p : Pos) (d a b : BitVec 5)
  | shl (p : Pos) (d a b : BitVec 5)
  | shr (p : Pos) (d a b : BitVec 5)
  | sar (p : Pos) (d a b : BitVec 5)
  | min (p : Pos) (d a b : BitVec 5)
  | max (p : Pos) (d a b : BitVec 5)
  | minn (p : Pos) (d a b : BitVec 5)
  | maxn (p : Pos) (d a b : BitVec 5)
  | sel (p : Pos) (d a b : BitVec 5)
  | slt (p : Pos) (cc : BitVec 3) (d a b : BitVec 5)
  | mul (p : Pos) (d a b : BitVec 5)
  | mulh (p : Pos) (d a b : BitVec 5)
  | mulhn (p : Pos) (d a b : BitVec 5)
  | div (p : Pos) (d a b : BitVec 5)
  | divn (p : Pos) (d a b : BitVec 5)
  | rem (p : Pos) (d a b : BitVec 5)
  | remn (p : Pos) (d a b : BitVec 5)
  | clz (p : Pos) (d a : BitVec 5)
  | ctz (p : Pos) (d a : BitVec 5)
  | popc (p : Pos) (d a : BitVec 5)
  | addSat (p : Pos) (d a b : BitVec 5)
  | subSat (p : Pos) (d a b : BitVec 5)
  | addI (p : Pos) (d a : BitVec 5) (imm : BitVec 16)
  | andI (p : Pos) (d a : BitVec 5) (imm : BitVec 16)
  | orI (p : Pos) (d a : BitVec 5) (imm : BitVec 16)
  | xorI (p : Pos) (d a : BitVec 5) (imm : BitVec 16)
  | shlI (p : Pos) (d a : BitVec 5) (sh : BitVec 6)
  | shrI (p : Pos) (d a : BitVec 5) (sh : BitVec 6)
  | sarI (p : Pos) (d a : BitVec 5) (sh : BitVec 6)
  | minI (p : Pos) (d a : BitVec 5) (imm : BitVec 16)
  | maxI (p : Pos) (d a : BitVec 5) (imm : BitVec 16)
  | mulI (p : Pos) (d a : BitVec 5) (imm : BitVec 16)
  | lih (p : Pos) (d a : BitVec 5) (imm : BitVec 16)
  | bfx (p : Pos) (d a : BitVec 5) (len pos : BitVec 6)
  | bfi (p : Pos) (d a : BitVec 5) (len pos : BitVec 6)
  -- branches, calls, system: slot 0 (R46)
  | br (p : Pos) (a b : BitVec 5) (cc : BitVec 3) (annul : BitVec 2) (disp : BitVec 11)
  | brp (p : Pos) (pr : BitVec 5) (cc : BitVec 3) (annul : BitVec 2) (disp : BitVec 11)
  | brl (p : Pos) (annul : BitVec 2) (disp : BitVec 11)
  | loop (p : Pos) (a b : BitVec 5)
  | j (p : Pos) (disp : BitVec 26)
  | call (p : Pos) (frame : BitVec 5) (disp : BitVec 21)
  | callr (p : Pos) (a frame : BitVec 5)
  | jr (p : Pos) (a : BitVec 5)
  | ret (p : Pos) (frame : BitVec 5)
  | yield (p : Pos) (n : BitVec 16)
  | endTask (p : Pos)
  | trap (p : Pos) (code : BitVec 16)
  | eret (p : Pos)
  | modeI (p : Pos)
  | modeE (p : Pos)
  | srr (p : Pos) (d : BitVec 5) (r : BitVec 12)
  | srw (p : Pos) (a : BitVec 5) (r : BitVec 12)
  | srs (p : Pos) (a : BitVec 5) (r : BitVec 12)
  | src (p : Pos) (a : BitVec 5) (r : BitVec 12)
  -- the sync slot (R162)
  | waitf (p : Pos) (f : BitVec 5) (n : BitVec 16)
  | postf (p : Pos) (f : BitVec 5) (n : BitVec 16)
  | postr (p : Pos) (f a : BitVec 5) (n : BitVec 16)
  | ftest (p : Pos) (d f : BitVec 5) (n : BitVec 16)
  | gnew (p : Pos) (d a : BitVec 5)
  | join (p : Pos) (a : BitVec 5)
  | leave (p : Pos) (a : BitVec 5)
  | barw (p : Pos) (a : BitVec 5)
  | bara (p : Pos) (a : BitVec 5)
  | barg (p : Pos) (d a : BitVec 5)
  | step (p : Pos) (a : BitVec 5)
  | monitor (p : Pos) (a : BitVec 5)
  | mwait (p : Pos) (a : BitVec 5)
  -- memory, slot 1 (R50 to R52)
  | ldB (p : Pos) (d base : BitVec 5) (pol : BitVec 3) (off : BitVec 13)
  | ldH (p : Pos) (d base : BitVec 5) (pol : BitVec 3) (off : BitVec 13)
  | ldW (p : Pos) (d base : BitVec 5) (pol : BitVec 3) (off : BitVec 13)
  | ldD (p : Pos) (d base : BitVec 5) (pol : BitVec 3) (off : BitVec 13)
  | ldBN (p : Pos) (d base : BitVec 5) (pol : BitVec 3) (off : BitVec 13)
  | ldHN (p : Pos) (d base : BitVec 5) (pol : BitVec 3) (off : BitVec 13)
  | ldWN (p : Pos) (d base : BitVec 5) (pol : BitVec 3) (off : BitVec 13)
  | stB (p : Pos) (d base : BitVec 5) (pol : BitVec 3) (off : BitVec 13)
  | stH (p : Pos) (d base : BitVec 5) (pol : BitVec 3) (off : BitVec 13)
  | stW (p : Pos) (d base : BitVec 5) (pol : BitVec 3) (off : BitVec 13)
  | stD (p : Pos) (d base : BitVec 5) (pol : BitVec 3) (off : BitVec 13)
  | ldv (p : Pos) (d base : BitVec 5) (pol : BitVec 3) (off : BitVec 13)
  | stv (p : Pos) (d base : BitVec 5) (pol : BitVec 3) (off : BitVec 13)
  | ldq (p : Pos) (d a b : BitVec 5) (pol : BitVec 3)
  | stq (p : Pos) (d a b : BitVec 5) (pol : BitVec 3)
  | vgth (p : Pos) (d a b : BitVec 5) (pol : BitVec 3) (pred : BitVec 4) (size : BitVec 2)
  | vsct (p : Pos) (d a b : BitVec 5) (pol : BitVec 3) (pred : BitVec 4) (size : BitVec 2)
  | amo (p : Pos) (d a b : BitVec 5) (op : BitVec 4) (dword far : Bool)
  | acqX (p : Pos) (a : BitVec 5)
  | acqS (p : Pos) (a : BitVec 5)
  | rel (p : Pos) (a : BitVec 5)
  | fenceCore (p : Pos)
  | fenceDev (p : Pos)
  | fenceFab (p : Pos)
  | invro (p : Pos) (a b : BitVec 5)
  | flushr (p : Pos) (a b : BitVec 5)
  | phase (p : Pos) (a : BitVec 5)
  | pref (p : Pos) (base : BitVec 5) (pol : BitVec 3) (off : BitVec 13)
  -- cross-class copies, copy engine, chamber bus, Flowstone, Rimstone, seeds, tags, counters
  | xferSv (p : Pos) (d a lane : BitVec 5)
  | xferVs (p : Pos) (d a lane : BitVec 5)
  | vext (p : Pos) (d a b fmt : BitVec 5)
  | ewr (p : Pos) (a : BitVec 5) (r : BitVec 16)
  | erd (p : Pos) (d : BitVec 5) (r : BitVec 16)
  | ego (p : Pos) (d : BitVec 5) (ch : BitVec 2)
  | egoP (p : Pos) (d a : BitVec 5) (ch : BitVec 2)
  | ecan (p : Pos) (ch : BitVec 2)
  | twait (p : Pos) (a : BitVec 5) (ch : BitVec 2)
  | twaitn (p : Pos) (a : BitVec 5) (ch : BitVec 2)
  | qfence (p : Pos) (mask : BitVec 4)
  | pbinv (p : Pos) (a : BitVec 5)
  | bcast (p : Pos) (a b : BitVec 5)
  | blatch (p : Pos) (a : BitVec 5)
  | rsgo (p : Pos) (d a b : BitVec 5)
  | rsstat (p : Pos) (d a : BitVec 5)
  | rsstop (p : Pos) (a : BitVec 5)
  | ckpt (p : Pos) (a b : BitVec 5)
  | slopen (p : Pos) (h : BitVec 3) (d a : BitVec 5)
  | slbind (p : Pos) (h : BitVec 3) (d a b : BitVec 5)
  | sldone (p : Pos) (h : BitVec 3)
  | slgdone (p : Pos) (h : BitVec 3)
  | slstat (p : Pos) (h : BitVec 3) (d a : BitVec 5)
  | sljump (p : Pos) (h : BitVec 3) (d a : BitVec 5)
  | slpfx (p : Pos) (h : BitVec 3) (d : BitVec 5)
  | slinfo (p : Pos) (h : BitVec 3) (d a b : BitVec 5)
  | slwait (p : Pos) (h : BitVec 3) (a : BitVec 5)
  | slretire (p : Pos) (h : BitVec 3) (d : BitVec 5)
  | slrecycle (p : Pos) (h : BitVec 3) (d : BitVec 5)
  | slrefresh (p : Pos) (h : BitVec 3) (a : BitVec 5)
  | slclose (p : Pos) (h : BitVec 3)
  | seedw (p : Pos) (k a : BitVec 5)
  | seedr (p : Pos) (d k : BitVec 5)
  | vtgr (p : Pos) (d a : BitVec 5)
  | pcnt (p : Pos) (d : BitVec 5) (n : BitVec 8)
  -- vector, slots 2 and 3 (R53)
  | vadd (p : Pos) (vd va vb : BitVec 5) (pred : BitVec 4) (rm : BitVec 2) (fmt : BitVec 5)
  | vsub (p : Pos) (vd va vb : BitVec 5) (pred : BitVec 4) (rm : BitVec 2) (fmt : BitVec 5)
  | vmul (p : Pos) (vd va vb : BitVec 5) (pred : BitVec 4) (rm : BitVec 2) (fmt : BitVec 5)
  | vfma (p : Pos) (vd va vb : BitVec 5) (pred : BitVec 4) (rm : BitVec 2) (fmt : BitVec 5)
  | vfms (p : Pos) (vd va vb : BitVec 5) (pred : BitVec 4) (rm : BitVec 2) (fmt : BitVec 5)
  | vfnma (p : Pos) (vd va vb : BitVec 5) (pred : BitVec 4) (rm : BitVec 2) (fmt : BitVec 5)
  | vmin (p : Pos) (vd va vb : BitVec 5) (pred : BitVec 4) (fmt : BitVec 5)
  | vmax (p : Pos) (vd va vb : BitVec 5) (pred : BitVec 4) (fmt : BitVec 5)
  | vabs (p : Pos) (vd va : BitVec 5) (pred : BitVec 4) (rm : BitVec 2) (fmt : BitVec 5)
  | vneg (p : Pos) (vd va : BitVec 5) (pred : BitVec 4) (rm : BitVec 2) (fmt : BitVec 5)
  | vcmpEq (p : Pos) (pd : BitVec 4) (va vb : BitVec 5) (pred : BitVec 4) (fmt : BitVec 5)
  | vcmpNe (p : Pos) (pd : BitVec 4) (va vb : BitVec 5) (pred : BitVec 4) (fmt : BitVec 5)
  | vcmpLt (p : Pos) (pd : BitVec 4) (va vb : BitVec 5) (pred : BitVec 4) (fmt : BitVec 5)
  | vcmpGe (p : Pos) (pd : BitVec 4) (va vb : BitVec 5) (pred : BitVec 4) (fmt : BitVec 5)
  | vsel (p : Pos) (vd va vb : BitVec 5) (pred : BitVec 4) (fmt : BitVec 5)
  | vand (p : Pos) (vd va vb : BitVec 5) (pred : BitVec 4) (fmt : BitVec 5)
  | vor (p : Pos) (vd va vb : BitVec 5) (pred : BitVec 4) (fmt : BitVec 5)
  | vxor (p : Pos) (vd va vb : BitVec 5) (pred : BitVec 4) (fmt : BitVec 5)
  | vnot (p : Pos) (vd va : BitVec 5) (pred : BitVec 4) (fmt : BitVec 5)
  | vshl (p : Pos) (vd va vb : BitVec 5) (pred : BitVec 4) (fmt : BitVec 5)
  | vshr (p : Pos) (vd va vb : BitVec 5) (pred : BitVec 4) (fmt : BitVec 5)
  | vsar (p : Pos) (vd va vb : BitVec 5) (pred : BitVec 4) (fmt : BitVec 5)
  | vdot (p : Pos) (vd va vb : BitVec 5) (pred : BitVec 4) (rm : BitVec 2)
  | vli (p : Pos) (vd fmt : BitVec 5) (pred : BitVec 4) (imm : BitVec 12)
  | vmov (p : Pos) (vd va : BitVec 5)
  | vdiv (p : Pos) (vd va vb : BitVec 5) (pred : BitVec 4) (rm : BitVec 2) (fmt : BitVec 5)
  | vsqrt (p : Pos) (vd va : BitVec 5) (pred : BitVec 4) (rm : BitVec 2) (fmt : BitVec 5)
  | vrcp (p : Pos) (vd va : BitVec 5) (pred : BitVec 4) (rm : BitVec 2) (fmt : BitVec 5)
  | vrsq (p : Pos) (vd va : BitVec 5) (pred : BitVec 4) (rm : BitVec 2) (fmt : BitVec 5)
  | vexp2 (p : Pos) (vd va : BitVec 5) (pred : BitVec 4) (rm : BitVec 2) (fmt : BitVec 5)
  | vlog2 (p : Pos) (vd va : BitVec 5) (pred : BitVec 4) (rm : BitVec 2) (fmt : BitVec 5)
  | vtanh (p : Pos) (vd va : BitVec 5) (pred : BitVec 4) (rm : BitVec 2) (fmt : BitVec 5)
  | vsinpi (p : Pos) (vd va : BitVec 5) (pred : BitVec 4) (rm : BitVec 2) (fmt : BitVec 5)
  | vcospi (p : Pos) (vd va : BitVec 5) (pred : BitVec 4) (rm : BitVec 2) (fmt : BitVec 5)
  | vredSum (p : Pos) (vd va : BitVec 5) (pred : BitVec 4) (rm : BitVec 2) (fmt : BitVec 5)
  | vredMax (p : Pos) (vd va : BitVec 5) (pred : BitVec 4) (fmt : BitVec 5)
  | vredMin (p : Pos) (vd va : BitVec 5) (pred : BitVec 4) (fmt : BitVec 5)
  | vmaxi (p : Pos) (vd va : BitVec 5) (pred : BitVec 4) (fmt : BitVec 5)
  | vshuf (p : Pos) (vd va vb : BitVec 5) (entry : BitVec 6)
  | vpld (p : Pos) (va vb : BitVec 5) (entry : BitVec 6)
  | vpsw (p : Pos)
  | vcvt (p : Pos) (vd va srcFmt : BitVec 5) (pred : BitVec 4) (rm : BitVec 2) (fmt : BitVec 5)
  | vnr (p : Pos) (vd va : BitVec 5) (run block : BitVec 2) (group rotate : Bool) (seed : BitVec 4) (fmt : BitVec 5)
  | vwd (p : Pos) (vd va : BitVec 5) (run block : BitVec 2) (rotate : Bool) (seed : BitVec 4) (fmt : BitVec 5)
  | vrot (p : Pos) (vd va : BitVec 5) (block : BitVec 2) (seed : BitVec 4) (fmt : BitVec 5)
  | vtag (p : Pos) (vd va : BitVec 5) (rot grp : BitVec 2) (seed : BitVec 4) (fmt : BitVec 5)
  | pand (p : Pos) (pd pa pb : BitVec 4)
  | por (p : Pos) (pd pa pb : BitVec 4)
  | pxor (p : Pos) (pd pa pb : BitVec 4)
  | pnot (p : Pos) (pd pa : BitVec 4)
  | pfirst (p : Pos) (pd pa : BitVec 4)
  | pset (p : Pos) (pd : BitVec 4) (imm : BitVec 12)
  -- matrix, slot 3 (R55)
  | mset (p : Pos) (fa fb : BitVec 5) (grp : BitVec 2) (zp : Bool) (reg : BitVec 5)
  | mload (p : Pos) (latch : BitVec 2) (desc meta_ : Bool) (row : BitVec 8) (half : Bool) (reg fmt : BitVec 5)
  | mfeed (p : Pos) (latch : BitVec 2) (tile : BitVec 3) (row : BitVec 7) (ovw desc half : Bool) (reg : BitVec 5)
  | mdrain (p : Pos) (vd : BitVec 5) (tile : BitVec 3) (row : BitVec 7) (seg : BitVec 2) (zero : Bool) (rm : BitVec 2)
      (fmt : BitVec 5)
  | mfill (p : Pos) (va : BitVec 5) (tile : BitVec 3) (row : BitVec 7) (seg : BitVec 2) (fmt : BitVec 5)
  | mzero (p : Pos) (tile : BitVec 3) (row : BitVec 7) (cnt : BitVec 8) (clear : Bool)
  -- events of the focus context and core
  | rndRead (d : BitVec 5)
  | postDelivery
  | taggedSendLanded (g inc : Nat)
  | monitorWake (core slot : Nat)
  | mwaitTimeout
  | farAccessAck (sector : Nat)
  | acqRetry
  | phaseWindowEnd
  | channelFaultWrite (ch : BitVec 2)
  | copyCommandStart (ch : BitVec 2)
  | copyCommandComplete (ch : BitVec 2)
  | copyChannelFault (ch : BitVec 2)
  | calendarRotationStart
  | calendarLineIssue (ch : BitVec 2)
  | calendarLineRead (k : Nat)
  | calendarLineLanding (k : Nat)
  | calendarHold (k delay : Nat)
  | busArrival
  -- Flowstone and Rimstone events
  | flowstoneSoGranted (r : Nat)
  | flowstoneRowSend (r : Nat)
  | flowstoneRowReceive (k : Pkt)
  | flowstoneRowAck (r : Nat) (k : Pkt)
  | flowstoneCommit (r : Nat)
  | flowstoneRunDone (r : Nat)
  | flowstoneFault (r : Nat) (cause detail : Nat)
  | ckptChunkSend (r : Nat)
  | sweepSignal (k : Pkt)
  -- events of issue, traps and scheduling
  | patternEntryWrite
  | latchRowWrite
  | tileRowLanding
  | resultLands
  | freezeEnd
  | trapEntry (cause : BitVec 8) (mask : BitVec 4) (taddr detail : Word)
  | interruptTaken
  | breakpoint
  | budgetOverrun
  | forcedPreemption
  | contextRestore (k : Nat)
  | snapshotReplay
  | pageFaultAnswer (who : Faulted) (mapped : Bool)
  | waitStallYield
  | parkedContextReady (slot : Nat)
  | idleSwitchIn
  | taskEndReport
  | quantumBoundary
  | sumpFilterClear (stack : Nat)
  | scrubPass (pa : Nat) (inSump : Bool) (found : Nat)
  -- fabric events
  | flitReceive (l : Nat) (passed oldKey : Bool) (f : FlitIn)
  | transitForward (k : Pkt)
  | routeTableLoad (table : List (Nat × Nat))
  | requestResendTimer (dst stream num : Nat)
  | mappedRequestSend (k : Pkt)
  | fabricRequestArrival (k : Pkt)
  | fabricResponseArrival (k : Pkt)
  | portPacketArrival (k : Pkt)
  | multicastMemberArrival (l : Nat) (k : Pkt)
  | multicastMerge (l src stream num : Nat) (word : Word) (ord : Option Nat)
  | ackWordMerge (core launch : Nat) (word : Word) (ord : Option Nat)
  | ackWordRead (d : BitVec 5)
  | collectiveCombine (group op low : Nat) (k : Pkt)
  | collectiveResult (group op : Nat) (k : Pkt)
  | linkModeWrite (l : Nat) (w : Word)
  | linkKeyInstall (l : Nat) (key : BitVec 256) (salt : BitVec 16)
  -- front end events
  | queueService
  | notifyReport (sector : Nat)
  | nbaseWrite (w : Word)
  | signalAck (core slot : Nat)
  | launch (uid : Nat)
  | launchRelease (uid : Nat)
  | bufs (uid : Nat)
  | signal (uid : Nat)
  | waitso (uid : Nat)
  | graph (uid : Nat)
  | graphNodeDispatch (uid node : Nat)
  | patch (uid : Nat)
  | reshard (uid : Nat)
  | horizon (uid : Nat)
  | pkCkpt (uid : Nat)
  | packetComplete (uid : Nat)
  | hostControlRead (addr : Nat)
  | hostControlWrite (addr : Nat) (w : Word)
  | tlbInvalidate (launch : Nat) (range : Option (Nat × Nat))
  -- platform events
  | mrExt (i : Nat) (digest : List Byte)
  | powerOnBoot (steps : List BootStep)
  | getVersion (peer : Nat)
  | getCapabilities (peer : Nat)
  | negotiateAlgorithms (peer : Nat) (accepted : Bool)
  | getDigests (peer cslot : Nat)
  | getCertificate (peer cslot : Nat)
  | challenge (peer cslot summary : Nat) (nonce : List Byte)
  | getMeasurements (peer index : Nat) (signed : Bool) (nonce : List Byte)
  | keyExchange (peer : Nat) (both : Bool) (share : List Byte)
  | finish (peer : Nat) (verified : Bool)
  | spdmUnsupported (peer : Nat) (version : Bool)
  | energyInterval (dies : List Nat) (hub hbm : Nat)
  | thermalThrottle (cores : List Nat) (quanta : Nat)
  | thermalShutdown
  | linkTrainingDone (l : Nat)
  | linkStopGo (l vc : Nat) (stop : Bool)
  | replayRequest (l first : Nat)
  | powerLoss
  deriving DecidableEq, Repr

end Sys2Proof
end

