-- ==== Sys2Proof/Machine/State.lean ====
section
/-! DEFINITION. The state of one SX9 package as plain data, and the state after reset. Each field's docstring or comment
names the rules of spec/ it follows; INVENTORY.md lists them one by one. -/

namespace Sys2Proof.Machine

/-! ## Values -/

/-- The data, tag and sidecar of a vector register or of a vector result (R57, R63, R73):
word `k` of `data` holds bits `[64k+63:64k]`, entry `j` of `side` is sidecar bits `[24j+23:24j]`. -/
structure VVal where
  data : Vector (BitVec 64) 32
  tag  : BitVec 24
  side : Vector (BitVec 24) 16
  deriving DecidableEq, Repr

/-- A bypass latch (R28). A lost latch (R29) is `scalar 0`. -/
inductive LatchVal where
  | scalar (w : BitVec 64)
  | vector (v : VVal)
  deriving DecidableEq, Repr

/-- One entry of the PC queue (R150): a bundle address and its annul bit. -/
structure QEnt where
  addr : Nat
  an   : Bool
  deriving DecidableEq, Repr

/-- The array mode set by MSET (R282, R288): format codes, group code and the two zero points as integers. -/
structure ArrayMode where
  fa  : BitVec 5
  fb  : BitVec 5
  grp : BitVec 2
  zA  : Int
  zB  : Int
  deriving DecidableEq, Repr

/-! ## Results in flight -/

/-- Where a result lands. Scalar places are numbered as `snap.reg` (R104): 0–7 and 24–31 the globals, `128 + j` window
position `j`; `256 + i` is register `i` (1–7, 31) of the supervisor bank (R90). -/
inductive Dest where
  | none
  | scalar (phys : Nat)
  | vector (phys : Nat)
  | pred (n : Nat)
  | port (p : Nat) (ticket : Nat)
  | sreg (num : Nat)
  | seed (k : Nat)
  | mode
  | loop
  | brl
  | wbase
  deriving DecidableEq, Repr

/-- What a result carries. `vec` and `pred` carry the mask of bytes (bits) they write; the others keep the old ones
(R75, R241). `loop` carries `lc` and `ec` (R152), `brl` which of `lc` and `ec` it counts down, its new value, the new `vrb` and
p8 to p15 (R153). -/
inductive ResVal where
  | word (w : BitVec 64)
  | vec (v : VVal) (mask : BitVec 256)
  | pred (v mask : BitVec 256)
  | mode (m : ArrayMode)
  | loop (lc ec : BitVec 64)
  | brl (byLc : Bool) (w : BitVec 64) (vrb : BitVec 4) (preds : Vector (BitVec 256) 8)
  | base (b : Nat)
  deriving DecidableEq, Repr

/-- A result of an issued bundle that has not landed. `land` is the issue clock at which it lands, `seq` the issue
number of its bundle, `slot` its slot; `wb` is false when write-back is suppressed (R30), `latch` says that the slot's
bypass latch receives it (R28). -/
structure Res where
  land  : Nat
  seq   : Nat
  slot  : Nat
  dest  : Dest
  wb    : Bool
  val   : ResVal
  flags : BitVec 5
  latch : Bool
  deriving DecidableEq, Repr

/-- An entry of the snapshot buffer (R97, R104): a captured result and its remaining latency. -/
structure Snap where
  k   : Nat
  res : Res
  deriving DecidableEq, Repr

/-! ## Contexts -/

/-- What a resident context is doing (R85, R87, R99, R100, R156). -/
inductive CtxStatus where
  | free      -- no task is placed here
  | loaded    -- placed by LAUNCH, not yet released
  | ready     -- may run (and runs, when its core's `running` names it)
  | parked    -- stalled more than 256 cycles at an implicit yield point
  | faulted   -- parked for a page fault offered to the firmware
  | ending    -- END or a fatal trap taken, the waits of R156 not yet done
  | halted    -- double fault (R99)
  deriving DecidableEq, Repr

/-- An entry of the post queue of R164 and R172. -/
inductive Post where
  | own (flag : Nat) (n : Nat)
  | remote (flag : Nat) (n : Nat) (target : BitVec 64)
  | join (g : Nat) (inc : Nat)
  | leave (g : Nat) (inc : Nat)
  | arrive (g : Nat) (inc : Nat) (step : Bool)
  deriving DecidableEq, Repr

/-- What a slot operation waits for. The first group are the waits of R125, which become yield points after 256
cycles (R85); the others are plain freezes (R88, R89). -/
inductive WaitKind where
  | flag | barrier | step | mwait | slwait | twait
  | acquire | port | fullCq | postQueue | phase | modeWait | eret | vpsw | access | channel | rounds | interlock | sweep
  | groupNew | drain
  deriving DecidableEq, Repr

/-- A trap about to be taken: cause, fault address, detail (R93). -/
structure TrapReq where
  cause  : BitVec 8
  taddr  : BitVec 64
  detail : BitVec 64
  deriving DecidableEq, Repr

/-- How the bundle being issued steers the PC queue (R150) and ends (R155, R156, R158). -/
structure Steer where
  target  : Option Nat := none
  annul   : Bool := false
  yield   : Bool := false
  ends    : Bool := false
  eret    : Bool := false
  deriving DecidableEq, Repr

/-- The issuing bundle's outcome so far: what the last `exec` of a slot operation did. -/
inductive Sig where
  | ran
  | waits (k : WaitKind)
  | trapped (r : TrapReq)
  deriving DecidableEq, Repr

/-- A monitor (R178–R180): the sector it watches, whether a wake or a loss has happened, the cycle of its arm. -/
structure Monitor where
  sector : Nat
  woken  : Bool
  armed  : Nat
  deriving DecidableEq, Repr

/-- The shadow set of one copy channel, or a command captured from it (R207): registers 0x000–0x00D by number. -/
structure CmdRegs where
  cmd : BitVec 64
  src : BitVec 64
  dst : BitVec 64
  post : BitVec 64
  step : BitVec 64
  cnt0 : BitVec 64
  cnt1 : BitVec 64
  str : Vector (BitVec 64) 6
  deriving DecidableEq, Repr

/-- The binding of a context to a slice (R363, R371): horizon, slice, role and the generation it was made on. -/
structure Binding where
  h      : Nat
  slice  : Nat
  coarse : Bool
  gen    : Nat
  deriving DecidableEq, Repr

/-- A page fault parked with the front end (R100, R140): what the trap would record, which slots raised it, the record registers as
they stood before it, and whether it is to be deferred, as it stood when the fault was detected (R371). -/
structure PageFault where
  req    : TrapReq
  mask   : BitVec 4
  tcause : BitVec 64
  tmask  : BitVec 4
  taddr  : BitVec 64
  detail : BitVec 64
  defer  : Bool
  deriving DecidableEq, Repr

/-- A pattern entry on its way into the bank that was inactive at the VPLD's issue (R253), written at the real cycle
`due`. `index` is 64 · bank + entry. -/
structure PatWrite where
  due   : Nat
  index : Nat
  image : List (BitVec 16)
  deriving DecidableEq, Repr

/-- One context: a tile task's registers, its queue of bundles, and what the launch gave it. `latSeq` is the issue number of
the result that each bypass latch holds (R31). `handlerAt` is one more than the last cycle in which a handler issued a bundle,
its ERET included (R84). `late` lists the issue clock at which a load's data is due and the real cycle at which it is there
(R88, R146). `lclk` counts the bundles issued outside handlers, the issued cycles of a lockstep set (R83, R221). `stepping`
says that the STEP it waits in has sent its arrival (R174), `slTold` that the SLDONE or SLGDONE it waits in has been accepted
(R364); `slwaitAt` is the SLWAIT it waits in: the address of its bundle, the horizon, and whether that has closed since
(R367). `sigAt` is one more than the cycle in which a SIGNAL last set `ipend` bit 0 (R416). `pushes` are words whose results
have landed and that wait to enter their places (port, 6 for `cq`, ticket, and the cycle by which the context's earlier
scratchpad writes are performed: R121). `heldAt` is one more than the last cycle in which its lockstep set held it (R83). -/
structure Ctx where
  core    : Nat
  slot    : Nat
  status  : CtxStatus
  launch  : Nat
  agency  : Nat
  lock    : Bool
  prio    : Nat
  -- register files
  s       : Vector (BitVec 64) 8
  s31     : BitVec 64
  sup     : Vector (BitVec 64) 8
  win     : Vector (BitVec 64) 128
  v       : Vector VVal 32
  p       : Vector (BitVec 256) 16
  f       : Vector (BitVec 16) 32
  sg      : Vector (BitVec 64) 16
  lat     : Vector LatchVal 4
  latSeq  : Vector Nat 4
  pat     : List (Nat × List (BitVec 16))
  patBank : Bool
  -- state registers (R91, R382)
  ie      : Bool
  sv      : Bool
  il      : Bool
  fpflags : BitVec 5
  fptrap  : BitVec 5
  lc      : BitVec 64
  ec      : BitVec 64
  vrb     : BitVec 4
  wsp     : BitVec 64
  wbase   : Nat
  tileX   : BitVec 16
  tileY   : BitVec 16
  tileZ   : BitVec 16
  alloc   : BitVec 24
  dbase   : BitVec 64
  budget  : BitVec 64
  bleft   : BitVec 64
  epcq0   : BitVec 64
  epcq1   : BitVec 64
  epcq2   : BitVec 64
  tcause  : BitVec 64
  tmask   : BitVec 4
  taddr   : BitVec 64
  tdetail : BitVec 64
  tvec    : BitVec 64
  ssave   : BitVec 64
  bkpt0   : BitVec 64
  bkpt1   : BitVec 64
  ienable : BitVec 2
  ipend   : BitVec 2
  sigAt   : Nat
  cqsrc   : BitVec 64
  rkey    : BitVec 64
  rctr    : BitVec 64
  -- the PC queue and what is in flight
  q0      : QEnt
  q1      : QEnt
  q2      : QEnt
  clk     : Nat
  lclk    : Nat
  seq     : Nat
  late    : List (Nat × Nat)
  infl    : List Res
  snap    : List Snap
  replayU : Option Nat
  vpld    : List PatWrite
  wnext   : Nat
  cursor  : Nat
  bpskip  : Bool
  overPend : Bool
  steer   : Steer
  stallAt : Option (Nat × WaitKind)
  heldAt  : Nat
  handlerAt : Nat
  pfault  : Option PageFault
  -- waiting and posting
  posts   : List Post
  pushes  : List (Nat × Nat × Nat)
  mon     : Option Monitor
  mwaitAt : Option Nat
  stepping : Bool
  slTold  : Bool
  slwaitAt : Option (Nat × Nat × Bool)
  mcOut   : Nat
  ack     : BitVec 64
  ackOrd  : Option Nat
  bind    : Option Binding
  -- scheduling
  run     : Option Nat
  lastIssue : Nat
  issuedQ : Bool
  held    : Nat
  perf    : Vector (BitVec 64) 11
  -- what the launch allotted on the core
  imBase  : Nat
  imSize  : Nat
  scrBase : Nat
  scrSize : Nat
  tiles   : List Nat
  ports   : Bool
  shadow  : Vector CmdRegs 4
  deriving DecidableEq, Repr

/-! ## Cores -/

/-- A line of the L1 (R189): 128 bytes by the launch and virtual address, the physical address it was translated to, with a
valid and a dirty bit per byte and the poison its sectors carried in with their fills (R206). -/
structure L1Line where
  launch : Nat
  line   : Nat
  pa     : Nat
  data   : List (BitVec 8)
  valid  : BitVec 128
  dirty  : BitVec 128
  poison : BitVec 4
  deriving DecidableEq, Repr

/-- A 32-byte sector of a chamber's read-only cache (R191). -/
structure RoLine where
  chamber : Nat
  launch  : Nat
  sector  : Nat
  data    : List (BitVec 8)
  poison  : Bool
  deriving DecidableEq, Repr

/-- A cached leaf of the page tables (R203, R204): the launch, the base and size of the virtual range, the leaf. -/
structure TlbEnt where
  launch : Nat
  base   : Nat
  size   : Nat
  pte    : BitVec 64
  deriving DecidableEq, Repr

/-- An edge latch (R283): rows of element codes and per-column metadata; what a list does not name reads as zero. -/
structure Latch where
  tag  : BitVec 24
  rows : List (Nat × List (BitVec 8))
  cols : List (Nat × List (BitVec 24))
  deriving DecidableEq, Repr

/-- A latch row (or the metadata of a group) on its way into a latch (R289): `due` is the issue clock of its context.
`tag` is there for a row, whose bytes follow the first `keep` bytes; metadata has none. -/
structure LatchWrite where
  due   : Nat
  latch : Nat
  row   : Nat
  tag   : Option (BitVec 24)
  keep  : Nat
  bytes : List (BitVec 8)
  cols  : List (BitVec 24)
  deriving DecidableEq, Repr

/-- An accumulator tile (R284): 128 rows of 192 words; a row the list does not name is all zero. -/
structure Tile where
  tag  : BitVec 24
  rows : List (Nat × List (BitVec 32))
  deriving DecidableEq, Repr

/-- What an M slot has on its way into a tile row (R290, R292–R294). -/
inductive BeatKind where
  | feed (ovw : Bool) (m : ArrayMode) (rowA : List (BitVec 8)) (metaA : List (BitVec 24)) (b : Latch)
  | words (col : Nat) (ws : List (BitVec 32))
  deriving DecidableEq, Repr

/-- A row write in flight to a tile: it lands when its context's issue clock is `due`. -/
structure Beat where
  due  : Nat
  seq  : Nat
  tile : Nat
  row  : Nat
  kind : BeatKind
  deriving DecidableEq, Repr

/-- A command accepted by a copy channel (R213): its ID, its issuer, its captured registers, what it waits for. -/
structure Command where
  id     : BitVec 32
  slot   : Nat
  launch : Nat
  agency : Nat
  regs   : CmdRegs
  join   : List (Nat × BitVec 32)
  deriving DecidableEq, Repr

/-- A copy channel (R207, R209, R219). `queue` holds the accepted, uncompleted commands, the active one first; `done`
is the number of innermost runs performed, `off` the byte offset in the current one, `issued` the calendar lines issued;
`halting` says that an ECAN waits for the active command's next element boundary (R213). -/
structure Channel where
  nextId  : BitVec 32
  queue   : List Command
  active  : Bool
  count   : Nat
  off     : Nat
  issued  : Nat
  readyAt : Nat
  flt     : Bool
  fault   : BitVec 64
  faddr   : BitVec 64
  offered : Bool
  joins   : List (Nat × BitVec 32)
  last    : CmdRegs
  halting : Bool
  deriving DecidableEq, Repr

/-- A calendar line in flight (R217, R231, R232): slot cycle, source (`dev` is another package's number), destination, bytes
once read at `slot + 12`, whether a byte came from its DRAM channel, the destination bytes that a later line of its command
has written (R122), whether its bytes have come to the store. A line that has landed with poison, and one that cannot be
accessed (`fault`), stays, with `land` 0, until the lines before it have landed. -/
structure CalLine where
  chan  : Nat
  cmd   : BitVec 32
  index : Nat
  at_   : Nat
  dev   : Option Nat
  pa    : Nat
  core  : Nat
  off   : Nat
  bytes : List (BitVec 8)
  bad   : BitVec 4
  read  : Bool
  dram  : Bool
  land  : Nat
  skip  : BitVec 128
  stored : Bool
  fault : Option TrapReq
  deriving DecidableEq, Repr

/-- 256 bytes on a lane of the chamber bus (R220, R221). `byClk` says that `due` counts the issued cycles of the
lockstep set, otherwise real cycles. -/
structure BusData where
  due    : Nat
  byClk  : Bool
  sender : Nat
  bytes  : List (BitVec 8)
  deriving DecidableEq, Repr

/-- Who made an access that is not performed yet: a context (its stores and captures, what waits behind a far access), a copy
channel, a line of a channel's calendar command, someone else. -/
inductive Agent where
  | ctx (core slot : Nat)
  | chan (core ch : Nat)
  | line (core ch index : Nat)
  | other
  deriving DecidableEq, Repr

/-- Bytes on their way into the scratchpad at the real cycle `due`: a slot-1 store in its two cycles (R192), a BLATCH's capture
(R220), or a write held by a PHASE window (R188). -/
structure ScrWrite where
  due    : Nat
  off    : Nat
  bytes  : List (BitVec 8)
  poison : Bool
  agent  : Agent
  deriving DecidableEq, Repr

/-- One core, or (from number 192) one companion core: what its contexts share. -/
structure Core where
  id       : Nat
  running  : Option Nat
  owner    : Option Nat
  readyAt  : Nat
  idleSince : Option Nat
  throttle : Nat
  qStart   : Nat
  qEnd     : Nat
  -- the core store and its L1
  l1Size   : Nat
  l1       : List L1Line
  phaseEnd : Option Nat
  l1Next   : Nat
  later    : List ScrWrite
  tlb      : List TlbEnt
  -- the matrix array
  el       : Vector Latch 4
  latchW   : List LatchWrite
  mode     : Option ArrayMode
  tiles    : Vector Tile 8
  beats    : List Beat
  -- copy channels, calendar, chamber bus
  chans    : Vector Channel 4
  calMap   : Vector (BitVec 64) 6
  calNext  : Option (Vector (BitVec 64) 6)
  calSince : Nat
  lines    : List CalLine
  bus      : List BusData
  pblk     : List (Nat × Nat × List (BitVec 64))
  -- link ports (R316): words pushed and whether landed, the agency, slot and launch that pushed each, words gone, whether the
  -- head packet is sent, packets received
  outq     : Vector (List (BitVec 64 × Bool)) 6
  outBy    : Vector (List (Nat × Nat × Nat)) 6
  outGone  : Vector Nat 6
  outSent  : Vector Bool 6
  inq      : Vector (List (List (BitVec 64))) 6
  deriving DecidableEq, Repr

/-! ## The hub: groups, launches, front end -/

/-- The barrier state of a group's member (R173). -/
inductive BarState where
  | idle
  | arrived (gen : Nat) (step : Bool)
  | done (gen : Nat) (step : Bool)
  deriving DecidableEq, Repr

/-- A member of a group, named by launch and core (R165, R171). -/
structure Member where
  launch : Nat
  core   : Nat
  bar    : BarState
  deriving DecidableEq, Repr

/-- A group object (R168–R175). -/
structure Group where
  index   : Nat
  live    : Bool
  inc     : Nat
  recAt     : Nat
  agency  : Nat
  launch  : Nat
  who     : BitVec 2
  quorum  : Nat
  gen     : Nat
  sends   : Nat
  joined  : Bool
  members : List Member
  deriving DecidableEq, Repr

/-- A packet that the front end has fetched and that has not completed (R402–R405), or a node of a GRAPH replay. `begun` says that
its start actions are done (R404). -/
structure Packet where
  uid    : Nat
  queue  : Nat
  index  : Nat
  agency : Nat
  words  : List (BitVec 64)
  phase  : Nat
  launch : Nat
  status : Nat
  node   : Option (Nat × Nat)
  begun  : Bool := false
  deriving DecidableEq, Repr

/-- A graph entry of the hub (R410). -/
structure GraphEnt where
  recAt : Nat
  gen : Nat
  deriving DecidableEq, Repr

/-- A GRAPH replay in progress: its packet, the generation it holds, the nodes dispatched and completed. -/
structure Replay where
  uid    : Nat
  recAt    : Nat
  gen    : Nat
  table  : List (List Nat)
  base   : Nat
  sent   : List Nat
  ended  : List Nat
  fault  : Bool
  deriving DecidableEq, Repr

/-- The front end's own state (R400–R413). -/
structure FrontEnd where
  nbase    : BitVec 64
  pending  : List Nat
  scan     : Nat
  packets  : List Packet
  nextUid  : Nat
  graphs   : List GraphEnt
  replays  : List Replay
  nextLaunch : Nat
  deriving DecidableEq, Repr

/-- A launch (R406, R407): its page-table root, handler, image area, cores, companions, and the packet it completes. -/
structure Launch where
  num    : Nat
  agency : Nat
  prio   : Nat
  root   : Nat
  lock   : Bool
  ssave  : Nat
  cores  : List Nat
  live   : List Nat
  uid    : Nat
  bad    : Bool
  deriving DecidableEq, Repr

/-- An entry of a companion queue (R383): the cycle of the push, pusher's core index and context, its launch, the ticket
that names the place, the word and whether it has landed. -/
structure CqEntry where
  at_    : Nat
  core   : Nat
  slot   : Nat
  launch : Nat
  ticket : Nat
  word   : BitVec 64
  landed : Bool
  deriving DecidableEq, Repr

/-- A companion queue (one per chamber): its entries, oldest first, and the next ticket. -/
structure CompQueue where
  next  : Nat
  items : List CqEntry
  deriving DecidableEq, Repr

/-! ## Memory homes -/

/-- A line of an L2 slice or of a sump slice (R226, R227), by its line number: valid and dirty sectors. The lists that
hold them keep the most recently used line first; the bytes themselves stand once, in `State.mem`. `bad` are the poisoned
sectors. -/
structure HomeLine where
  line  : Nat
  valid : BitVec 4
  dirty : BitVec 4
  bad   : BitVec 4
  deriving DecidableEq, Repr

/-- A sump slice's second-touch filter and lookup counter (R228). -/
structure SumpFilter where
  stack  : Nat
  bits   : List Nat
  count  : Nat
  deriving DecidableEq, Repr

/-- A sector held at its L2 home from a far access's acceptance to the sump's acknowledgement, or a request that came to the
sector in that time and is performed behind it (R229): in the order of acceptance. -/
structure FarHold where
  sector : Nat
  agent  : Agent
  far    : Bool
  deriving DecidableEq, Repr

/-- Where a memory error arises: a sector of HBM or of the sump, an L2 tag, a word of a core store (R206, R233, R234). -/
inductive UpsetAt where
  | hbm | sump | tag | store
  deriving DecidableEq, Repr

/-- A memory error that comes from outside at the cycle `at_` and that an access (or the scrubber) finds: the number of its sector
or line, or the key of its word; whether it can not be corrected (R206, R233, log 117, DESIGN CHOICE). -/
structure Upset where
  at_   : Nat
  place : UpsetAt
  addr  : Nat
  hard  : Bool
  deriving DecidableEq, Repr

/-! ## The fabric -/

/-- A flit of a packet on a link (R306, R308): its place in the packet, whether it takes the upper buffer class at the next router;
once it has been sent on a keyed link, its IV, and whether its payload went in clear. -/
structure Flit where
  pkt   : Pkt
  idx   : Nat
  upper : Bool
  iv    : Option (BitVec 96)
  clear : Bool
  deriving DecidableEq, Repr

/-- A link of the package (R304, R306, R308–R310, R423): the flits that wait to be sent, the last 128 sent, how many were sent and
received, the received flits of packets that are not complete, whether it is never keyed since its authentication failed. -/
structure Link where
  io      : BitVec 8
  ioNow   : BitVec 8
  encl    : Bool
  lstate  : BitVec 2
  en      : Bool
  key     : Option (BitVec 256)
  oldKey  : Option (BitVec 256)
  salt    : BitVec 16
  txCount : Vector Nat 8
  rxCount : Vector Nat 8
  stop    : BitVec 8
  fails   : Nat
  waiting : List Flit
  replay  : List Flit
  sentNum : Nat
  rxNum   : Nat
  rxGot   : List (Nat × Pkt)
  barred  : Bool
  deriving DecidableEq, Repr

/-- A request of this package (R311, R314): its timer, how often it was resent, what it is to its issuer (core, slot, launch,
step), its first response. -/
structure Outstanding where
  pkt     : Pkt
  due     : Nat
  resends : Nat
  step    : Nat
  core    : Nat
  slot    : Nat
  answer  : Option (BitVec 64 × List (BitVec 8))
  launch  : Nat
  deriving DecidableEq, Repr

/-- What the agent remembers of one source and stream (R312): the highest sequence number seen, the performed ones of
its window with their responses, and requests waiting for lower numbers. -/
structure RxStream where
  src    : Nat
  stream : Nat
  next   : Nat
  high   : Nat
  cache  : List (Nat × Load)
  held   : List (Nat × Pkt)
  deriving DecidableEq, Repr

/-- What is known of the members that a copy of a multicast request serves, behind a link whose answer is not complete (R324): the
merged word of those that have answered, the ordinal of its cause, their device numbers. -/
structure MergePart where
  link : Nat
  word : BitVec 64
  ord  : Option Nat
  devs : List Nat
  deriving DecidableEq, Repr

/-- A multicast request being merged at this router (R324): its agency, the link it came by, the links whose answers are still
awaited, the merged word so far with the members it counts, what those links have told. -/
structure Merge where
  src     : Nat
  stream  : Nat
  num     : Nat
  agency  : Nat
  from_   : Option Nat
  awaited : List Nat
  word    : BitVec 64
  ord     : Option Nat
  devs    : List Nat
  parts   : List MergePart
  deriving DecidableEq, Repr

/-- A round of a collective at this router (R326, R328): the core and port of this package's contribution, the packets of the parts
received, whether the combined part has gone up. -/
structure Coll where
  group : Nat
  op    : Nat
  core  : Option Nat
  port  : Nat
  pkts  : List Pkt
  sent  : Bool
  deriving DecidableEq, Repr

/-- The fabric agent and transit router (R303–R329). `loop` holds the packets that have reached this router and are not
yet handled, each with the link it came by, 6 for the package itself. -/
structure Fabric where
  dev     : Nat
  dims    : Nat × Nat × Nat
  devices : List Nat
  routes  : List (Nat × Nat)
  links   : Vector Link 6
  nums    : List ((Nat × Nat) × Nat)
  out     : List Outstanding
  rx      : List RxStream
  merges  : List Merge
  colls   : List Coll
  loop    : List (Nat × Pkt)
  deriving DecidableEq, Repr

/-! ## Flowstone and Rimstone -/

/-- A row (or chunk) sent, by its place in the plan and its sequence number: 0 under way, 1 acknowledged, 2 to be sent
again (R340, R345). -/
structure SentRow where
  index : Nat
  num   : Nat
  st    : Nat
  deriving DecidableEq, Repr

/-- A row performed here that the next commit lets be acknowledged (R340), with the cycle in which it was counted. -/
structure CountedRow where
  src    : Nat
  stream : Nat
  num    : Nat
  at_    : Nat
  deriving DecidableEq, Repr

/-- A commit under way (R340): the receive-table entries and the dwords 1 to 5 that it writes, the counted rows that it lets be
acknowledged, pr.sent and pr.recv as it gives them. -/
structure FlowCommit where
  entries : List (Nat × (Nat × Nat × Nat))
  words   : List (BitVec 64)
  counted : List CountedRow
  sent    : Nat
  recv    : Nat
  deriving DecidableEq, Repr

/-- A page fault of a run offered to the firmware (R345, R343): of a row received or of a local access; whether the
firmware has refused it. -/
structure RunWait where
  recv    : Bool
  va      : Nat
  detail  : Nat
  refused : Bool
  deriving DecidableEq, Repr

/-- A Flowstone run (R339–R346): its slot, the progress record's virtual address and fabric address, the two layout
records (or the manifest), the device tables; the live copy of the record; what has been sent and counted; the commit under way,
whether another is owed (`dirty`) or waits for the firmware (`blocked`), whether the hash and a zero receive table are still to be
written (`first`), the instruction or packet that waits for it (`waited`), whether the record may lie in a supervisor page. -/
structure Run where
  slot    : Nat
  ckpt    : Bool
  recVa   : Nat
  recId   : Nat
  launch  : Nat
  agency  : Nat
  source  : List (BitVec 64)
  target  : List (BitVec 64)
  tabS    : List Nat
  tabD    : List Nat
  hash    : BitVec 64
  rstate  : Nat
  fcause  : Nat
  fdet    : Nat
  poison  : Nat
  next    : Nat
  sent    : Nat
  recv    : Nat
  sentC   : Nat
  recvC   : Nat
  so      : Nat
  soHeld  : Bool
  soOurs  : Bool
  rtab    : Nat
  rows    : List SentRow
  counted : List CountedRow
  entries : List (Nat × (Nat × Nat × Nat))
  changed : List Nat
  dirty   : Bool
  wait    : Option RunWait
  uid     : Option Nat
  commit  : Option FlowCommit := none
  blocked : Bool := false
  first   : Bool := false
  waited  : Option (Nat × Nat) := none
  sup     : Bool := false
  deriving DecidableEq, Repr

/-- A fault record of a slice (R366, R371, R373). -/
structure FaultRec where
  cause  : BitVec 8
  mask   : BitVec 4
  coarse : Bool
  prom   : Bool
  taddr  : BitVec 64
  detail : BitVec 64
  pq0    : BitVec 64
  pq1    : BitVec 64
  pq2    : BitVec 64
  deriving DecidableEq, Repr

/-- A slice context (R349, R353, R354, R371, R373), by its number SCn: the slice it holds, the generation of its start and
of F, G_old and G_new, its bindings (core and slot), whether the posts of its eligibility are made, its records, and of the
latest sweep of its boundary the jump, whether it was corrected, the generation of the F it used, and the tolerance and cap
that came with a joint one (R360). -/
structure SliceCtx where
  num     : Nat
  slice   : Nat
  gen     : Nat
  genF    : Option Nat
  genOld  : Option Nat
  genNew  : Option Nat
  settled : Bool
  iter    : Nat
  fine    : Option (Nat × Nat)
  coarse  : Option (Nat × Nat)
  postedF : Bool
  postedG : Bool
  held     : Option FaultRec
  sweepRec : Option FaultRec
  jump    : Option (BitVec 64)
  corr    : Bool
  genSwF  : Option Nat
  tolCap  : Option (BitVec 64 × Nat)
  capped  : Bool
  deriving DecidableEq, Repr

/-- A package's signal that it may sweep boundary k (R360): the generations of slices k and k + 1 that it is about, whether
its sweep would be corrected, whether its F is computed on the start of slice k. -/
structure SweepSig where
  k    : Nat
  gen  : Nat
  next : Nat
  dev  : Nat
  corr : Bool
  fcur : Bool
  deriving DecidableEq, Repr

/-- A package's partial result of the joint sweep of boundary k (R360), with its tolerance and cap. -/
structure SweepPart where
  k    : Nat
  next : Nat
  dev  : Nat
  part : BitVec 64
  tol  : BitVec 64
  cap  : Nat
  deriving DecidableEq, Repr

/-- A joint sweep of boundary k that this package has performed on its shard and that is not complete (R360). -/
structure JointSweep where
  k    : Nat
  next : Nat
  corr : Bool
  fgen : Option Nat
  deriving DecidableEq, Repr

/-- An accepted attempt of a sweep that is not over (R355, R364): the boundary, the task that waits for its end, and the tolerance and
cap as they stood when it was accepted (R374). -/
structure SweepTry where
  k    : Nat
  task : Option (Nat × Nat)
  tol  : BitVec 64
  cap  : Nat
  deriving DecidableEq, Repr

/-- An event of a horizon whose event block lies in another package and that is not yet raised (R372): the launch and the core of the
owner, the address of the block, the bit, the slice it concerns. -/
structure RimEvent where
  h      : Nat
  launch : Nat
  owner  : Nat
  ev     : Nat
  bit    : Nat
  slice  : Option Nat
  deriving DecidableEq, Repr

/-- How often this package has opened a horizon that a set of packages shares, the set as hb.devs names it (R360; log 133, DESIGN CHOICE). -/
structure RimOpening where
  h     : Nat
  devs  : List (BitVec 64)
  count : Nat
  deriving DecidableEq, Repr

/-- A horizon (R349–R352, R360): its HCB snapshot, owner, window and slice contexts; `opening` is the number of its opening when
several packages share it; `sweeps` are the attempts accepted and not over, the first in progress; `tries` are boundaries to be
attempted again after the joint sweep in progress, `stuck` those whose joint sweep has met a fault (R373); `offer` is a page fault of
a sweep that was offered to the firmware, and whether the firmware has refused it. -/
structure Horizon where
  h      : Nat
  hcbAt  : Nat
  hcb    : List (BitVec 64)
  launch : Nat
  owner  : Nat
  winLo  : Nat
  scs    : List SliceCtx
  opening : Nat
  sweeps : List SweepTry
  tries  : List Nat
  stuck  : List Nat
  signals : List SweepSig
  parts  : List SweepPart
  joints : List JointSweep
  lost   : Bool
  told   : Bool
  offer  : Option (Nat × Bool)
  deriving DecidableEq, Repr

/-! ## The platform -/

/-- The package's power and boot state (R419, R426). -/
inductive Power where
  | off
  | booting    -- reset released, POWER_ON_BOOT not yet done
  | stuck      -- in reset after a failed boot; drives only VC6
  | running
  | shut       -- thermal shutdown
  deriving DecidableEq, Repr

/-- An SPDM session with a peer (0 to 5 the neighbours on the links), of the hub's responder or of a link's requester (`asks`): 1
after KEY_EXCHANGE, 2 after FINISH, and whether it stands (R422, R423). -/
structure Spdm where
  peer   : Nat
  asks   : Bool
  stage  : Nat
  keyed  : Bool
  deriving DecidableEq, Repr

/-- An entry of an error-log ring (R234) or of the management ring (R425): its words. -/
structure LogEnt where
  w0 : BitVec 64
  w1 : BitVec 64
  w2 : BitVec 64
  deriving DecidableEq, Repr

/-- A log ring: the newest entry first, how many were appended and how many overwritten. -/
structure Ring where
  ents : List LogEnt
  appended : Nat
  lost : Nat
  deriving DecidableEq, Repr

/-- The platform's registers (R419–R426). -/
structure Platform where
  power   : Power
  boot    : Nat
  mr      : Vector (List (BitVec 8)) 8
  journal : List (Nat × BitVec 64)
  acct    : List (Nat × BitVec 64)
  frac    : List (Nat × (Nat × Nat))
  mark    : List (Nat × BitVec 64)
  idle    : BitVec 64
  errs    : Vector Ring 8
  mgmt    : Ring
  spdm    : List Spdm
  deriving DecidableEq, Repr

/-! ## The package -/

/-- What the package sends outside through the hub: answers to host commands (R414) and to SPDM requests (R422). -/
inductive Answer where
  | word (addr : Nat) (w : BitVec 64)
  | wrote (addr : Nat)
  | invalidated (launch : Nat)
  | report (source : Nat) (detail : BitVec 64)
  | trapRecord (core slot : Nat) (record : List (BitVec 64))
  | spdm (peer : Nat) (code : Nat) (fields : List (BitVec 64)) (bytes : List (BitVec 8))
  | replayRequest (link first : Nat)
  deriving DecidableEq, Repr

/-- A task that was pre-empted (R103, R413): the context as it was stopped. Its image stands in memory at `ssave`. -/
structure Saved where
  ctx    : Ctx
  rank   : Nat
  posts  : List (Nat × Nat)
  signal : Bool
  deriving DecidableEq, Repr

/-- The part of a cycle that the package is in: what is due and what engines do, the turns of the cores, then the packets of the
front end, which its arbiter accepts last (R167, R416). -/
inductive CyclePart where
  | events | turns | front
  deriving DecidableEq, Repr

/-- A management interrupt that the front end has not yet accepted: its place in the order of a cycle (R416), source, detail
(R425). -/
structure Report where
  cls    : Nat
  source : Nat
  detail : BitVec 64
  deriving DecidableEq, Repr

/-- The whole package. `ctx` and `core` are the context and core that the step works on; `ctxs` and `cores` are all the
others. `reports` are the management interrupts of this cycle (R416, R425). The last fields are the model's own: outside
events and memory errors to come, the count of free choices drawn, the outcome of the last slot operation, the slot mask of
the trap being taken. -/
structure State where
  now    : Nat
  part   : CyclePart
  ctx    : Ctx
  core   : Core
  ctxs   : List Ctx
  cores  : List Core
  mem    : List Host.Cell
  poison : List Nat
  scr    : List Host.Cell
  scrBad : List Nat
  loc    : List Host.Cell
  imem   : List Host.Cell
  ctl    : List (Nat × BitVec 64)
  l2     : List HomeLine
  sump   : List HomeLine
  filt   : List SumpFilter
  far    : List FarHold
  ro     : List RoLine
  ctlb   : List (Nat × TlbEnt)
  cq     : List (Nat × CompQueue)
  groups : List Group
  launches : List Launch
  saved  : List Saved
  fe     : FrontEnd
  fab    : Fabric
  flows  : List Run
  rim    : List Horizon
  rimOpens : List RimOpening
  rimEvents : List RimEvent
  plat   : Platform
  answers : List Answer
  reports : List Report
  -- the model's own
  inputs : List (Nat × Instr)
  upsets : List Upset
  draw   : Nat
  sig    : Sig
  mask   : BitVec 4
  deriving DecidableEq, Repr

/-- Why the machine stops with a fault. -/
inductive Fault where
  /-- Raised by a step of a package that has no power (R421); safe: nothing runs. -/
  | powerless
  deriving DecidableEq, Repr

/-- Why a step has no meaning here. -/
inductive Refusal where
  /-- Raised by an arm of `exec` without a meaning; safe. -/
  | notModelled (mnemonic : String)
  /-- Raised by an event row whose arguments name a thing that does not exist (a link above 5, a packet that is not
  there); no machine makes such an event; safe. -/
  | noSuchEvent
  deriving DecidableEq, Repr

/-! ## Reset -/

/-- A vector value of zeros under tag 0. -/
def VVal.zero : VVal := ⟨Vector.replicate 32 0, 0, Vector.replicate 16 0⟩

/-- A shadow set of zeros. -/
def CmdRegs.zero : CmdRegs := ⟨0, 0, 0, 0, 0, 0, 0, Vector.replicate 6 0⟩

/-- An edge latch that has lost its contents (R283). -/
def Latch.zero : Latch := ⟨0, [], []⟩

/-- A context slot in which no task is placed; its registers hold what log 1, DESIGN CHOICE names. -/
def Ctx.idle (core slot : Nat) : Ctx :=
  { core := core, slot := slot, status := .free, launch := 0, agency := 0, lock := false, prio := 0,
    s := Vector.replicate 8 0, s31 := 0, sup := Vector.replicate 8 0, win := Vector.replicate 128 0,
    v := Vector.replicate 32 VVal.zero, p := (Vector.replicate 16 0).set 0 (BitVec.allOnes 256),
    f := Vector.replicate 32 0, sg := Vector.replicate 16 0, lat := Vector.replicate 4 (.scalar 0), latSeq := Vector.replicate 4 0, pat := [],
    patBank := false, ie := true, sv := false, il := decide (192 ≤ core), fpflags := 0, fptrap := 0, lc := 0, ec := 0,
    vrb := 0, wsp := 0, wbase := 0, tileX := 0, tileY := 0, tileZ := 0, alloc := 0, dbase := 0, budget := 0, bleft := 0,
    epcq0 := 0, epcq1 := 0, epcq2 := 0, tcause := 0, tmask := 0, taddr := 0, tdetail := 0, tvec := 0, ssave := 0,
    bkpt0 := 0, bkpt1 := 0, ienable := 0, ipend := 0, sigAt := 0, cqsrc := 0, rkey := 0, rctr := 0, q0 := ⟨0, false⟩,
    q1 := ⟨16, false⟩, q2 := ⟨32, false⟩, clk := 0, lclk := 0, seq := 0, late := [], infl := [], snap := [], replayU := none, vpld := [],
    wnext := 0, cursor := 0, bpskip := false, overPend := false, steer := {}, stallAt := none, heldAt := 0, handlerAt := 0, pfault := none,
    posts := [], pushes := [], mon := none, mwaitAt := none, stepping := false, slTold := false,
    slwaitAt := none, mcOut := 0, ack := 0, ackOrd := none, bind := none, run := none,
    lastIssue := 0, issuedQ := false, held := 0, perf := Vector.replicate 11 0, imBase := 0, imSize := 0, scrBase := 0,
    scrSize := 0, tiles := [], ports := false, shadow := Vector.replicate 4 CmdRegs.zero }

/-- A copy channel after package reset (R207, R209). -/
def Channel.reset : Channel :=
  { nextId := 0, queue := [], active := false, count := 0, off := 0, issued := 0, readyAt := 0, flt := false, fault := 0,
    faddr := 0, offered := false, joins := [], last := CmdRegs.zero, halting := false }

/-- The calendar map after reset: slot `j` belongs to channel `j mod 4` and is enabled (R216). -/
def calReset : Vector (BitVec 64) 6 := Vector.replicate 6 0xBA98_BA98_BA98_BA98

/-- A core that no context holds. -/
def Core.idle (n : Nat) : Core :=
  { id := n, running := none, owner := none, readyAt := 0, idleSince := none, throttle := 0, qStart := 0, qEnd := 150000, l1Size := 0,
    l1 := [], phaseEnd := none, l1Next := 0, later := [], tlb := [], el := Vector.replicate 4 Latch.zero,
    latchW := [], mode := none, tiles := Vector.replicate 8 ⟨0, []⟩, beats := [],
    chans := Vector.replicate 4 Channel.reset, calMap := calReset, calNext := none, calSince := 0, lines := [], bus := [], pblk := [],
    outq := Vector.replicate 6 [], outBy := Vector.replicate 6 [], outGone := Vector.replicate 6 0,
    outSent := Vector.replicate 6 false, inq := Vector.replicate 6 [] }

/-- A link after reset (R309): down, crossing an enclosure boundary, unkeyed. -/
def Link.reset : Link :=
  { io := 0, ioNow := 0, encl := true, lstate := 0, en := false, key := none, oldKey := none, salt := 0,
    txCount := Vector.replicate 8 0, rxCount := Vector.replicate 8 0, stop := 0, fails := 0, waiting := [], replay := [],
    sentNum := 0, rxNum := 0, rxGot := [], barred := false }

/-- The machine right after package reset: no power-on boot has run, nothing is launched, memory lists nothing. -/
def State.reset : State :=
  { now := 0, part := .events, ctx := Ctx.idle 0 0, core := Core.idle 0,
    ctxs := [], cores := [], mem := [], poison := [], scr := [], scrBad := [], loc := [], imem := [], ctl := [],
    l2 := [], sump := [], filt := [], far := [], ro := [], ctlb := [], cq := [], groups := [], launches := [],
    saved := [],
    fe := { nbase := 0, pending := [], scan := 0, packets := [], nextUid := 0, graphs := [], replays := [],
            nextLaunch := 1 },
    fab := { dev := 0, dims := (1, 1, 1), devices := [0], routes := [], links := Vector.replicate 6 Link.reset,
             nums := [], out := [], rx := [], merges := [], colls := [], loop := [] },
    flows := [], rim := [], rimOpens := [], rimEvents := [],
    plat := { power := .booting, boot := 0, mr := Vector.replicate 8 (List.replicate 64 0), journal := [], acct := [],
              frac := [], mark := [], idle := 0, errs := Vector.replicate 8 ⟨[], 0, 0⟩, mgmt := ⟨[], 0, 0⟩, spdm := [] },
    answers := [], reports := [], inputs := [], upsets := [], draw := 0, sig := .ran, mask := 0 }

end Sys2Proof.Machine
end

