-- ==== Sys2Proof/Machine/Bits.lean ====
section
/-! DEFINITION. Bit fields, byte order, sign extension and lanes (spec/00 R2, R6; spec/04 R57). -/

namespace Sys2Proof.Machine

/-! ## Bit fields of words -/

/-- x[hi:lo] as a number (R6). -/
def bits (x : Word) (hi lo : Nat) : Nat := (x.toNat / 2 ^ lo) % 2 ^ (hi + 1 - lo)

/-- Bit k of a word. -/
def bitAt (x : Word) (k : Nat) : Bool := x.getLsbD k

/-- sext(x, 64) of an n-bit field (R6). -/
def sextTo (n : Nat) (x : Nat) : Word := (BitVec.ofNat n x).signExtend 64

/-- The signed value of an n-bit field. -/
def sval (n : Nat) (x : Nat) : Int :=
  let y := x % 2 ^ n
  if n = 0 then 0 else if y < 2 ^ (n - 1) then (y : Int) else (y : Int) - (2 ^ n : Nat)

/-- wrap(x, n) as the n bits (R6). -/
def wrapN (n : Nat) (x : Int) : Nat := (x % ((2 ^ n : Nat) : Int)).toNat

/-- A natural number as a word. -/
def w64 (n : Nat) : Word := BitVec.ofNat 64 n

/-- A truth value as 1 or 0. -/
def ofBool (b : Bool) : Word := if b then 1 else 0

/-! ## Bytes -/

/-- The number whose little-endian bytes are given (R2). -/
def natOfBytes : List Byte → Nat
  | [] => 0
  | b :: t => b.toNat + 256 * natOfBytes t

/-- The n little-endian bytes of a number (R2). -/
def bytesOfNat : Nat → Nat → List Byte
  | 0, _ => []
  | n + 1, v => BitVec.ofNat 8 v :: bytesOfNat n (v / 256)

/-- The little-endian 64-bit words of a list of bytes. -/
def wordsOfBytes : Nat → List Byte → List Word
  | 0, _ => []
  | n + 1, bs => w64 (natOfBytes (bs.take 8)) :: wordsOfBytes n (bs.drop 8)

/-- The bytes of a list of words, in order. -/
def bytesOfWords (ws : List Word) : List Byte := ws.flatMap (fun w => bytesOfNat 8 w.toNat)

/-- Halfwords of a list of bytes. -/
def halvesOfBytes : Nat → List Byte → List (BitVec 16)
  | 0, _ => []
  | n + 1, bs => BitVec.ofNat 16 (natOfBytes (bs.take 2)) :: halvesOfBytes n (bs.drop 2)

/-! ## Lanes of a vector register (R57) -/

/-- The number held in bits [lo + w - 1 : lo] of a register's data; no element crosses a 64-bit word. -/
def laneBits (d : Vector (BitVec 64) 32) (w i : Nat) : Nat :=
  let lo := w * i
  ((d.getD (lo / 64) 0).toNat / 2 ^ (lo % 64)) % 2 ^ w

/-- Element i of width w of a register. -/
def VVal.lane (v : VVal) (w i : Nat) : Nat := laneBits v.data w i

/-- The packed 64-bit words of a list of elements of width w, `per` elements to a word. -/
def packWords (w per : Nat) : Nat → List Nat → List (BitVec 64)
  | 0, _ => []
  | n + 1, es =>
    BitVec.ofNat 64 ((es.take per).foldr (fun e acc => e % 2 ^ w + 2 ^ w * acc) 0) :: packWords w per n (es.drop per)

/-- Register data from its elements of width w, in ascending order; missing elements are zero. -/
def dataOfLanes (w : Nat) (es : List Nat) : Vector (BitVec 64) 32 :=
  let ws := packWords w (64 / w) 32 es
  Vector.ofFn (fun i : Fin 32 => ws.getD i 0)

/-- All elements of width w of a register, ascending. -/
def VVal.lanes (v : VVal) (w : Nat) : List Nat := (List.range (2048 / w)).map (v.lane w)

/-- The 256 bytes of a register (R57). -/
def VVal.bytes (v : VVal) : List Byte := v.data.toList.flatMap (fun w => bytesOfNat 8 w.toNat)

/-- Register data from its 256 bytes. -/
def dataOfBytes (bs : List Byte) : Vector (BitVec 64) 32 :=
  let ws := wordsOfBytes 32 bs
  Vector.ofFn (fun i : Fin 32 => ws.getD i 0)

/-- A register value of data and a tag, with no sidecar. -/
def VVal.mk' (data : Vector (BitVec 64) 32) (tag : BitVec 24) : VVal := ⟨data, tag, Vector.replicate 16 0⟩

/-- The bit mask of the bytes of a 64-bit word whose mask bits are set. -/
def byteMask64 (m : Nat) : Nat :=
  (List.range 8).foldl (fun acc k => if m / 2 ^ k % 2 = 1 then acc + 255 * 2 ^ (8 * k) else acc) 0

/-- `new` where the byte mask is set, `old` elsewhere. -/
def mergeData (old new : Vector (BitVec 64) 32) (mask : BitVec 256) : Vector (BitVec 64) 32 :=
  Vector.ofFn (fun i : Fin 32 =>
    let m := BitVec.ofNat 64 (byteMask64 (mask.toNat / 2 ^ (8 * i.val) % 256))
    (new[i] &&& m) ||| (old[i] &&& ~~~m))

/-- The byte mask that has every byte. -/
def fullMask : BitVec 256 := BitVec.allOnes 256

/-- The byte mask of the enabled elements of width w: element i is enabled by the predicate bit of its lowest byte
(R57, R236). A 4-bit element shares its byte's bit. -/
def elemMask (p : BitVec 256) (w : Nat) : BitVec 256 :=
  let k := w / 8
  if k ≤ 1 then p
  else BitVec.ofNat 256 ((List.range (256 / k)).foldr
    (fun i acc => if p.getLsbD (i * k) then acc + (2 ^ k - 1) * 2 ^ (i * k) else acc) 0)

/-- Whether element i of width w is enabled (R236). -/
def enabled (p : BitVec 256) (w i : Nat) : Bool := p.getLsbD (i * w / 8)

/-! ## Lists -/

/-- Replace element k. -/
def setAt {α : Type} (l : List α) (k : Nat) (x : α) : List α := l.set k x

/-- The entry of an association list, or a default. -/
def look {α : Type} (l : List (Nat × α)) (k : Nat) (d : α) : α :=
  match l.find? (fun e => e.1 == k) with
  | some e => e.2
  | none => d

/-- Set an entry of an association list whose keys rise strictly. -/
def put {α : Type} : List (Nat × α) → Nat → α → List (Nat × α)
  | [], k, x => [(k, x)]
  | (j, y) :: t, k, x =>
    if k < j then (k, x) :: (j, y) :: t else if k = j then (k, x) :: t else (j, y) :: put t k x

/-- Remove an entry. -/
def drop {α : Type} (l : List (Nat × α)) (k : Nat) : List (Nat × α) := l.filter (fun e => e.1 != k)

/-- Take element k modulo the length, if there is one: how a free choice picks from a list. -/
def chooseFrom {α : Type} (l : List α) (k : Nat) : Option α :=
  match l with
  | [] => none
  | [x] => some x
  | _ => l[k % l.length]?

end Sys2Proof.Machine
end

