-- ==== Sys2Proof/WellFormed.lean ====
section
/-! DEFINITION. Which instructions an encoding can hold: slot positions (R20), reserved field values (R42 to R55 and the
field tables of the class chapters) and what a header may lend (R25, R27, R44). All of it is decided from the slot word
and its lent byte alone (R45). -/

namespace Sys2Proof

/-- A source field as the lending rules see it (R25, R27): absent, a scalar register field, a vector register field, or
a field that holds a number or a predicate. -/
inductive Field where
  | absent
  | scalar (n : BitVec 5)
  | vector (n : BitVec 5)
  | number
  deriving DecidableEq, Repr

/-- The slot positions an operation may stand in (R20). -/
inductive Place where
  | c | cx | x | v | v2 | m
  deriving DecidableEq, Repr

/-- What the lending rules need of an instruction: place, whether it has a register result, its first and second source
fields, whether `lend.ext` extends an immediate or offset of its form (R25, R26, R44). -/
structure Shape where
  place : Place
  res   : Bool
  srcA  : Field
  srcB  : Field
  ext   : Bool
  deriving DecidableEq, Repr

/-- Whether slot `k` is of the place. -/
def Place.allows : Place → BitVec 2 → Bool
  | .c, k => k == 0
  | .cx, k => k == 0 || k == 1
  | .x, k => k == 1
  | .v, k => k == 2 || k == 3
  | .v2, k => k == 2
  | .m, k => k == 3

/-- Whether the bypass bit of a field may be set in slot `k` (R27): slot 1 names b0 or b1 in a scalar field, slots 2 and
3 name b2 or b3 in a vector field. -/
def Field.bypass (k : BitVec 2) : Field → Bool
  | .scalar n => k == 1 && decide (n.toNat ≤ 1)
  | .vector n => (k == 2 || k == 3) && (n.toNat == 2 || n.toNat == 3)
  | _ => false

/-- The lending rules (R24, R25, R27, R44) for a position and a shape. -/
def Shape.lends (s : Shape) (p : Pos) : Bool :=
  s.place.allows p.slot
  && (p.hdr || (!p.wbs && !p.bypA && !p.bypB && p.ext == 0))
  && (!p.hdr || p.slot != 0)
  && (!p.wbs || s.res)
  && (!p.bypA || s.srcA.bypass p.slot)
  && (!p.bypB || s.srcB.bypass p.slot)
  && (p.ext == 0 || s.ext)

/-- R forms with two scalar sources. -/
def Shape.r (pl : Place) (res : Bool) (a b : BitVec 5) : Shape := ⟨pl, res, .scalar a, .scalar b, false⟩

/-- Forms with one scalar source. -/
def Shape.one (pl : Place) (res : Bool) (a : BitVec 5) (ext : Bool := false) : Shape :=
  ⟨pl, res, .scalar a, .absent, ext⟩

/-- Forms without a register source. -/
def Shape.none (pl : Place) (res : Bool) : Shape := ⟨pl, res, .absent, .absent, false⟩

/-- V forms with two vector sources. -/
def Shape.vv (pl : Place) (va vb : BitVec 5) : Shape := ⟨pl, true, .vector va, .vector vb, false⟩

/-- V forms with one vector source. -/
def Shape.v1 (pl : Place) (va : BitVec 5) : Shape := ⟨pl, true, .vector va, .absent, false⟩

/-- The shape of every encoded instruction; the events have none. -/
def Instr.shape : Instr → Option (Pos × Shape)
  | .add p _ a b | .sub p _ a b | .and p _ a b | .or p _ a b | .xor p _ a b | .andn p _ a b | .shl p _ a b
  | .shr p _ a b | .sar p _ a b | .min p _ a b | .max p _ a b | .minn p _ a b | .maxn p _ a b | .sel p _ a b
  | .mul p _ a b | .mulh p _ a b | .mulhn p _ a b | .div p _ a b | .divn p _ a b | .rem p _ a b | .remn p _ a b
  | .addSat p _ a b | .subSat p _ a b => some (p, .r .cx true a b)
  | .slt p _ _ a b => some (p, .r .cx true a b)
  | .clz p _ a | .ctz p _ a | .popc p _ a => some (p, .one .cx true a)
  | .addI p _ a _ | .andI p _ a _ | .orI p _ a _ | .xorI p _ a _ | .minI p _ a _ | .maxI p _ a _ | .mulI p _ a _ =>
      some (p, .one .cx true a true)
  | .shlI p _ a _ | .shrI p _ a _ | .sarI p _ a _ | .lih p _ a _ => some (p, .one .cx true a)
  | .bfx p _ a _ _ | .bfi p _ a _ _ => some (p, .one .cx true a)
  | .br p a b _ _ _ => some (p, .r .c false a b)
  | .brp p _ _ _ _ => some (p, .none .c false)
  | .brl p _ _ => some (p, .none .c false)
  | .loop p a b => some (p, .r .c false a b)
  | .j p _ => some (p, .none .c false)
  | .call p _ _ => some (p, .none .c true)
  | .callr p a _ => some (p, .one .c true a)
  | .jr p a => some (p, .one .c false a)
  | .ret p _ => some (p, .none .c false)
  | .yield p _ | .trap p _ => some (p, .none .c false)
  | .endTask p | .eret p | .modeI p | .modeE p => some (p, .none .c false)
  | .srr p _ _ => some (p, .none .c true)
  | .srw p a _ | .srs p a _ | .src p a _ => some (p, .one .c false a)
  | .waitf p _ _ | .postf p _ _ => some (p, .none .c false)
  | .postr p _ a _ => some (p, .one .c false a)
  | .ftest p _ _ _ => some (p, .none .c true)
  | .gnew p _ a | .barg p _ a => some (p, .one .c true a)
  | .join p a | .leave p a | .barw p a | .bara p a | .step p a | .monitor p a | .mwait p a =>
      some (p, .one .c false a)
  | .ldB p _ base _ _ | .ldH p _ base _ _ | .ldW p _ base _ _ | .ldD p _ base _ _ | .ldBN p _ base _ _
  | .ldHN p _ base _ _ | .ldWN p _ base _ _ | .ldv p _ base _ _ => some (p, .one .x true base true)
  | .stB p d base _ _ | .stH p d base _ _ | .stW p d base _ _ | .stD p d base _ _ =>
      some (p, ⟨.x, false, .scalar base, .scalar d, true⟩)
  | .stv p d base _ _ => some (p, ⟨.x, false, .scalar base, .vector d, true⟩)
  | .ldq p _ a b _ => some (p, .r .x true a b)
  | .stq p _ a b _ => some (p, .r .x false a b)
  | .vgth p _ a b _ _ _ => some (p, ⟨.x, true, .scalar a, .vector b, false⟩)
  | .vsct p _ a b _ _ _ => some (p, ⟨.x, false, .scalar a, .vector b, false⟩)
  | .amo p _ a b _ _ _ => some (p, .r .x true a b)
  | .acqX p a | .acqS p a | .rel p a | .phase p a => some (p, .one .x false a)
  | .fenceCore p | .fenceDev p | .fenceFab p => some (p, .none .x false)
  | .invro p a b | .flushr p a b => some (p, .r .x false a b)
  | .pref p base _ _ => some (p, .one .x false base true)
  | .xferSv p _ a _ => some (p, .one .x true a)
  | .xferVs p _ a _ => some (p, ⟨.x, true, .vector a, .absent, false⟩)
  | .vext p _ a b _ => some (p, ⟨.x, true, .vector a, .scalar b, false⟩)
  | .ewr p a _ => some (p, .one .x false a)
  | .erd p _ _ => some (p, .none .x true)
  | .ego p _ _ => some (p, .none .x true)
  | .egoP p _ a _ => some (p, .one .x true a)
  | .ecan p _ => some (p, .none .x false)
  | .twait p a _ | .twaitn p a _ => some (p, .one .x false a)
  | .qfence p _ => some (p, .none .x false)
  | .pbinv p a => some (p, .one .x false a)
  | .bcast p a b => some (p, .r .x false a b)
  | .blatch p a => some (p, .one .x false a)
  | .rsgo p _ a b => some (p, .r .x false a b)
  | .rsstat p _ a => some (p, .one .x true a)
  | .rsstop p a => some (p, .one .x false a)
  | .ckpt p a b => some (p, .r .x false a b)
  | .slopen p _ _ a | .slstat p _ _ a | .sljump p _ _ a => some (p, .one .x true a)
  | .slbind p _ _ a b | .slinfo p _ _ a b => some (p, .r .x true a b)
  | .sldone p _ | .slgdone p _ | .slclose p _ => some (p, .none .x false)
  | .slpfx p _ _ | .slretire p _ _ | .slrecycle p _ _ => some (p, .none .x true)
  | .slwait p _ a | .slrefresh p _ a => some (p, .one .x false a)
  | .seedw p _ a => some (p, .one .x false a)
  | .seedr p _ _ => some (p, ⟨.x, true, .number, .absent, false⟩)
  | .vtgr p _ a => some (p, ⟨.x, true, .vector a, .absent, false⟩)
  | .pcnt p _ _ => some (p, .none .x true)
  | .vadd p _ va vb _ _ _ | .vsub p _ va vb _ _ _ | .vmul p _ va vb _ _ _ | .vfma p _ va vb _ _ _
  | .vfms p _ va vb _ _ _ | .vfnma p _ va vb _ _ _ => some (p, .vv .v va vb)
  | .vmin p _ va vb _ _ | .vmax p _ va vb _ _ | .vsel p _ va vb _ _ | .vand p _ va vb _ _ | .vor p _ va vb _ _
  | .vxor p _ va vb _ _ | .vshl p _ va vb _ _ | .vshr p _ va vb _ _ | .vsar p _ va vb _ _ => some (p, .vv .v va vb)
  | .vcmpEq p _ va vb _ _ | .vcmpNe p _ va vb _ _ | .vcmpLt p _ va vb _ _ | .vcmpGe p _ va vb _ _ =>
      some (p, .vv .v va vb)
  | .vdot p _ va vb _ _ => some (p, .vv .v va vb)
  | .vabs p _ va _ _ _ | .vneg p _ va _ _ _ => some (p, .v1 .v va)
  | .vnot p _ va _ _ => some (p, .v1 .v va)
  | .vli p _ _ _ _ => some (p, ⟨.v, true, .number, .absent, true⟩)
  | .vmov p _ va => some (p, .v1 .v va)
  | .vdiv p _ va vb _ _ _ => some (p, .vv .v2 va vb)
  | .vsqrt p _ va _ _ _ | .vrcp p _ va _ _ _ | .vrsq p _ va _ _ _ | .vexp2 p _ va _ _ _ | .vlog2 p _ va _ _ _
  | .vtanh p _ va _ _ _ | .vsinpi p _ va _ _ _ | .vcospi p _ va _ _ _ | .vredSum p _ va _ _ _ =>
      some (p, .v1 .v2 va)
  | .vredMax p _ va _ _ | .vredMin p _ va _ _ | .vmaxi p _ va _ _ => some (p, .v1 .v2 va)
  | .vshuf p _ va vb _ => some (p, .vv .v2 va vb)
  | .vpld p va vb _ => some (p, ⟨.v2, false, .vector va, .vector vb, false⟩)
  | .vpsw p => some (p, .none .v2 false)
  | .vcvt p _ va _ _ _ _ => some (p, ⟨.v2, true, .vector va, .number, false⟩)
  | .vnr p _ _ _ _ _ _ _ _ => some (p, ⟨.v2, true, .number, .absent, false⟩)
  | .vwd p _ va _ _ _ _ _ => some (p, .v1 .v2 va)
  | .vrot p _ va _ _ _ => some (p, .v1 .v2 va)
  | .vtag p _ va _ _ _ _ => some (p, .v1 .v2 va)
  | .pand p _ _ _ | .por p _ _ _ | .pxor p _ _ _ => some (p, ⟨.v2, true, .number, .number, false⟩)
  | .pnot p _ _ | .pfirst p _ _ => some (p, ⟨.v2, true, .number, .absent, false⟩)
  | .pset p _ _ => some (p, ⟨.v2, true, .number, .absent, true⟩)
  | .mset p _ _ _ _ _ => some (p, .none .m false)
  | .mload p _ desc _ _ _ reg _ => some (p, ⟨.m, false, if desc then .absent else .vector reg, .absent, false⟩)
  | .mfeed p _ _ _ _ desc _ reg => some (p, ⟨.m, false, if desc then .absent else .vector reg, .absent, false⟩)
  | .mdrain p _ _ _ _ _ _ _ => some (p, .none .m true)
  | .mfill p va _ _ _ _ => some (p, ⟨.m, false, .vector va, .absent, false⟩)
  | .mzero p _ _ _ _ => some (p, .none .m false)
  | _ => .none

/-- The width in bits of a format (R56), 8 for raw as fmt 0 works on byte elements (R236). -/
def fmtWidth (f : BitVec 5) : Nat :=
  match f.toNat with
  | 1 | 5 | 13 | 14 | 15 => 8
  | 2 | 6 | 11 | 12 => 16
  | 3 | 7 | 10 => 32
  | 4 | 8 | 9 => 64
  | 16 => 4
  | _ => 8

/-- Formats `lo` to `hi`. -/
def fmtIn (f : BitVec 5) (lo hi : Nat) : Bool := decide (lo ≤ f.toNat) && decide (f.toNat ≤ hi)

/-- The `int` column of R237: integer formats take rm 00 or 01, floating-point formats any rounding. -/
def rmInt (rm : BitVec 2) (f : BitVec 5) : Bool := fmtIn f 9 12 || decide (rm.toNat ≤ 1)

/-- The cache policies of a load (R22): 101 to 111 are reserved. -/
def polLoad (p : BitVec 3) : Bool := decide (p.toNat ≤ 4)

/-- The cache policies of a store (R51): `.ro` is reserved as well. -/
def polStore (p : BitVec 3) : Bool := decide (p.toNat ≤ 3)

/-- The state registers assigned on a chamber core (R91). -/
def sregChamber (r : Nat) : Bool :=
  decide (r ≤ 7) || (decide (0x10 ≤ r) && decide (r ≤ 0x1A)) || (decide (0x20 ≤ r) && decide (r ≤ 0x2C))

/-- The state registers assigned on a companion core (R382). -/
def sregCompanion (r : Nat) : Bool :=
  (sregChamber r && !(decide (3 ≤ r) && decide (r ≤ 5)) && !(decide (0x10 ≤ r) && decide (r ≤ 0x12)) && r != 0x17
    && r != 0x28) || (decide (0x30 ≤ r) && decide (r ≤ 0x34))

/-- The engine registers that ERD may name (R16, R207, R216). -/
def engineReadable (r : BitVec 16) : Bool :=
  let sel := r.toNat / 4096
  let n := r.toNat % 4096
  if sel ≤ 3 then
    decide (n ≤ 4) || (decide (6 ≤ n) && decide (n ≤ 13)) || (decide (0x20 ≤ n) && decide (n ≤ 0x24))
      || (decide (0x100 ≤ n) && decide (n ≤ 0x10D) && n != 0x105)
  else sel == 4 && (decide (n ≤ 5) || n == 0x10)

/-- The engine registers that EWR may name: a read-only register raises the illegal-opcode trap (R207). -/
def engineWritable (r : BitVec 16) : Bool :=
  let sel := r.toNat / 4096
  let n := r.toNat % 4096
  if sel ≤ 3 then decide (n ≤ 4) || (decide (6 ≤ n) && decide (n ≤ 13)) || n == 0x21
  else sel == 4 && decide (n ≤ 5)

/-- A descriptor pair's first register: even, from 2 to 22 (R285). -/
def pairReg (n : BitVec 5) : Bool := n.toNat % 2 == 0 && decide (2 ≤ n.toNat) && decide (n.toNat ≤ 22)

/-- The format pairs of R281, with the group field each admits. -/
def msetPair (fa fb : BitVec 5) (grp : BitVec 2) (zp : Bool) : Bool :=
  let f8 := fun (f : BitVec 5) => f.toNat == 13 || f.toNat == 14
  let i8 := fun (f : BitVec 5) => f.toNat == 1 || f.toNat == 5
  ((f8 fa && f8 fb) && grp == 0 && !zp)
  || ((fa.toNat == 11 && fb.toNat == 11) && grp == 0 && !zp)
  || ((fa.toNat == 12 && fb.toNat == 12) && grp == 0 && !zp)
  || ((i8 fa && i8 fb) && grp == 0)
  || ((fa.toNat == 15 && fb.toNat == 15) && grp != 0 && !zp)
  || ((fa.toNat == 16 && fb.toNat == 16) && grp != 0 && !zp)

/-- Rows of an edge latch for an element format (R281): 2048 divided by twice the width ... 128 at 8 bits, 256 at 4,
64 at 16. -/
def latchRows (f : BitVec 5) : Nat := 1024 / fmtWidth f

/-- The conditions on MLOAD's fields (the table before R289). -/
def mloadOk (desc meta_ : Bool) (row : BitVec 8) (half : Bool) (reg fmt : BitVec 5) : Bool :=
  let grouped := fmt.toNat == 15 || fmt.toNat == 16
  (fmt.toNat == 1 || fmt.toNat == 5 || fmtIn fmt 11 16)
  && (desc || !grouped)
  && (!meta_ || (desc && grouped))
  && (if meta_ then decide (row.toNat ≤ 7) else decide (row.toNat < latchRows fmt))
  && (!half || (!desc && (fmt.toNat == 11 || fmt.toNat == 12)))
  && (!desc || pairReg reg)

/-- The conditions on MDRAIN's fields (the table before R292). -/
def mdrainOk (row : BitVec 7) (seg rm : BitVec 2) (fmt : BitVec 5) : Bool :=
  (fmtIn fmt 0 3 || fmtIn fmt 10 14) && seg != 3 && (decide (3 < fmt.toNat) || rm == 0)
  && row.toNat % (if fmt.toNat == 0 then 1 else 32 / fmtWidth fmt) == 0

/-- The values that an instruction's fields may hold. -/
def Instr.fieldsOk : Instr → Bool
  | .slt _ cc _ _ _ => decide (cc.toNat ≤ 5)
  | .br _ _ _ cc an _ => decide (cc.toNat ≤ 5) && an != 3
  | .brp _ pr cc an _ => decide (pr.toNat ≤ 15) && decide (cc.toNat ≤ 1) && an != 3
  | .brl _ an _ => an != 3
  | .call _ f _ | .callr _ _ f | .ret _ f => decide (f.toNat ≤ 16)
  | .srr _ _ r | .srw _ _ r | .srs _ _ r | .src _ _ r => sregChamber r.toNat || sregCompanion r.toNat
  | .ldB _ _ _ pol _ | .ldH _ _ _ pol _ | .ldW _ _ _ pol _ | .ldD _ _ _ pol _ | .ldBN _ _ _ pol _
  | .ldHN _ _ _ pol _ | .ldWN _ _ _ pol _ | .ldv _ _ _ pol _ | .pref _ _ pol _ => polLoad pol
  | .stB _ _ _ pol _ | .stH _ _ _ pol _ | .stW _ _ _ pol _ | .stD _ _ _ pol _ | .stv _ _ _ pol _ => polStore pol
  | .ldq _ _ _ _ pol => polLoad pol
  | .stq _ _ _ _ pol => polStore pol
  | .vgth _ _ _ _ pol _ _ => polLoad pol
  | .vsct _ _ _ _ pol _ _ => polStore pol
  | .amo _ _ _ _ op _ _ => decide (op.toNat ≤ 10)
  | .vext _ _ _ _ f => fmtIn f 1 16
  | .ewr _ _ r => engineWritable r
  | .erd _ _ r => engineReadable r
  | .qfence _ m => m != 0
  | .seedw _ k _ | .seedr _ _ k => decide (k.toNat ≤ 15)
  | .pcnt _ _ n => decide (n.toNat ≤ 0x0A)
  | .vadd _ _ _ _ _ rm f | .vsub _ _ _ _ _ rm f | .vmul _ _ _ _ _ rm f | .vredSum _ _ _ _ rm f =>
      fmtIn f 1 12 && rmInt rm f
  | .vfma _ _ _ _ _ _ f | .vfms _ _ _ _ _ _ f | .vfnma _ _ _ _ _ _ f | .vdiv _ _ _ _ _ _ f => fmtIn f 9 12
  | .vsqrt _ _ _ _ _ f | .vrcp _ _ _ _ _ f | .vrsq _ _ _ _ _ f | .vexp2 _ _ _ _ _ f | .vlog2 _ _ _ _ _ f
  | .vtanh _ _ _ _ _ f | .vsinpi _ _ _ _ _ f | .vcospi _ _ _ _ _ f => fmtIn f 9 12
  | .vmin _ _ _ _ _ f | .vmax _ _ _ _ _ f | .vredMax _ _ _ _ f | .vredMin _ _ _ _ f => fmtIn f 1 12
  | .vabs _ _ _ _ rm f | .vneg _ _ _ _ rm f =>
      fmtIn f 1 12 && (if fmtIn f 1 8 then decide (rm.toNat ≤ 1) else rm == 0)
  | .vcmpEq _ _ _ _ _ f | .vcmpNe _ _ _ _ _ f | .vcmpLt _ _ _ _ _ f | .vcmpGe _ _ _ _ _ f => fmtIn f 1 12
  | .vsel _ _ _ _ _ f => fmtIn f 0 14
  | .vand _ _ _ _ _ f | .vor _ _ _ _ _ f | .vxor _ _ _ _ _ f | .vnot _ _ _ _ f => fmtIn f 0 8
  | .vshl _ _ _ _ _ f | .vshr _ _ _ _ _ f | .vsar _ _ _ _ _ f => fmtIn f 1 8
  | .vdot _ _ _ _ _ rm => decide (rm.toNat ≤ 1)
  | .vli _ _ f _ _ => fmtIn f 1 16
  | .vmaxi _ _ _ _ f => fmtIn f 1 3 || fmtIn f 5 7 || fmtIn f 10 14
  | .vcvt _ _ _ sf _ _ f => fmtIn sf 1 14 && fmtIn f 1 14
  | .vnr _ _ _ run block group rotate _ f => run != 0 && fmtIn f 11 16 && (block != 0 || (!group && !rotate))
  | .vwd _ _ _ run _ _ _ f => run != 0 && fmtIn f 9 12
  | .vrot _ _ _ block _ f => block != 0 && fmtIn f 9 12
  | .vtag _ _ _ _ _ _ f => fmtIn f 0 16
  | .mset _ fa fb grp zp reg => msetPair fa fb grp zp && (zp || reg == 0)
  | .mload _ _ desc meta_ row half reg f => mloadOk desc meta_ row half reg f
  | .mfeed _ _ _ _ _ desc half reg => !desc || (pairReg reg && !half)
  | .mdrain _ _ _ row seg _ rm f => mdrainOk row seg rm f
  | .mfill _ _ _ _ seg f => seg != 3 && (f.toNat == 0 || f.toNat == 3 || f.toNat == 10)
  | .mzero _ _ row cnt _ => decide (row.toNat + cnt.toNat + 1 ≤ 128)
  | _ => true

/-- A well-formed encoded instruction: its position, its lent bits and its fields obey the encoding rules. An event is
not encoded and so is not well formed. -/
def Instr.wellFormed (i : Instr) : Bool :=
  match i.shape with
  | some (p, s) => s.lends p && i.fieldsOk
  | none => false

/-- Whether an instruction is legal on a companion core (R380, R382). -/
def Instr.legalOnCompanion : Instr → Bool
  | .brp .. | .brl .. | .loop .. | .gnew .. | .join .. | .leave .. | .barw .. | .bara .. | .barg .. | .step .. => false
  | .ldv .. | .stv .. | .ldq .. | .stq .. | .vgth .. | .vsct .. => false
  | .xferSv .. | .xferVs .. | .vext .. | .ewr .. | .erd .. | .ego .. | .egoP .. | .ecan .. | .twait .. | .twaitn ..
  | .qfence .. | .pbinv .. | .bcast .. | .blatch .. | .rsgo .. | .rsstat .. | .rsstop .. | .ckpt .. => false
  | .slopen .. | .slbind .. | .sldone .. | .slgdone .. | .slstat .. | .sljump .. | .slpfx .. | .slinfo ..
  | .slwait .. | .slretire .. | .slrecycle .. | .slrefresh .. | .slclose .. => false
  | .seedw .. | .seedr .. | .vtgr .. | .phase .. => false
  | .srr _ _ r | .srw _ _ r | .srs _ _ r | .src _ _ r => sregCompanion r.toNat
  | i => match i.shape with
         | some (p, _) => decide (p.slot.toNat ≤ 1)
         | none => false

/-- Whether an instruction is legal on a chamber core: only the companion's state registers are not (R91, R382). -/
def Instr.legalOnChamber : Instr → Bool
  | .srr _ _ r | .srw _ _ r | .srs _ _ r | .src _ _ r => sregChamber r.toNat
  | _ => true

end Sys2Proof
end

