-- ==== Sys2Proof/Machine/Float.lean ====
section
/-! DEFINITION. Floating-point values as exact dyadic numbers and the one rounding function (spec/04 R58, R59, R64 to
R68, R70; spec/13 R238 to R240, R248). Codes are natural numbers below 2^width. -/

namespace Sys2Proof.Machine

/-! ## Flags (R70) -/

/-- Invalid operation. -/
def fNV : BitVec 5 := 16
/-- Division by zero, or an exact infinite result. -/
def fDZ : BitVec 5 := 8
/-- Overflow, or saturation of a narrowing conversion. -/
def fOF : BitVec 5 := 4
/-- Underflow. -/
def fUF : BitVec 5 := 2
/-- Inexact. -/
def fNX : BitVec 5 := 1

/-! ## Formats (R58) -/

/-- A binary floating-point format: exponent bits, bias, fraction bits, and whether its all-ones exponent is special. -/
structure FFmt where
  ebits : Nat
  bias  : Nat
  mbits : Nat
  ieee  : Bool
  deriving DecidableEq, Repr

/-- f32, the format of accumulators and of many fixed results. -/
def f32 : FFmt := ⟨8, 127, 23, true⟩
/-- f64. -/
def f64 : FFmt := ⟨11, 1023, 52, true⟩
/-- f16, also the format of group scales. -/
def f16 : FFmt := ⟨5, 15, 10, true⟩

/-- The layout of format codes 9 to 14 (R56, R58). -/
def ffmt (f : BitVec 5) : FFmt :=
  match f.toNat with
  | 9 => f64
  | 10 => f32
  | 11 => f16
  | 12 => ⟨8, 127, 7, true⟩
  | 13 => ⟨4, 8, 3, false⟩
  | _ => ⟨5, 16, 2, false⟩

/-- Whether a format code is floating point. -/
def isFloat (f : BitVec 5) : Bool := fmtIn f 9 14

/-- Whether a format code is a signed integer. -/
def isSigned (f : BitVec 5) : Bool := fmtIn f 1 4

/-- The sign bit's weight. -/
def FFmt.sign (f : FFmt) : Nat := 2 ^ (f.ebits + f.mbits)
/-- The largest finite magnitude's code. -/
def FFmt.maxCode (f : FFmt) : Nat := (if f.ieee then (2 ^ f.ebits - 1) * 2 ^ f.mbits else f.sign) - 1
/-- The canonical NaN (R59). -/
def FFmt.nanCode (f : FFmt) : Nat :=
  if f.ieee then (2 ^ f.ebits - 1) * 2 ^ f.mbits + 2 ^ (f.mbits - 1) else f.sign
/-- A magnitude's code with its sign; f8a and f8b have no negative zero. -/
def FFmt.signed (f : FFmt) (neg : Bool) (mag : Nat) : Nat :=
  if neg && (f.ieee || mag != 0) then f.sign + mag else mag
/-- Infinity; f8a and f8b, which have none, take the largest finite. -/
def FFmt.infCode (f : FFmt) (neg : Bool) : Nat :=
  f.signed neg (if f.ieee then (2 ^ f.ebits - 1) * 2 ^ f.mbits else f.maxCode)

/-! ## Values -/

/-- What a code stands for: a NaN (signalling or quiet), an infinity, or the number ±m · 2^e. -/
inductive FVal where
  | nan (sig : Bool)
  | inf (neg : Bool)
  | num (neg : Bool) (m : Nat) (e : Int)
  deriving DecidableEq, Repr

/-- The value of a code (R58); `flush` reads a subnormal as a zero of its sign (R68), never in f8a and f8b. -/
def FFmt.decode (f : FFmt) (flush : Bool) (code : Nat) : FVal :=
  let neg := code / f.sign % 2 == 1
  let ex := code / 2 ^ f.mbits % 2 ^ f.ebits
  let m := code % 2 ^ f.mbits
  if !f.ieee && code == f.sign then .nan false
  else if f.ieee && ex == 2 ^ f.ebits - 1 then
    (if m = 0 then .inf neg else .nan (m / 2 ^ (f.mbits - 1) == 0))
  else if ex = 0 then .num neg (if flush && f.ieee then 0 else m) (1 - (f.bias : Int) - f.mbits)
  else .num neg (2 ^ f.mbits + m) ((ex : Int) - f.bias - f.mbits)

/-- NV for a signalling NaN (R59). -/
def FVal.nv : FVal → BitVec 5
  | .nan true => fNV
  | _ => 0

/-- Whether a value is a NaN. -/
def FVal.isNan : FVal → Bool
  | .nan _ => true
  | _ => false

/-- The value with the other sign. -/
def FVal.neg : FVal → FVal
  | .nan s => .nan s
  | .inf n => .inf !n
  | .num n m e => .num (!n) m e

/-- The magnitude. -/
def FVal.abs : FVal → FVal
  | .nan s => .nan s
  | .inf _ => .inf false
  | .num _ m e => .num false m e

/-- A signed integer as a value; zero is +0. -/
def FVal.ofInt (x : Int) : FVal := .num (decide (x < 0)) x.natAbs 0

/-! ## Rounding (R66, R68) -/

/-- The number of bits of a natural number. -/
def bitLen (n : Nat) : Nat := if n = 0 then 0 else Nat.log2 n + 1

/-- Round m / 2^sh to an integer by rm, where `sticky` says that a positive amount below one unit of m was dropped: the
integer and whether anything was lost. With a sticky bit, sh is at least 2. -/
def roundAt (rm : BitVec 2) (neg : Bool) (m : Nat) (sh : Int) (sticky : Bool) : Nat × Bool :=
  if sh ≤ 0 then (m * 2 ^ (-sh).toNat, sticky)
  else
    let k := sh.toNat
    let q := m / 2 ^ k
    let r := m % 2 ^ k
    let half := 2 ^ (k - 1)
    let inexact := r != 0 || sticky
    let up := match rm.toNat with
      | 0 => decide (half < r) || (r == half && (sticky || q % 2 == 1))
      | 1 => false
      | 2 => neg && inexact
      | _ => !neg && inexact
    (if up then q + 1 else q, inexact)

/-- Round ±m · 2^e (plus a dropped part when `sticky`) into a format: the code and its flags. `sat` takes the largest
finite on overflow (R65); otherwise rm decides (R66). `flush` delivers a tiny result as zero (R68). -/
def FFmt.round (f : FFmt) (rm : BitVec 2) (sat flush neg : Bool) (m : Nat) (e : Int) (sticky : Bool) :
    Nat × BitVec 5 :=
  if m = 0 && !sticky then (f.signed neg 0, 0)
  else
    let p : Int := f.mbits
    let top : Int := e + (bitLen m : Int) - 1
    let emin : Int := 1 - (f.bias : Int)
    let u := (roundAt rm neg m (top - p - e) sticky).1
    let tiny := decide (top + (if u = 2 ^ (f.mbits + 1) then 1 else 0) < emin)
    if flush && f.ieee && tiny then (f.signed neg 0, fUF ||| fNX)
    else
      let q : Int := if top < emin then emin - p else top - p
      let r := roundAt rm neg m (q - e) sticky
      let code := (q - (emin - p)).toNat * 2 ^ f.mbits + r.1
      if f.maxCode < code then
        let toMax := sat || !f.ieee || (match rm.toNat with
          | 0 => false
          | 1 => true
          | 2 => !neg
          | _ => neg)
        (if toMax then f.signed neg f.maxCode else f.infCode neg, fOF ||| fNX)
      else (f.signed neg code, (if r.2 then fNX else 0) ||| (if tiny && r.2 then fUF else 0))

/-- A value delivered in a format. -/
def FFmt.deliver (f : FFmt) (rm : BitVec 2) (flush : Bool) (v : FVal) : Nat × BitVec 5 :=
  match v with
  | .nan _ => (f.nanCode, 0)
  | .inf n => (f.infCode n, 0)
  | .num n m e => f.round rm false flush n m e false

/-! ## Exact arithmetic (R238, R239) -/

/-- The sign of an exact zero sum: that of both terms when they agree, else minus under RDN only (R239). -/
def zeroSign (rm : BitVec 2) (a b : Bool) : Bool := if a = b then a else rm == 2

/-- The exact sum of two numbers. -/
def addNum (rm : BitVec 2) (na : Bool) (ma : Nat) (ea : Int) (nb : Bool) (mb : Nat) (eb : Int) : FVal :=
  let e := if ea ≤ eb then ea else eb
  let x : Int := (ma * 2 ^ (ea - e).toNat : Nat)
  let y : Int := (mb * 2 ^ (eb - e).toNat : Nat)
  let s := (if na then -x else x) + (if nb then -y else y)
  if s = 0 then .num (if ma = 0 && mb = 0 then zeroSign rm na nb else rm == 2) 0 e
  else .num (decide (s < 0)) s.natAbs e

/-- The exact sum of two values and NV (R238). -/
def FVal.add (rm : BitVec 2) (a b : FVal) : FVal × BitVec 5 :=
  match a, b with
  | .nan _, _ => (.nan false, a.nv ||| b.nv)
  | _, .nan _ => (.nan false, a.nv ||| b.nv)
  | .inf n, .inf k => if n = k then (.inf n, 0) else (.nan false, fNV)
  | .inf n, .num _ _ _ => (.inf n, 0)
  | .num _ _ _, .inf n => (.inf n, 0)
  | .num na ma ea, .num nb mb eb => (addNum rm na ma ea nb mb eb, 0)

/-- The exact product of two values and NV (R238). -/
def FVal.mul (a b : FVal) : FVal × BitVec 5 :=
  match a, b with
  | .nan _, _ => (.nan false, a.nv ||| b.nv)
  | _, .nan _ => (.nan false, a.nv ||| b.nv)
  | .inf n, .inf k => (.inf (n != k), 0)
  | .inf n, .num k m _ => if m = 0 then (.nan false, fNV) else (.inf (n != k), 0)
  | .num k m _, .inf n => if m = 0 then (.nan false, fNV) else (.inf (n != k), 0)
  | .num na ma ea, .num nb mb eb => (.num (na != nb) (ma * mb) (ea + eb), 0)

/-- The exact a · b + c and NV (R239). -/
def FVal.fma (rm : BitVec 2) (a b c : FVal) : FVal × BitVec 5 :=
  let (p, fl) := a.mul b
  match p with
  | .nan _ => (.nan false, fl ||| c.nv)
  | _ => let (s, fl') := p.add rm c
         (s, fl ||| fl')

/-- a / b rounded (R248). -/
def FFmt.div (f : FFmt) (rm : BitVec 2) (flush : Bool) (a b : FVal) : Nat × BitVec 5 :=
  match a, b with
  | .nan _, _ => (f.nanCode, a.nv ||| b.nv)
  | _, .nan _ => (f.nanCode, a.nv ||| b.nv)
  | .inf _, .inf _ => (f.nanCode, fNV)
  | .inf n, .num k _ _ => (f.infCode (n != k), 0)
  | .num n _ _, .inf k => (f.signed (n != k) 0, 0)
  | .num n ma ea, .num k mb eb =>
    if mb = 0 then (if ma = 0 then (f.nanCode, fNV) else (f.infCode (n != k), fDZ))
    else if ma = 0 then (f.signed (n != k) 0, 0)
    else
      let s := f.mbits + 4 + bitLen mb
      let q := ma * 2 ^ s / mb
      f.round rm false flush (n != k) q (ea - eb - (s : Int)) (q * mb != ma * 2 ^ s)

/-- floor(sqrt(n)), bit by bit from bit `k` down. -/
def isqrtFrom : Nat → Nat → Nat → Nat
  | 0, _, r => r
  | k + 1, n, r => isqrtFrom k n (if (r + 2 ^ k) * (r + 2 ^ k) ≤ n then r + 2 ^ k else r)

/-- floor(sqrt(n)). -/
def isqrt (n : Nat) : Nat := isqrtFrom (bitLen n / 2 + 1) n 0

/-- sqrt(a) rounded (R248). -/
def FFmt.sqrt (f : FFmt) (rm : BitVec 2) (flush : Bool) (a : FVal) : Nat × BitVec 5 :=
  match a with
  | .nan _ => (f.nanCode, a.nv)
  | .inf n => if n then (f.nanCode, fNV) else (f.infCode false, 0)
  | .num n m e =>
    if m = 0 then (f.signed n 0, 0)
    else if n then (f.nanCode, fNV)
    else
      let s := 2 * (f.mbits + 4) + (if e % 2 = 0 then 0 else 1)
      let x := m * 2 ^ s
      let r := isqrt x
      f.round rm false flush false r ((e - (s : Int)) / 2) (r * r != x)

/-- 1 / sqrt(a) rounded (R248). -/
def FFmt.rsqrt (f : FFmt) (rm : BitVec 2) (flush : Bool) (a : FVal) : Nat × BitVec 5 :=
  match a with
  | .nan _ => (f.nanCode, a.nv)
  | .inf n => if n then (f.nanCode, fNV) else (f.signed false 0, 0)
  | .num n m e =>
    if m = 0 then (f.infCode n, fDZ)
    else if n then (f.nanCode, fNV)
    else
      let s := 2 * (f.mbits + 4) + bitLen m + (if (e + ((bitLen m : Nat) : Int)) % 2 = 0 then 0 else 1)
      let x := 2 ^ s / m
      let r := isqrt x
      f.round rm false flush false r ((-e - (s : Int)) / 2) (r * r * m != 2 ^ s)

/-! ## Order (R240, R241) -/

/-- A number that orders the codes of a format that are no NaN, −0 just below +0; `flush` takes subnormals as zeros of
their sign. -/
def FFmt.key (f : FFmt) (flush : Bool) (code : Nat) : Int :=
  let neg := code / f.sign % 2 == 1
  let mag := code % f.sign
  let mag := if flush && f.ieee && decide (mag < 2 ^ f.mbits) then 0 else mag
  if neg then -(mag : Int) - 1 else mag

/-- A number that orders them with −0 equal to +0. -/
def FFmt.keyEq (f : FFmt) (flush : Bool) (code : Nat) : Int :=
  let k := f.key flush code
  if k < 0 then k + 1 else k

/-! ## Integers and conversions (R64, R65) -/

/-- The number an element of an integer format stands for. -/
def intVal (f : BitVec 5) (code : Nat) : Int := if isSigned f then sval (fmtWidth f) code else (code : Int)

/-- The least value of an integer format. -/
def intMin (f : BitVec 5) : Int := if isSigned f then -(2 ^ (fmtWidth f - 1) : Nat) else 0
/-- The greatest value of an integer format. -/
def intMax (f : BitVec 5) : Int :=
  if isSigned f then (2 ^ (fmtWidth f - 1) : Nat) - 1 else (2 ^ fmtWidth f : Nat) - 1

/-- sat(x, f) (R6, R64). -/
def satInt (f : BitVec 5) (x : Int) : Int := if x < intMin f then intMin f else if intMax f < x then intMax f else x

/-- An integer as the code of a format: wrapped, or saturated first. -/
def intCode (f : BitVec 5) (sat : Bool) (x : Int) : Nat := wrapN (fmtWidth f) (if sat then satInt f x else x)

/-- A finite value rounded to an integer by rm: the integer and whether it was inexact. -/
def toInt (rm : BitVec 2) (neg : Bool) (m : Nat) (e : Int) : Int × Bool :=
  if 0 ≤ e then
    let x : Int := (m * 2 ^ e.toNat : Nat)
    (if neg then -x else x, false)
  else
    let r := roundAt rm neg m (-e) false
    (if neg then -(r.1 : Int) else r.1, r.2)

/-- Convert a code between formats 1 to 14 (R65). `flush` says exposed mode (R68). The model chooses (log 113, DESIGN CHOICE):
between f16 and bf16, of one width, the row of the narrower format holds. -/
def convert (src dst : BitVec 5) (rm : BitVec 2) (flush : Bool) (code : Nat) : Nat × BitVec 5 :=
  if isFloat src then
    let v := (ffmt src).decode flush code
    if isFloat dst then
      let f := ffmt dst
      match v with
      | .nan _ => (f.nanCode, v.nv)
      | .inf n => (f.infCode n, if f.ieee then 0 else fOF ||| fNX)
      | .num n m e => f.round rm true flush n m e false
    else match v with
      | .nan _ => (0, fNV)
      | .inf n => (intCode dst true (if n then intMin dst else intMax dst), fNV)
      | .num n m e =>
        let (x, inexact) := toInt rm n m e
        if x < intMin dst || intMax dst < x then (intCode dst true x, fNV)
        else (intCode dst false x, if inexact then fNX else 0)
  else
    let x := intVal src code
    if isFloat dst then (ffmt dst).round rm false flush (decide (x < 0)) x.natAbs 0 false
    else (intCode dst true x, 0)

end Sys2Proof.Machine
end

