-- ==== Sys2Proof/Config.lean ====
section
/-! DEFINITION. What the spec leaves open, as free values (constants without a body): nothing in Lean can prove which
value they take, so a claim holds for every one. notes/assumptions says for each which rule leaves it open. -/

namespace Sys2Proof.Config

/-- The n-th free choice drawn (log 5, DESIGN CHOICE): which of several enabled events happens, in which order arbiters accept. -/
opaque pick : Nat → Nat

/-- The length in cycles of the n-th freeze or answer to which the spec gives no length (log 9, DESIGN CHOICE). -/
opaque delay : Nat → Nat

/-- The set of an L2 slice that a line maps to (log 10, DESIGN CHOICE; R226 names sets and gives no index). -/
opaque l2Set : Nat → Nat

/-- The set of a sump slice that a line maps to (log 10, DESIGN CHOICE; R227). -/
opaque sumpSet : Nat → Nat

/-- Which entry a full TLB, read-only cache or L1 gives up at the n-th replacement (log 10, DESIGN CHOICE; R189, R191, R204). -/
opaque victim : Nat → Nat

/-- Byte `i` of a latch row of elements of width `w` whose bytes were loaded under a format of another width (log 18, DESIGN CHOICE;
R283, R289: every row of a latch is to be loaded under one tag). -/
opaque staleByte : List Byte → Nat → Nat → Byte

/-- Whether the translation of a calendar line is complete at its slot, for the n-th line tried (log 9, DESIGN CHOICE; R217). -/
opaque walked : Nat → Bool

/-- Bytes of the n-th signature, certificate, digest or key share the hub sends (log 12, DESIGN CHOICE; R422, R423): the values come
from keys fused into the part and from FIPS 203, 204, 206 algorithms that the spec names and does not give. -/
opaque crypto : Nat → List Byte

/-- The register and the digest that the n-th write of `mr.ext` by the host requests, by the word written (log 93, DESIGN CHOICE; R415,
R420). -/
opaque mrExt : Nat → BitVec 64 → Nat × List (BitVec 8)

/-- A link session's key and salt as the SPDM key schedule gives them (log 12, DESIGN CHOICE; R423). -/
opaque sessionKey : Nat → BitVec 256 × BitVec 16

end Sys2Proof.Config
end

