-- ==== Sys2Proof/Machine/Memory.lean ====
section
/-! DEFINITION. Memory as data and the homes that hold it: byte memories in canonical form, physical homes (spec/12
R224 to R229), poison (R206, R233), monitors (spec/08 R178) and the notify area (spec/24 R400), accounting (R424). -/

namespace Sys2Proof.Machine

/-! ## Byte memories -/

/-- Read a byte; an address that is not listed reads 0 (log 2, DESIGN CHOICE). -/
def memGet : List Host.Cell → Nat → Byte
  | [], _ => 0
  | (k, b) :: t, a => if k = a then b else memGet t a

/-- Write a byte, keeping the canonical form: rising addresses and no listed zero. -/
def memPut : List Host.Cell → Nat → Byte → List Host.Cell
  | [], a, b => if b = 0 then [] else [(a, b)]
  | (k, c) :: t, a, b =>
    if a < k then (if b = 0 then (k, c) :: t else (a, b) :: (k, c) :: t)
    else if a = k then (if b = 0 then t else (a, b) :: t)
    else (k, c) :: memPut t a b

/-- Read n bytes, in address order. -/
def memGetN (m : List Host.Cell) : Nat → Nat → List Byte
  | _, 0 => []
  | a, n + 1 => memGet m a :: memGetN m (a + 1) n

/-- Write bytes in address order. -/
def memPutN (m : List Host.Cell) : Nat → List Byte → List Host.Cell
  | _, [] => m
  | a, b :: t => memPutN (memPut m a b) (a + 1) t

/-- The canonical form of a byte memory: addresses strictly rising, no listed zero. -/
def Memory.wf : List Host.Cell → Bool
  | [] => true
  | [(_, b)] => b != 0
  | (a, b) :: (a', b') :: t => b != 0 && decide (a < a') && Memory.wf ((a', b') :: t)

/-! ## Keys of the byte memories -/

/-- The key of byte `off` of core `n`'s scratchpad (R12). -/
def scrKey (n off : Nat) : Nat := n * 2 ^ 21 + off

/-- The key of byte `off` of chamber `c`'s companion memory (R381). -/
def locKey (c off : Nat) : Nat := c * 2 ^ 18 + off

/-- The key of byte `off` of core `n`'s instruction memory (R19). -/
def imKey (n off : Nat) : Nat := n * 2 ^ 18 + off

/-! ## Homes (R224, R225) -/

/-- Bits [hi:lo] of a physical address. -/
def pab (a hi lo : Nat) : Nat := a / 2 ^ lo % 2 ^ (hi + 1 - lo)

/-- The L2 home slice of a physical address (R224). -/
def l2Slice (a : Nat) : Nat :=
  pab a 13 7 ^^^ pab a 20 14 ^^^ pab a 27 21 ^^^ pab a 34 28 ^^^ pab a 41 35 ^^^ pab a 47 42

/-- The stack of an HBM address (R225). -/
def hbmStack (a : Nat) : Nat := pab a 9 7 ^^^ pab a 18 16 ^^^ pab a 27 25

/-- The global channel of an HBM address (R225). -/
def hbmChannel (a : Nat) : Nat := 32 * hbmStack a + (pab a 14 10 ^^^ pab a 23 19)

/-- Whether HBM lies at a physical address (R14). -/
def isHbm (a : Nat) : Bool := decide (a < 0x00F000000000)

/-! ## The multicast group table (R321) -/

/-- Word k of entry g of this package's group table. -/
def State.mgWord (s : State) (g k : Nat) : Word := look s.ctl (0x2100000 + 128 * g + 8 * k) 0

/-- Whether entry g is valid: mg.v set, reserved fields zero, mg.len at most 4,096. -/
def State.mgValid (s : State) (g : Nat) : Bool :=
  let e0 := s.mgWord g 0
  let e1 := s.mgWord g 1
  bitAt e0 63 && bits e0 54 48 == 0 && bits e0 15 0 == 0 && bits e1 63 13 == 0 && decide (e1.toNat ≤ 4096)
    && (List.range 6).all (fun k => s.mgWord g (10 + k) == 0)

/-- mg.agency. -/
def State.mgAgency (s : State) (g : Nat) : Nat := bits (s.mgWord g 0) 60 55

/-- Whether device d is in the member set of entry g. -/
def State.mgHas (s : State) (g d : Nat) : Bool := decide (d < 512) && bitAt (s.mgWord g (2 + d / 64)) (d % 64)

/-- The member set of entry g, ascending. -/
def State.mgMembers (s : State) (g : Nat) : List Nat := (List.range 512).filter (s.mgHas g)

/-! ## Accounting and reports -/

/-- Add to an accounting counter of an agency, saturating (R424). -/
def State.account (s : State) (agency i n : Nat) : State :=
  let k := 16 * agency + i
  let old := (look s.plat.acct k 0).toNat
  { s with plat := { s.plat with acct := put s.plat.acct k (w64 (Nat.min (old + n) (2 ^ 64 - 1))) } }

/-- Append to a ring of `cap` entries (R234, R425), the newest first. -/
def Ring.append (r : Ring) (cap : Nat) (e : LogEnt) : Ring :=
  { ents := (e :: r.ents).take cap, appended := r.appended + 1,
    lost := if cap ≤ r.ents.length then r.lost + 1 else r.lost }

/-- Microseconds since boot: 1,500 cycles each (R1). -/
def State.micros (s : State) : Nat := s.now / 1500

/-- The place of a report in the order of R416: management interrupts and error logs, engine events (Flowstone, Rimstone,
copy-channel and other faults offered to the firmware), what packets do. -/
def State.reportClass (s : State) (source : Nat) : Nat :=
  if s.part = .front then 2 else if source = 7 ∨ source = 11 then 1 else 0

/-- A management interrupt on its way to the front end (R425), which accepts those of a cycle in the order of R416. The number
that names each source is the model's (log 13, DESIGN CHOICE). -/
def State.report (s : State) (source : Nat) (detail : Word) : State :=
  { s with reports := s.reports ++ [⟨s.reportClass source, source, detail⟩] }

/-- The front end accepts a management interrupt: a record in the ring, forwarded to the host (R425). -/
def State.takeReport (s : State) (r : Report) : State :=
  { s with plat := { s.plat with mgmt := s.plat.mgmt.append 4096 ⟨w64 (r.source + 256 * s.micros), r.detail, 0⟩ },
           answers := s.answers ++ [.report r.source r.detail] }

/-- The front end accepts the reports of a cycle, in the order of R416. -/
def State.acceptReports (s : State) : State :=
  ((List.range 3).flatMap (fun k => s.reports.filter (fun r => r.cls == k))).foldl State.takeReport { s with reports := [] }

/-- An error-log entry of a stack (R234): counted in the newest entry when kind and address match, else appended, with a
management interrupt. -/
def State.logError (s : State) (kind pa : Nat) (who : Nat) : State :=
  let k := hbmStack pa % 8
  let ring := s.plat.errs.getD k ⟨[], 0, 0⟩
  let same := match ring.ents with
    | e :: _ => bits e.w0 59 56 == kind && bits e.w0 47 0 == pa % 2 ^ 48
    | [] => false
  if same then
    match ring.ents with
    | e :: t =>
      let c := Nat.min (bits e.w0 55 48 + 1) 255
      let e' : LogEnt := ⟨w64 (kind * 2 ^ 56 + c * 2 ^ 48 + pa % 2 ^ 48), e.w1, e.w2⟩
      { s with plat := { s.plat with errs := s.plat.errs.setIfInBounds k { ring with ents := e' :: t } } }
    | [] => s
  else
    let e : LogEnt := ⟨w64 (kind * 2 ^ 56 + 2 ^ 48 + pa % 2 ^ 48), w64 s.micros, w64 (hbmChannel pa + 256 * who)⟩
    ({ s with plat := { s.plat with errs := s.plat.errs.setIfInBounds k (ring.append 256 e) } }).report 1 (w64 pa)

/-! ## Sorted lists -/

/-- Insert into a rising list without repeats. -/
def insertNat : List Nat → Nat → List Nat
  | [], x => [x]
  | y :: t, x => if x < y then x :: y :: t else if x = y then y :: t else y :: insertNat t x

/-! ## Poison and errors by level (R206, R226, R227, R233) -/

/-- A mask of one sector of its line. -/
def sectorBit (sec : Nat) : BitVec 4 := BitVec.ofNat 4 (2 ^ (sec % 4))

/-- The line of a list that holds a sector valid. -/
def lineHolding (ls : List HomeLine) (sec : Nat) : Option HomeLine :=
  ls.find? (fun l => l.line == sec / 4 && l.valid.getLsbD (sec % 4))

/-- An error that has come about and that nothing has found yet. -/
def State.upset (s : State) (place : UpsetAt) (addr : Nat) : Option Upset :=
  s.upsets.find? (fun u => u.place == place && u.addr == addr && decide (u.at_ ≤ s.now))

/-- Whether an uncorrectable error waits to be found. -/
def State.broken (s : State) (place : UpsetAt) (addr : Nat) : Bool := (s.upset place addr).any (fun u => u.hard)

/-- Whether a sector is poisoned below L2: in the sump when it holds it valid, else in HBM. -/
def State.badBelow (s : State) (sec : Nat) : Bool := match lineHolding s.sump sec with
  | some l => l.bad.getLsbD (sec % 4) || s.broken .sump sec
  | none => s.poison.contains sec || s.broken .hbm sec

/-- Whether an access finds a sector poisoned: in L2 when the home slice holds it valid, else below. -/
def State.sectorBad (s : State) (sec : Nat) : Bool := match lineHolding s.l2 sec with
  | some l => l.bad.getLsbD (sec % 4)
  | none => s.badBelow sec

/-- Set or clear the poison of a sector in the line of a list. -/
def setBad (ls : List HomeLine) (sec : Nat) (bad : Bool) : List HomeLine :=
  ls.map (fun l => if l.line = sec / 4 then
    { l with bad := if bad then l.bad ||| sectorBit sec else l.bad &&& ~~~(sectorBit sec) } else l)

/-- Set or clear the poison of a sector in HBM. -/
def State.putHbm (s : State) (sec : Nat) (bad : Bool) : State :=
  { s with poison := if bad then insertNat s.poison sec else s.poison.filter (fun x => x != sec) }

/-- Set or clear the poison of a sector below L2. -/
def State.putBelow (s : State) (sec : Nat) (bad : Bool) : State :=
  if (lineHolding s.sump sec).isSome then { s with sump := setBad s.sump sec bad } else s.putHbm sec bad

/-- Set or clear the poison of a sector where an access finds it. -/
def State.putBad (s : State) (sec : Nat) (bad : Bool) : State :=
  if (lineHolding s.l2 sec).isSome then { s with l2 := setBad s.l2 sec bad } else s.putBelow sec bad

/-- An access (or the scrubber) finds the error of a place: it is corrected and logged, or logged and the sector or word marked
poisoned (R206, R233, R234). -/
def State.found (s : State) (place : UpsetAt) (addr : Nat) : State :=
  match s.upset place addr with
  | none => s
  | some u =>
    let s := { s with upsets := s.upsets.erase u }
    match place with
    | .hbm => if u.hard then (s.logError 2 (32 * addr) 0).putHbm addr true else s.logError 1 (32 * addr) 0
    | .sump => if u.hard then
        (let t := s.logError 4 (32 * addr) 0
         { t with sump := setBad t.sump addr true })
      else s.logError 3 (32 * addr) 0
    | .tag => s.logError 6 (128 * addr) 0
    | .store => if u.hard then { s with scrBad := insertNat s.scrBad addr } else s

/-- What an access of a sector below L2 finds. -/
def State.foundBelow (s : State) (sec : Nat) : State :=
  s.found (if (lineHolding s.sump sec).isSome then .sump else .hbm) sec

/-- The sectors of a mask of a line. -/
def maskSectors (line : Nat) (m : BitVec 4) : List Nat :=
  ((List.range 4).filter (fun k => m.getLsbD k)).map (fun k => 4 * line + k)

/-- The sectors of a mask that are poisoned below L2, as a mask. -/
def State.badMask (s : State) (line : Nat) (m : BitVec 4) : BitVec 4 :=
  (maskSectors line m).foldl (fun b sec => if s.badBelow sec then b ||| sectorBit sec else b) 0

/-! ## Line presence in L2 and sump (R226 to R228) -/

/-- The three filter positions of a line number (R228). -/
def filterBits (l : Nat) : List Nat :=
  [0x9E3779B97F4A7C15, 0xBF58476D1CE4E5B9, 0x94D049BB133111EB].map (fun c => (l * c) % 2 ^ 64 / 2 ^ 48)

/-- The filter of a stack. -/
def State.filter (s : State) (k : Nat) : SumpFilter :=
  (s.filt.find? (fun f => f.stack == k)).getD ⟨k, [], 0⟩

/-- Replace the filter of a stack. -/
def State.setFilter (s : State) (f : SumpFilter) : State :=
  { s with filt := f :: s.filt.filter (fun g => g.stack != f.stack) }

/-- A filter after a lookup that sets the bits `hs`: the 1,048,576th lookup of a window clears it before the next one (R228,
R235). -/
def SumpFilter.counted (f : SumpFilter) (hs : List Nat) : SumpFilter :=
  if 2 ^ 20 ≤ f.count + 1 then ⟨f.stack, [], 0⟩
  else ⟨f.stack, f.bits ++ hs.filter (fun h => !f.bits.contains h), f.count + 1⟩

/-- Drop the least recently used line of a full set; `same` says which lines share the set. -/
def evictLru (ls : List HomeLine) (same : HomeLine → Bool) : List HomeLine × Option HomeLine :=
  if (ls.filter same).length < 16 then (ls, none)
  else match (ls.filter same).getLast? with
    | some v => (ls.filter (fun l => l.line != v.line), some v)
    | none => (ls, none)

/-- The set of a line in its L2 slice: 2 MiB are 1,024 sets of 16 lines (R8, R226). -/
def l2SetOf (line : Nat) : Nat := Config.l2Set line % 1024

/-- The set of a line in its sump slice: 64 MiB are 32,768 sets of 16 lines (R8, R227). -/
def sumpSetOf (line : Nat) : Nat := Config.sumpSet line % 32768

/-- The bytes of the sectors of a mask. -/
def maskBytes (m : BitVec 4) : Nat := 32 * ((List.range 4).filter (fun k => m.getLsbD k)).length

/-- The dirty sectors of a line that the sump gives up for an agency's access go to HBM with their poison (R233, R424). -/
def State.toHbm (s : State) (v : HomeLine) (agency : Nat) : State :=
  ((maskSectors v.line v.dirty).foldl (fun (s : State) sec => s.putHbm sec (v.bad.getLsbD (sec % 4))) s).account agency 3
    (maskBytes v.dirty)

/-- One sump lookup of a line (R227, R228): a hit is served in place, a miss allocates on its second touch. `fill` are the
sectors whose bytes must come from below, `str` lookups neither test nor set the filter. Bytes moved at HBM count for the agency
(R424). -/
def State.sumpLookup (s : State) (line : Nat) (sectors fill : BitVec 4) (write str : Bool) (agency : Nat) : State :=
  let k := hbmStack (line * 128) % 8
  let s := (maskSectors line sectors).foldl State.foundBelow s
  match s.sump.find? (fun l => l.line == line) with
  | some l =>
    let fresh := fill &&& ~~~l.valid
    let l' : HomeLine := ⟨line, l.valid ||| sectors, if write then l.dirty ||| sectors else l.dirty,
                          l.bad ||| s.badMask line fresh⟩
    ({ (s.setFilter ((s.filter k).counted [])) with
       sump := l' :: s.sump.filter (fun x => x.line != line) }).account agency 3 (maskBytes fresh)
  | none =>
    if str then (s.setFilter ((s.filter k).counted [])).account agency 3 (maskBytes sectors)
    else
      let hs := filterBits line
      if hs.all (fun h => (s.filter k).bits.contains h) then
        let same := fun (x : HomeLine) =>
          hbmStack (x.line * 128) % 8 == k && sumpSetOf x.line == sumpSetOf line
        let (rest, v) := if s.sump.length < 16 then (s.sump, none) else evictLru s.sump same
        let l : HomeLine := ⟨line, sectors, if write then sectors else 0, s.badMask line fill⟩
        let s := { (s.setFilter ((s.filter k).counted [])) with sump := l :: rest }
        let s := match v with
          | some v => s.toHbm v agency
          | none => s
        s.account agency 3 (maskBytes sectors)
      else (s.setFilter ((s.filter k).counted hs)).account agency 3 (maskBytes sectors)

/-- A monitor on the sector is woken (R178, R179): by a write there or by its loss. -/
def Ctx.wakeOn (c : Ctx) (sector : Nat) : Ctx :=
  match c.mon with
  | some m => if m.sector = sector then { c with mon := some ⟨m.sector, true, m.armed⟩ } else c
  | none => c

/-- Wake every monitor on a sector. -/
def State.wakeSector (s : State) (sector : Nat) : State :=
  { s with ctx := s.ctx.wakeOn sector, ctxs := s.ctxs.map (fun c => c.wakeOn sector),
           saved := s.saved.map (fun v => { v with ctx := v.ctx.wakeOn sector }) }

/-- The L2 home slice writes sectors of a line back to the sump home, with their poison (R226, R233). -/
def State.l2WriteBack (s : State) (v : HomeLine) (sectors : BitVec 4) (agency : Nat) : State :=
  if sectors = 0 then s
  else (maskSectors v.line sectors).foldl (fun (s : State) sec => s.putBelow sec (v.bad.getLsbD (sec % 4)))
    (s.sumpLookup v.line sectors 0 true false agency)

/-- Evict an L2 line for an agency's access: its dirty sectors go to the sump home and its monitors are lost (R179, R226, R424). -/
def State.l2Evicted (s : State) (v : HomeLine) (agency : Nat) : State :=
  (maskSectors v.line v.valid).foldl (fun (s : State) sec => s.wakeSector sec) (s.l2WriteBack v v.dirty agency)

/-- An access of sectors of one line at its L2 home slice (R226, R190): sectors that are not valid are filled, but those that a
write covers whole (`whole`); `.str` allocates nothing, and passes on what misses. -/
def State.l2Access (s : State) (line : Nat) (sectors whole : BitVec 4) (write str : Bool) (agency : Nat) : State :=
  let s := s.found .tag line
  match s.l2.find? (fun l => l.line == line) with
  | some l =>
    let missing := sectors &&& ~~~l.valid
    let need := missing &&& ~~~whole
    if str then
      let s := if missing = 0 then s else s.sumpLookup line missing need write true agency
      let l' := { l with dirty := if write then l.dirty ||| (sectors &&& l.valid) else l.dirty }
      { s with l2 := l' :: s.l2.filter (fun x => x.line != line) }
    else
      let s := if need = 0 then s else s.sumpLookup line need need false false agency
      let l' : HomeLine := ⟨line, l.valid ||| sectors, if write then l.dirty ||| sectors else l.dirty,
                            (l.bad &&& l.valid) ||| s.badMask line need⟩
      { s with l2 := l' :: s.l2.filter (fun x => x.line != line) }
  | none =>
    let need := sectors &&& ~~~whole
    if str then s.sumpLookup line sectors need write true agency
    else
      let s := if need = 0 then s else s.sumpLookup line need need false false agency
      let same := fun (x : HomeLine) => l2Slice (x.line * 128) == l2Slice (line * 128) && l2SetOf x.line == l2SetOf line
      let (rest, v) := if s.l2.length < 16 then (s.l2, none) else evictLru s.l2 same
      let l : HomeLine := ⟨line, sectors, if write then sectors else 0, s.badMask line need⟩
      let s := { s with l2 := l :: rest }
      match v with
      | some l => s.l2Evicted l agency
      | none => s

/-- The L2 home slice writes back and drops a sector before a far access (R110, R229); its monitor is lost (R179). -/
def State.l2Drop (s : State) (sector : Nat) (agency : Nat) : State :=
  let bit := sectorBit sector
  match s.l2.find? (fun l => l.line == sector / 4) with
  | none => s
  | some l =>
    let s := if l.valid &&& bit = 0 then s else s.wakeSector sector
    let s := { s with l2 := s.l2.map (fun (x : HomeLine) => if x.line = sector / 4 then
      ⟨x.line, x.valid &&& ~~~bit, x.dirty &&& ~~~bit, x.bad &&& ~~~bit⟩ else x) }
    s.l2WriteBack l (l.dirty &&& bit) agency

/-- Where an access of physical memory is performed (R110, R190). -/
inductive Level where
  | l2 | str | far
  deriving DecidableEq, Repr

/-- The sectors that n bytes at an address touch. -/
def sectorsOf (pa n : Nat) : List Nat :=
  if n = 0 then [] else (List.range ((pa + n - 1) / 32 - pa / 32 + 1)).map (fun k => pa / 32 + k)

/-- Whether n bytes at an address cover a sector whole. -/
def coversSector (pa n sec : Nat) : Bool := decide (pa ≤ 32 * sec) && decide (32 * sec + 32 ≤ pa + n)

/-- The lines that n bytes at an address touch, each with its sectors among them. -/
def linesOfSpan (pa n : Nat) : List (Nat × List Nat) :=
  if n = 0 then []
  else (List.range ((pa + n - 1) / 128 - pa / 128 + 1)).map (fun k =>
    (pa / 128 + k, (sectorsOf pa n).filter (fun sec => sec / 4 == pa / 128 + k)))

/-- A mask of sectors. -/
def sectorsMask (l : List Nat) : BitVec 4 := l.foldl (fun m sec => m ||| sectorBit sec) 0

/-- The line presence after an access of n bytes: one request a line (R227). The slices of a package whose compute dies have lost their
power hold nothing (R426, log 122, DESIGN CHOICE). -/
def State.touch (s : State) (pa n : Nat) (lv : Level) (write : Bool) (agency : Nat) : State :=
  (linesOfSpan pa n).foldl (fun s e =>
    let m := sectorsMask e.2
    let whole := if write then sectorsMask (e.2.filter (coversSector pa n)) else 0
    match lv with
    | .l2 => s.l2Access e.1 m whole write (s.plat.power == .shut) agency
    | .str => s.l2Access e.1 m whole write true agency
    | .far => (e.2.foldl (fun (s : State) sec => s.l2Drop sec agency) s).sumpLookup e.1 m (m &&& ~~~whole) write false agency) s

/-! ## The notify area (R400, R402, R409) -/

/-- The acknowledge word of context ctx of core n was written: its `ipend` bit 0 clears, unless a SIGNAL of the same cycle set it:
that comes after the acknowledgement (R409, R416). -/
def Ctx.acked (c : Ctx) (core slot now : Nat) : Ctx :=
  if c.core = core ∧ c.slot = slot ∧ c.sigAt ≠ now + 1 then { c with ipend := c.ipend &&& 0b10 } else c

/-- A write to sector `k` of the notify area is reported to the front end (R400). -/
def State.notify (s : State) (k : Nat) : State :=
  if k < 4096 then { s with fe := { s.fe with pending := insertNat s.fe.pending k } }
  else if k < 4864 then
    let core := (k - 4096) / 4
    let slot := (k - 4096) % 4
    { s with ctx := s.ctx.acked core slot s.now, ctxs := s.ctxs.map (fun c => c.acked core slot s.now) }
  else s

/-- The sector of the notify area that holds a physical address, if it does (R400). -/
def State.notifySector (s : State) (pa : Nat) : Option Nat :=
  let base := bits s.fe.nbase 47 18 * 2 ^ 18
  if bitAt s.fe.nbase 0 && decide (base ≤ pa) && decide (pa < base + 4864 * 32) then some ((pa - base) / 32) else none

/-! ## Performed accesses of physical memory -/

/-- A poisoned sector among those n bytes touch, the lowest (R206). -/
def State.poisoned (s : State) (pa n : Nat) : Option Nat :=
  (sectorsOf pa n).find? s.sectorBad

/-- What a write performed at a home does besides its bytes: monitors wake, the notify area reports, a sector written
whole loses its poison (R178, R233, R400). `own` marks the front end's own writes, which do not report. -/
def State.written (s : State) (pa n : Nat) (own : Bool) : State :=
  (sectorsOf pa n).foldl (fun s sec =>
    let s := s.wakeSector sec
    let s := if coversSector pa n sec then s.putBad sec false else s
    if own then s else match s.notifySector (32 * sec) with
      | some k => s.notify k
      | none => s) s

/-- Read n bytes of physical memory at a level: the bytes, and the state with the access performed. -/
def State.homeRead (s : State) (pa n : Nat) (lv : Level) (agency : Nat) : List Byte × State :=
  (memGetN s.mem pa n, s.touch pa n lv false agency)

/-- Write bytes to physical memory at a level. -/
def State.homeWrite (s : State) (pa : Nat) (bs : List Byte) (lv : Level) (agency : Nat) (own : Bool := false) : State :=
  let s := s.touch pa bs.length lv true agency
  ({ s with mem := memPutN s.mem pa bs }).written pa bs.length own

/-- Mark sectors poisoned where an access finds them. -/
def State.addPoison (s : State) (secs : List Nat) : State := secs.foldl (fun (s : State) sec => s.putBad sec true) s

/-- What an access that meets poison finds at the home is noted (R233). -/
def State.metAt (s : State) (sec : Nat) : State := if (lineHolding s.l2 sec).isSome then s else s.foundBelow sec

/-- Poison is consumed at a home: what the access finds there is noted, and the consumption logged (R206, R234). -/
def State.consumed (s : State) (sec who : Nat) : State := (s.metAt sec).logError 5 (32 * sec) who

/-- The bits of an error-log entry that name who consumed poison (R234). -/
def consumer (core slot agency : Nat) : Nat := core + 256 * slot + 1024 * agency

/-! ## Far accesses (R229) -/

/-- Whether a sector is held for a far access. -/
def State.farHeld (s : State) (sec : Nat) : Bool := s.far.any (fun h => h.sector == sec && h.far)

/-- A far access holds its sectors; another access of a held sector is performed behind it, in the order of acceptance, and counts
as performed with the acknowledgement (log 106, DEDUCED). -/
def State.joinFar (s : State) (lv : Level) (pa n : Nat) (agent : Agent) : State :=
  { s with far := s.far ++ ((sectorsOf pa n).filter (fun sec => lv == .far || s.farHeld sec)).map (fun sec =>
      ⟨sec, agent, lv == .far⟩) }

/-- What waited behind a far access of a sector is performed, up to the next far access of it. -/
def farBehind (sec : Nat) : List FarHold → List FarHold
  | [] => []
  | h :: t =>
    if h.sector != sec then h :: farBehind sec t
    else if h.far then h :: t
    else farBehind sec t

/-- The sump acknowledges the oldest far access of a sector. -/
def farAcked (sec : Nat) : List FarHold → List FarHold
  | [] => []
  | h :: t => if h.sector == sec && h.far then farBehind sec t else h :: farAcked sec t

/-! ## Scratchpads -/

/-- The 8-byte words of a scratchpad that n bytes touch, as keys. -/
def scrWords (core off n : Nat) : List Nat :=
  if n = 0 then []
  else (List.range ((off + n - 1) / 8 - off / 8 + 1)).map (fun k => scrKey core (8 * (off / 8 + k)))

/-- Read n bytes of a scratchpad. -/
def State.scrRead (s : State) (core off n : Nat) : List Byte := memGetN s.scr (scrKey core off) n

/-- A poisoned word among n bytes of a scratchpad: its key (R206). -/
def State.scrPoisoned (s : State) (core off n : Nat) : Option Nat :=
  (scrWords core off n).find? (fun k => s.scrBad.contains k)

/-- Write bytes to a scratchpad; a word written whole loses its poison, and `bad` marks every word touched (R206,
R233). -/
def State.scrWrite (s : State) (core off : Nat) (bs : List Byte) (bad : Bool := false) : State :=
  let ws := scrWords core off bs.length
  let whole := fun k => decide (scrKey core off ≤ k) && decide (k + 8 ≤ scrKey core off + bs.length)
  { s with scr := memPutN s.scr (scrKey core off) bs,
           scrBad := if bad then ws.foldl insertNat s.scrBad
             else s.scrBad.filter (fun k => !(ws.contains k && whole k)) }

end Sys2Proof.Machine
end

