-- ==== Sys2Proof/Machine/Slices.lean ====
section
/-! DEFINITION. Flag delivery (spec/08 R164 to R166) and the slice tables of Rimstone that traps and task ends touch
(spec/20 R349 to R354, R358, R371, R372). -/

namespace Sys2Proof.Machine

/-! ## Contexts and cores by number -/

/-- A status in which a context is resident on its core (R166). -/
def CtxStatus.resident : CtxStatus → Bool
  | .ready | .parked | .faulted | .ending | .halted => true
  | _ => false

/-- All contexts of the package. -/
def State.allCtxs (s : State) : List Ctx := s.ctx :: s.ctxs

/-- Apply `f` to every context that satisfies `p`. -/
def State.mapCtx (s : State) (p : Ctx → Bool) (f : Ctx → Ctx) : State :=
  { s with ctx := if p s.ctx then f s.ctx else s.ctx, ctxs := s.ctxs.map (fun c => if p c then f c else c) }

/-- Apply `f` to every core that satisfies `p`. -/
def State.mapCore (s : State) (p : Core → Bool) (f : Core → Core) : State :=
  { s with core := if p s.core then f s.core else s.core, cores := s.cores.map (fun c => if p c then f c else c) }

/-- Core `n`; one that no list names is idle. -/
def State.coreAt (s : State) (n : Nat) : Core :=
  if s.core.id = n then s.core else (s.cores.find? (fun c => c.id == n)).getD (Core.idle n)

/-- Replace a core by number. -/
def State.setCore (s : State) (c : Core) : State :=
  if s.core.id = c.id then { s with core := c }
  else { s with cores := c :: s.cores.filter (fun x => x.id != c.id) }

/-- Whether a context is the one of `launch` on core `core` (R165: a launch places at most one task on a core). -/
def Ctx.isOf (c : Ctx) (launch core : Nat) : Bool :=
  c.launch == launch && c.core == core && c.status.resident

/-! ## Flag delivery -/

/-- min(f + n, 65535) (R164). -/
def satFlag (f : BitVec 16) (n : Nat) : BitVec 16 := BitVec.ofNat 16 (Nat.min (f.toNat + n) 65535)

/-- Add a post to a flag of a context. -/
def Ctx.addFlag (c : Ctx) (flag n : Nat) : Ctx :=
  { c with f := c.f.setIfInBounds flag (satFlag (c.f.getD flag 0) n) }

/-- Deliver a post to the context of a launch on a core: resident, pre-empted, or discarded and logged (R166). -/
def State.postFlag (s : State) (launch core flag n : Nat) : State :=
  if s.allCtxs.any (fun c => c.isOf launch core) then
    s.mapCtx (fun c => c.isOf launch core) (fun c => c.addFlag flag n)
  else if s.saved.any (fun v => v.ctx.launch == launch && v.ctx.core == core) then
    { s with saved := s.saved.map (fun v =>
        if v.ctx.launch == launch && v.ctx.core == core then { v with posts := v.posts ++ [(flag, n)] } else v) }
  else s.report 4 (w64 (launch * 256 + core))

/-- Make the post of a post word (R208) to a launch. -/
def State.postWord (s : State) (launch : Nat) (w : Word) : State :=
  s.postFlag launch (bits w 28 21) (bits w 20 16) (bits w 15 0)

/-! ## Horizons -/

/-- Dword k of an HCB snapshot. -/
def Horizon.dw (z : Horizon) (k : Nat) : Word := z.hcb.getD k 0
/-- hb.fmt: whether the state format is f64 (R350). -/
def Horizon.is64 (z : Horizon) : Bool := bitAt (z.dw 0) 0
/-- The width of a state element in bytes. -/
def Horizon.w (z : Horizon) : Nat := if z.is64 then 8 else 4
/-- hb.norm: whether the norm is L2. -/
def Horizon.l2norm (z : Horizon) : Bool := bitAt (z.dw 0) 1
/-- W, the number of window positions. -/
def Horizon.win (z : Horizon) : Nat := bits (z.dw 0) 24 16
/-- hb.cap. -/
def Horizon.cap (z : Horizon) : Nat := bits (z.dw 0) 47 32
/-- hb.count. -/
def Horizon.count (z : Horizon) : Nat := bits (z.dw 1) 52 32
/-- hb.len. -/
def Horizon.len (z : Horizon) : Nat := bits (z.dw 1) 31 0
/-- hb.ev. -/
def Horizon.ev (z : Horizon) : Nat := (z.dw 7).toNat
/-- The virtual address of buffer b of slice k (R352). -/
def Horizon.buf (z : Horizon) (k b : Nat) : Nat :=
  (z.dw 3).toNat + (4 * (k % z.win) + b) * (z.dw 4).toNat
/-- The devices that share the horizon, ascending. -/
def Horizon.devs (z : Horizon) : List Nat := (List.range 512).filter (fun d => bitAt (z.dw (8 + d / 64)) (d % 64))

/-- Open horizon h. -/
def State.horizon (s : State) (h : Nat) : Option Horizon := s.rim.find? (fun z => z.h == h)

/-- Replace an open horizon. -/
def State.setHorizon (s : State) (z : Horizon) : State :=
  { s with rim := s.rim.map (fun x => if x.h = z.h then z else x) }

/-- The slice context holding slice k, if it has one. -/
def Horizon.slice (z : Horizon) (k : Nat) : Option SliceCtx := z.scs.find? (fun c => c.slice == k)

/-- Replace the slice context of a slice. -/
def Horizon.setSlice (z : Horizon) (c : SliceCtx) : Horizon :=
  { z with scs := z.scs.map (fun x => if x.num = c.num then c else x) }

/-- A cleared slice context for slice k (R368). -/
def SliceCtx.fresh (num k : Nat) : SliceCtx :=
  { num := num, slice := k, gen := 0, genF := none, genOld := none, genNew := none, settled := false, iter := 0,
    fine := none, coarse := none, postedF := false, postedG := false, held := none, sweepRec := none, jump := none,
    corr := false, genSwF := none, tolCap := none, capped := false }

/-- Whether a slice is DEFERRED (R353). -/
def SliceCtx.deferred (c : SliceCtx) : Bool := c.held.isSome

/-- Whether a slice is promoted-DEFERRED (R371). -/
def SliceCtx.promoted (c : SliceCtx) : Bool := match c.held with
  | some r => r.prom
  | none => false

/-- Fine-eligible (R354). -/
def SliceCtx.fineOk (c : SliceCtx) : Bool :=
  decide (0 < c.gen) && !c.deferred && c.fine.isNone && c.genF != some c.gen

/-- Coarse-eligible (R354): only when it is not the last slice. -/
def SliceCtx.coarseOk (c : SliceCtx) (count : Nat) : Bool :=
  decide (0 < c.gen) && !c.deferred && c.coarse.isNone && c.genNew != some c.gen && decide (c.slice + 1 < count)

/-- Make the posts of slices that have become eligible since they were last looked at (R354). A slice below the window
or without a start is never eligible. -/
def State.eligibility (s : State) (h : Nat) : State :=
  match s.horizon h with
  | none => s
  | some z =>
    z.scs.foldl (fun s c =>
      let fOk := c.fineOk && decide (z.winLo ≤ c.slice)
      let gOk := c.coarseOk z.count && decide (z.winLo ≤ c.slice)
      let s := if fOk && !c.postedF then s.postWord z.launch (z.dw 5) else s
      let s := if gOk && !c.postedG then s.postWord z.launch (z.dw 6) else s
      match s.horizon h with
      | none => s
      | some z' => s.setHorizon (z'.setSlice { c with postedF := fOk, postedG := gOk })) s

/-- The settled-prefix pointer (R358). -/
def Horizon.prefixPtr (z : Horizon) : Nat :=
  let rec go : Nat → Nat → Nat
    | 0, k => k
    | n + 1, k =>
      if k < z.count then
        if k < z.winLo then go n (k + 1)
        else match z.slice k with
          | some c => if c.settled || c.promoted then go n (k + 1) else k
          | none => k
      else z.count
  go (z.win + 1) z.winLo

/-- A slice loses the task that a binding names. -/
def SliceCtx.release (c : SliceCtx) (b : Binding) : SliceCtx :=
  if b.coarse then { c with coarse := none } else { c with fine := none }

/-- A binding ends without a report: its slice is eligible again for its role, with the post (R363). -/
def State.freeSlice (s : State) (b : Binding) : State :=
  match s.horizon b.h with
  | none => s
  | some z => match z.slice b.slice with
    | none => s
    | some c => (s.setHorizon (z.setSlice (c.release b))).eligibility b.h

/-- The bindings of the contexts that satisfy a condition end without a report (R363). -/
def State.unbindWhere (s : State) (p : Ctx → Bool) : State :=
  let bs := ((s.allCtxs ++ s.saved.map (·.ctx)).filter p).filterMap (·.bind)
  let s := s.mapCtx p (fun c => { c with bind := none })
  let s := { s with saved := s.saved.map (fun v => if p v.ctx then { v with ctx := { v.ctx with bind := none } } else v) }
  bs.foldl (fun s b => s.freeSlice b) s

/-! ## Events of Rimstone (R372) -/

/-- Set a bit of `ipend` in the context on a core of a launch; false when there is none. -/
def State.pend (s : State) (launch core bit : Nat) : State × Bool :=
  let b : BitVec 2 := BitVec.ofNat 2 (2 ^ bit)
  if s.allCtxs.any (fun c => c.isOf launch core) then
    (s.mapCtx (fun c => c.isOf launch core) (fun c =>
      { c with ipend := c.ipend ||| b, sigAt := if bit = 0 then s.now + 1 else c.sigAt }), true)
  else if s.saved.any (fun v => v.ctx.launch == launch && v.ctx.core == core) then
    ({ s with saved := s.saved.map (fun v => if v.ctx.launch == launch && v.ctx.core == core then
        (if bit = 0 then { v with signal := true }
         else { v with ctx := { v.ctx with ipend := v.ctx.ipend ||| b } }) else v) }, true)
  else (s, false)

end Sys2Proof.Machine
end

