-- ==== Sys2Proof/Machine/Ops.lean ====
section
/-! DEFINITION. The named operations that meanings are built from: registers and results (spec/02 R23, R28, R30; spec/07
R134 to R136), ports (R135), taking a trap and resuming from one (spec/05 R93 to R100, R140; spec/20 R371). -/

namespace Sys2Proof.Machine

/-! ## What a slot operation is -/

/-- Why a slot operation does not complete: it traps, it traps and something beside it is noted (`trapLog`: an error-log
entry, an answer that is done with), it traps on a state it has already changed (`trapIn`: a spill, R140), it waits, or it
waits for the answer to a request that leaves with it (R174, R314). -/
inductive Stop where
  | trap (r : TrapReq)
  | trapLog (r : TrapReq) (f : State → State)
  | trapIn (r : TrapReq) (s : State)
  | wait (k : WaitKind)
  | send (k : WaitKind) (f : State → State)

/-- A slot operation: it reads and changes the state, or stops. -/
abbrev M := StateT State (Except Stop)

/-- trap(cause, detail) with the fault address (R6, R93). -/
def trapM {α : Type} (cause : BitVec 8) (taddr detail : Word) : M α := fun _ => .error (.trap ⟨cause, taddr, detail⟩)

/-- Wait before the issue. -/
def waitM {α : Type} (k : WaitKind) : M α := fun _ => .error (.wait k)

/-- Trap when a condition holds. -/
def trapIf (b : Bool) (cause : BitVec 8) (taddr detail : Word) : M Unit :=
  if b then trapM cause taddr detail else pure ()

/-- Wait when a condition holds. -/
def waitIf (b : Bool) (k : WaitKind) : M Unit := if b then waitM k else pure ()

/-- The codes of R93. -/
def cIllegal : BitVec 8 := 0x01
def cBundle : BitVec 8 := 0x02
def cCollision : BitVec 8 := 0x03
def cPrivilege : BitVec 8 := 0x04
def cHazard : BitVec 8 := 0x05
def cTag : BitVec 8 := 0x06
def cFormat : BitVec 8 := 0x07
def cAlign : BitVec 8 := 0x08
def cProtect : BitVec 8 := 0x09
def cPage : BitVec 8 := 0x0A
def cSpill : BitVec 8 := 0x0B
def cPoison : BitVec 8 := 0x0C
def cFabric : BitVec 8 := 0x0D
def cFp : BitVec 8 := 0x0E
def cTrap : BitVec 8 := 0x0F
def cBreak : BitVec 8 := 0x10
def cInterrupt : BitVec 8 := 0x11
def cBudget : BitVec 8 := 0x12

/-- The context the step works on, read inside an operation. -/
def getCtx : M Ctx := fun s => .ok (s.ctx, s)

/-- Change the context. -/
def modCtx (f : Ctx → Ctx) : M Unit := fun s => .ok ((), { s with ctx := f s.ctx })

/-- Change the core. -/
def modCore (f : Core → Core) : M Unit := fun s => .ok ((), { s with core := f s.core })

/-- Draw a free choice (log 5, DESIGN CHOICE). -/
def State.drawn (s : State) : Nat × State := (Config.pick s.draw, { s with draw := s.draw + 1 })

/-- Draw a length the spec leaves open (log 9, DESIGN CHOICE). -/
def State.drawDelay (s : State) : Nat × State := (Config.delay s.draw, { s with draw := s.draw + 1 })

/-! ## Scalar registers (R90, R134, R136) -/

/-- Whether the context is a companion core's (R379). -/
def Ctx.companion (c : Ctx) : Bool := decide (192 ≤ c.core)

/-- The value a scalar name denotes; the ports s24 to s30 are read by `popPort`. -/
def Ctx.scalar (c : Ctx) (n : Nat) : Word :=
  if n = 0 then 0
  else if n ≤ 7 then (if c.sv then c.sup.getD n 0 else c.s.getD n 0)
  else if n ≤ 23 then c.win.getD ((c.wbase + (n - 8)) % 128) 0
  else if n = 31 then (if c.sv then c.sup.getD 0 0 else c.s31)
  else 0

/-- The physical place of a scalar name, numbered as `Dest.scalar` says. -/
def Ctx.phys (c : Ctx) (n : Nat) : Nat :=
  if 8 ≤ n ∧ n ≤ 23 then 128 + (c.wbase + (n - 8)) % 128
  else if c.sv ∧ ((1 ≤ n ∧ n ≤ 7) ∨ n = 31) then 256 + n
  else n

/-- Write a physical scalar place. -/
def Ctx.setPhys (c : Ctx) (ph : Nat) (w : Word) : Ctx :=
  if ph = 0 then c
  else if ph ≤ 7 then { c with s := c.s.setIfInBounds ph w }
  else if ph = 31 then { c with s31 := w }
  else if 128 ≤ ph ∧ ph < 256 then { c with win := c.win.setIfInBounds (ph - 128) w }
  else if ph = 287 then { c with sup := c.sup.setIfInBounds 0 w }
  else if 257 ≤ ph ∧ ph ≤ 263 then { c with sup := c.sup.setIfInBounds (ph - 256) w }
  else c

/-- The physical vector register of a name (R154). -/
def Ctx.vphys (c : Ctx) (n : Nat) : Nat := if n < 16 then n else 16 + (n - 16 + c.vrb.toNat) % 16

/-- The value of a vector name. -/
def Ctx.vec (c : Ctx) (n : Nat) : VVal := c.v.getD (c.vphys n) VVal.zero

/-- The value of a predicate name; p0 reads all ones (R22). -/
def Ctx.pred (c : Ctx) (n : Nat) : BitVec 256 := if n = 0 then BitVec.allOnes 256 else c.p.getD n 0

/-! ## Bypass latches (R27, R28) -/

/-- What a scalar field of slot 1 reads from a latch: bits [63:0] of a vector value. -/
def LatchVal.word : LatchVal → Word
  | .scalar w => w
  | .vector v => v.data[0]

/-- What a vector field of slots 2 and 3 reads from a latch; a scalar content (a lost latch) reads as zero under tag
0. -/
def LatchVal.vec : LatchVal → VVal
  | .scalar _ => VVal.zero
  | .vector v => v

/-! ## Results (R28, R30, R71) -/

/-- A result of the bundle being issued joins those in flight; it lands `lat` issued cycles later. -/
def State.push (s : State) (p : Pos) (lat : Nat) (dest : Dest) (val : ResVal) (flags : BitVec 5 := 0)
    (wb : Bool := true) (latch : Bool := true) : State :=
  { s with ctx := { s.ctx with infl := s.ctx.infl ++ [
      { land := s.ctx.clk + lat, seq := s.ctx.seq, slot := p.slot.toNat, dest := dest, wb := wb, val := val,
        flags := flags, latch := latch }] } }

/-- A write of machine state that is no register result: it fills no latch. -/
def pushState (p : Pos) (lat : Nat) (dest : Dest) (val : ResVal) : M Unit :=
  fun s => .ok ((), s.push p lat dest val 0 true false)

/-! ## Ports (R135, R316, R317, R383) -/

/-- A chamber core's chamber, or a companion's. -/
def chamberOf (core : Nat) : Nat := if core < 192 then core / 8 else core - 192

/-- The companion queue of a chamber. -/
def State.queue (s : State) (c : Nat) : CompQueue := look s.cq c ⟨0, []⟩

/-- Replace a companion queue. -/
def State.setQueue (s : State) (c : Nat) (q : CompQueue) : State := { s with cq := put s.cq c q }

/-- The words that remain to complete the last packet in an outbound queue, or `none` when the next word is a header
(R318). -/
def awaitedWords : Nat → List (Word × Bool) → Option Nat
  | 0, _ => none
  | _, [] => none
  | fuel + 1, (h, _) :: t =>
    let n := bits h 36 32
    if t.length < n then some (n - t.length) else awaitedWords fuel (t.drop n)

/-- Pop one word from link port k (R135, R316). -/
def popLink (k : Nat) : M Word := fun s =>
  if !s.ctx.ports then .error (.trap ⟨cProtect, 0, 0x40⟩)
  else match s.core.inq.getD k [] with
    | (w :: ws) :: rest =>
      let q := if ws.isEmpty then rest else ws :: rest
      .ok (w, { s with core := { s.core with inq := s.core.inq.setIfInBounds k q } })
    | _ => .error (.wait .port)

/-- Pop one word of the companion queue (R383): `cqsrc` is set when the value lands. -/
def popCq (p : Pos) (lat : Nat) : M Word := fun s =>
  let c := chamberOf s.ctx.core
  match (s.queue c).items with
  | e :: rest =>
    if e.landed then
      let src := w64 (e.core % 8 + 8 * e.slot)
      .ok (e.word, (s.setQueue c { s.queue c with items := rest }).push p lat (.sreg 0x30) (.word src) 0 true false)
    else .error (.wait .port)
  | [] => .error (.wait .port)

/-- Read a scalar source field at issue: a latch when the header lends the bypass bit, a register, or a word popped from
a port. `lat` is the instruction's latency (R383). -/
def readS (p : Pos) (lat : Nat) (byp : Bool) (n : BitVec 5) : M Word := fun s =>
  if byp then .ok ((s.ctx.lat.getD (n.toNat % 4) (.scalar 0)).word, s)
  else if 24 ≤ n.toNat ∧ n.toNat ≤ 30 then
    if s.ctx.companion then
      if n.toNat = 30 then popCq p lat s else .error (.trap ⟨cProtect, 0, 0x200⟩)
    else if n.toNat = 30 then .error (.trap ⟨cProtect, 0, 0x200⟩)
    else popLink (n.toNat - 24) s
  else .ok (s.ctx.scalar n.toNat, s)

/-- Whether a header word pushed to a port is legal (R317): `none`, or the detail of its protection trap. -/
def headerFault (s : State) (w : Word) : Option Word :=
  let kind := bits w 42 40
  let bad := decide (2 ≤ kind) || bits w 39 37 != 0
    || (if kind = 1 then bits w 51 43 != 0 || bits w 36 32 != 1 || decide (11 ≤ bits w 31 24) || bits w 23 0 != 0
        else decide (192 ≤ bits w 53 46) || decide (6 ≤ bits w 45 43) || bits w 31 24 != 0)
  if bad then some 0x40
  else if kind = 1 then
    let g := bits w 63 52
    if s.mgValid g && s.mgAgency g == s.ctx.agency && s.mgHas g s.fab.dev then none else some 0x40
  else
    let st := bits w 23 0
    if st = 0 then none
    else
      let live := s.groups.any (fun g => g.index == st % 256 && g.live && g.inc == st / 256 && g.agency == s.ctx.agency)
      if live && st / 256 != 0 then none else some 0x10

/-- Push a word into link port k: it takes its place at once and counts for room, and lands with its result
(R135, R316). -/
def pushLink (p : Pos) (lat k : Nat) (w : Word) (flags : BitVec 5) : M Unit := fun s =>
  if !s.ctx.ports then .error (.trap ⟨cProtect, 0, 0x40⟩)
  else
    let q := s.core.outq.getD k []
    match (if (awaitedWords 65 q).isNone then headerFault s w else none) with
    | some d => .error (.trap ⟨cProtect, 0, d⟩)
    | none =>
      if 64 ≤ q.length then .error (.wait .port)
      else
        let ticket := s.core.outGone.getD k 0 + q.length
        let by_ := (s.ctx.agency, s.ctx.slot, s.ctx.launch)
        let s := { s with core := { s.core with outq := s.core.outq.setIfInBounds k (q ++ [(w, false)]),
                                                outBy := s.core.outBy.setIfInBounds k (s.core.outBy.getD k [] ++ [by_]) } }
        .ok ((), s.push p lat (.port k ticket) (.word w) flags)

/-- The launch whose task runs on a chamber's companion core, if one does (R383). -/
def State.companionLaunch (s : State) (chamber : Nat) : Option Nat :=
  (s.allCtxs.find? (fun c => c.core == 192 + chamber && c.status.resident && c.status != .ending)).map (·.launch)

/-- Pushes of one cycle stand in ascending core index (R383). -/
def placeCq (e : CqEntry) : List CqEntry → List CqEntry
  | [] => [e]
  | x :: t => if x.at_ = e.at_ ∧ e.core < x.core then e :: x :: t else x :: placeCq e t

/-- Push a word into the chamber's companion queue; a push that the companion's launch does not match is discarded and
logged (R383). -/
def pushCq (p : Pos) (lat : Nat) (w : Word) (flags : BitVec 5) : M Unit := fun s =>
  let ch := chamberOf s.ctx.core
  let q := s.queue ch
  if s.companionLaunch ch != some s.ctx.launch then
    .ok ((), (s.report 5 (w64 (s.ctx.core * 4 + s.ctx.slot))).push p lat .none (.word w) flags)
  else if 256 ≤ q.items.length then .error (.wait .fullCq)
  else
    let e : CqEntry := ⟨s.now, s.ctx.core, s.ctx.slot, s.ctx.launch, q.next, w, false⟩
    .ok ((), (s.setQueue ch ⟨q.next + 1, placeCq e q.items⟩).push p lat (.port 6 q.next) (.word w) flags)

/-- Write a scalar destination field: the result lands `lat` issued cycles later (R28, R30, R134, R135). -/
def writeS (p : Pos) (lat : Nat) (d : BitVec 5) (w : Word) (flags : BitVec 5 := 0) : M Unit := fun s =>
  let n := d.toNat
  if 24 ≤ n ∧ n ≤ 30 then
    if s.ctx.companion then .error (.trap ⟨cProtect, 0, 0x200⟩)
    else if n = 30 then pushCq p lat w flags s
    else pushLink p lat (n - 24) w flags s
  else if n = 0 then .ok ((), s.push p lat .none (.word w) flags)
  else .ok ((), s.push p lat (.scalar (s.ctx.phys n)) (.word w) flags (!p.wbs))

/-- Write a vector destination, where `mask` says which bytes the instruction writes (R75, R236). -/
def writeV (p : Pos) (lat : Nat) (d : BitVec 5) (v : VVal) (mask : BitVec 256 := fullMask) (flags : BitVec 5 := 0) :
    M Unit :=
  fun s => .ok ((), s.push p lat (.vector (s.ctx.vphys d.toNat)) (.vec v mask) flags (!p.wbs))

/-- Write a predicate destination; p0 discards it (R236). -/
def writeP (p : Pos) (lat : Nat) (d : BitVec 4) (v mask : BitVec 256) (flags : BitVec 5 := 0) : M Unit :=
  fun s => .ok ((), s.push p lat (if d = 0 then .none else .pred d.toNat) (.pred v mask) flags (!p.wbs))

/-- Read a vector source field: a latch when bypassed, else the named register (R27, R236). -/
def readV (byp : Bool) (n : BitVec 5) : M VVal := fun s =>
  .ok (if byp then (s.ctx.lat.getD (n.toNat % 4) (.scalar 0)).vec else s.ctx.vec n.toNat, s)

/-- Whether a result is an update that takes effect with the target of its branch: a slide of the window base (R137) or a BRL
update (R153). -/
def Res.steers (r : Res) : Bool := r.dest == .wbase || r.dest == .brl

/-! ## Results landing -/

/-- A predicate value as a latch holds it: zero-extended to 2048 bits (R28). -/
def predVec (v : BitVec 256) : VVal :=
  VVal.mk' (dataOfLanes 64 [v.toNat % 2 ^ 64, v.toNat / 2 ^ 64 % 2 ^ 64, v.toNat / 2 ^ 128 % 2 ^ 64, v.toNat / 2 ^ 192]) 0

/-- A result enters its slot's latch (R28); in interlocked mode results enter in issue order, so an earlier-issued one no
longer does when a later-issued one is in (R31). -/
def Ctx.latch (c : Ctx) (r : Res) (l : LatchVal) : Ctx :=
  if r.latch && (!c.il || decide (c.latSeq.getD r.slot 0 ≤ r.seq)) then
    { c with lat := c.lat.setIfInBounds r.slot l, latSeq := c.latSeq.setIfInBounds r.slot r.seq }
  else c

/-- p8 to p15 after a rotation, from what they hold (R153). -/
def Ctx.rotated (c : Ctx) (p8 : Bool) : Vector (BitVec 256) 8 :=
  Vector.ofFn (fun i : Fin 8 => if i.val = 0 then (if p8 then BitVec.allOnes 256 else 0) else c.p.getD (i.val + 7) 0)

/-- Write p8 to p15. -/
def Ctx.setRotating (c : Ctx) (ps : Vector (BitVec 256) 8) : Ctx :=
  { c with p := Vector.ofFn (fun i : Fin 16 => if 8 ≤ i.val then ps.getD (i.val - 8) 0 else c.p.getD i.val 0) }

/-- p8 all ones, p9 to p15 clear (R152). -/
def Ctx.loopPreds (c : Ctx) : Ctx :=
  { c with p := Vector.ofFn (fun i : Fin 16 =>
      if i.val = 8 then BitVec.allOnes 256 else if 9 ≤ i.val then 0 else c.p.getD i.val 0) }

/-- A write of a state register: of `mode` software may write `ie` and `il`; every register keeps only its defined
fields (R92, R96, R160). -/
def Ctx.writeSreg (c : Ctx) (n : Nat) (w : Word) : Ctx :=
  match n with
  | 0x000 => { c with ie := bitAt w 2, il := if c.companion then true else bitAt w 0 }
  | 0x001 => { c with fpflags := BitVec.ofNat 5 w.toNat }
  | 0x002 => { c with fptrap := BitVec.ofNat 5 w.toNat }
  | 0x003 => { c with lc := w }
  | 0x004 => { c with ec := w }
  | 0x005 => { c with vrb := BitVec.ofNat 4 w.toNat }
  | 0x006 => { c with wsp := w }
  | 0x019 => { c with budget := w }
  | 0x020 => { c with epcq0 := w &&& 0x3FFF1 }
  | 0x021 => { c with epcq1 := w &&& 0x3FFF1 }
  | 0x022 => { c with epcq2 := w &&& 0x3FFF1 }
  | 0x023 => { c with tcause := w &&& 0xBFF }
  | 0x024 => { c with tmask := BitVec.ofNat 4 w.toNat }
  | 0x025 => { c with taddr := w }
  | 0x026 => { c with tdetail := w }
  | 0x027 => { c with tvec := w }
  | 0x028 => { c with ssave := w }
  | 0x029 => { c with bkpt0 := w &&& 0x3FFF1 }
  | 0x02A => { c with bkpt1 := w &&& 0x3FFF1 }
  | 0x02B => { c with ienable := BitVec.ofNat 2 w.toNat }
  | 0x030 => { c with cqsrc := w }
  | 0x032 => { c with rkey := w }
  | 0x033 => { c with rctr := w }
  | _ => c

/-- What landing does to the context: the register, the flags, the latch (R28, R71, R75, R98, R152, R153, R161). A disabled
lane keeps the old destination also in the latch; the old destination of p0 is all ones (log 120, DESIGN CHOICE). -/
def Ctx.landed (c : Ctx) (r : Res) : Ctx :=
  let c := match r.dest with
    | .sreg _ => c
    | _ => { c with fpflags := c.fpflags ||| r.flags }
  match r.val with
  | .word w =>
    let c := match r.dest with
      | .scalar ph => if r.wb then c.setPhys ph w else c
      | .sreg n => c.writeSreg n w
      | .seed k => { c with sg := c.sg.setIfInBounds k w }
      | _ => c
    c.latch r (.scalar w)
  | .vec v mask =>
    match r.dest with
    | .vector ph =>
      let v' : VVal := ⟨mergeData (c.v.getD ph VVal.zero).data v.data mask, v.tag, v.side⟩
      let c := c.latch r (.vector v')
      if r.wb then { c with v := c.v.setIfInBounds ph v' } else c
    | _ => c.latch r (.vector v)
  | .pred v mask =>
    match r.dest with
    | .pred n =>
      let v' := (v &&& mask) ||| (c.p.getD n 0 &&& ~~~mask)
      let c := c.latch r (.vector (predVec v'))
      if r.wb then { c with p := c.p.setIfInBounds n v' } else c
    | _ => c.latch r (.vector (predVec ((v &&& mask) ||| ~~~mask)))
  | .loop lc ec => ({ c with lc := lc, ec := ec }).loopPreds
  | .brl true w vrb ps => ({ c with lc := w, vrb := vrb }).setRotating ps
  | .brl false w vrb ps => ({ c with ec := w, vrb := vrb }).setRotating ps
  | .base b => { c with wbase := b }
  | .mode _ => c

/-- A word that lands in the place a push took in a link port's queue (R135). -/
def Core.portLanded (k : Core) (port ticket : Nat) : Core :=
  let i := ticket - k.outGone.getD port 0
  let q := k.outq.getD port []
  match q[i]? with
  | some (w, _) => { k with outq := k.outq.setIfInBounds port (q.set i (w, true)) }
  | none => k

/-- A word that lands in its entry of the companion queue (R383). -/
def State.cqLanded (s : State) (chamber ticket : Nat) : State :=
  let q := s.queue chamber
  s.setQueue chamber { q with items := q.items.map (fun e => if e.ticket = ticket then { e with landed := true } else e) }

/-- A result of the focus context lands (R28). -/
def State.land (s : State) (r : Res) : State :=
  let s := { s with ctx := s.ctx.landed r }
  match r.dest, r.val with
  | .mode, .mode m => { s with core := { s.core with mode := some m } }
  | _, _ => s

/-! ## Windows (R137 to R139) -/

/-- Every window place of results in flight or captured moves with a rotation of the stack (R139). -/
def Res.moved (r : Res) (f : Nat → Nat) (g : Nat → Nat) : Res :=
  match r.dest, r.val with
  | .scalar ph, _ => if 128 ≤ ph ∧ ph < 256 then { r with dest := .scalar (128 + f (ph - 128)) } else r
  | .wbase, .base b => { r with val := .base (g b) }
  | _, _ => r

/-- Rotate the window stack: position j moves to `f j`; bases change by `g` (R138). `inv` is f's inverse. -/
def Ctx.rotateStack (c : Ctx) (f inv g : Nat → Nat) : Ctx :=
  { c with win := Vector.ofFn (fun i : Fin 128 => c.win.getD (inv i.val) 0),
           wbase := g c.wbase, wnext := g c.wnext,
           infl := c.infl.map (fun r => r.moved f g),
           snap := c.snap.map (fun e => { e with res := e.res.moved f g }) }

/-! ## The PC queue in registers (R96) -/

/-- An entry of the PC queue as a word in the layout of `epcq0`. -/
def QEnt.word (q : QEnt) : Word := w64 (q.addr / 16 % 2 ^ 14 * 16 + (if q.an then 1 else 0))

/-- The entry a word in that layout names. -/
def qOfWord (w : Word) : QEnt := ⟨bits w 17 4 * 16, bitAt w 0⟩

/-! ## Stopping and capturing (R97) -/

/-- Put an element behind those whose key is not larger. -/
def insertKey {α : Type} (key : α → Nat) (x : α) : List α → List α
  | [] => [x]
  | y :: t => if key x < key y then x :: y :: t else y :: insertKey key x t

/-- A list in the order of a key; elements of one key keep their order. -/
def byKey {α : Type} (key : α → Nat) (l : List α) : List α := l.foldl (fun acc x => insertKey key x acc) []

/-- Row writes on their way into tiles and edge latches complete at once, in the order in which they would have landed, and are never
captured (R97, R289, R297, log 14, DEDUCED). -/
def State.settleArray (s : State) : State :=
  let clk := s.ctx.clk
  { s with core := { s.core with
      beats := (byKey Beat.due s.core.beats).map (fun b => { b with due := Nat.min b.due clk }),
      latchW := (byKey LatchWrite.due s.core.latchW).map (fun b => { b with due := Nat.min b.due clk }) } }

/-- The bypass latches are lost: they read zero, and results issued before do not refill them (R29). -/
def Ctx.loseLatches (c : Ctx) : Ctx :=
  { c with lat := Vector.replicate 4 (.scalar 0), infl := c.infl.map (fun r => { r with latch := false }) }

/-- Capture every result that has not landed by the issue of EPCQ0, with its remaining latency; pending window bases
are captured with them. Row writes of the matrix array complete (R97). Latches are lost (R29). -/
def State.capture (s : State) : State :=
  let c := s.ctx
  let again := match c.replayU with
    | some u => (c.snap.filter (fun e => decide (c.clk < u + e.k))).map (fun e => { e with k := u + e.k - c.clk })
    | none => c.snap
  let snaps := c.infl.map (fun r => (⟨r.land - c.clk, { r with latch := false }⟩ : Snap))
  ({ s with ctx := { c.loseLatches with infl := [], snap := again ++ snaps, replayU := none, wnext := c.wbase } }).settleArray

/-! ## Group objects (R168 to R175) -/

/-- The handle of a group (R168). -/
def Group.handle (g : Group) : Word := w64 (g.index + 256 * g.inc)

/-- The live group of an index and incarnation. -/
def State.groupAt (s : State) (index inc : Nat) : Option Group :=
  s.groups.find? (fun g => g.index == index && g.live && g.inc == inc)

/-- Replace a group object. -/
def State.setGroup (s : State) (g : Group) : State :=
  { s with groups := g :: s.groups.filter (fun x => x.index != g.index) }

/-- Whether a member has arrived in a generation. -/
def Member.arrivedIn (m : Member) (gen : Nat) : Bool := match m.bar with
  | .arrived g _ => g == gen
  | _ => false

/-- Whether a member arrived by STEP. -/
def Member.stepped (m : Member) : Bool := match m.bar with
  | .arrived _ st => st
  | _ => false

/-- A generation completes when every member has arrived in it, the quorum is met and no tagged send holds back a step
(R173). -/
def Group.check (g : Group) : Group :=
  let n := g.members.length
  if g.live && decide (0 < n) && decide (g.quorum ≤ n) && g.members.all (fun m => m.arrivedIn g.gen)
      && (g.members.all (fun m => !m.stepped) || g.sends == 0) then
    { g with members := g.members.map (fun m => { m with bar := .done g.gen m.stepped }), gen := (g.gen + 1) % 2 ^ 16 }
  else g

/-- The object is free when it has no members after a JOIN, or without one once its creating launch has ended (R172). -/
def Group.dissolve (g : Group) (ended : Bool) : Group :=
  if g.members.isEmpty && (g.joined || ended) then { g with live := false } else g

/-- The caller's member entry. -/
def Group.member (g : Group) (launch core : Nat) : Option Member :=
  g.members.find? (fun m => m.launch == launch && m.core == core)

/-- Whether a group admits a context of a launch and agency (R169). -/
def Group.admits (g : Group) (launch agency : Nat) : Bool :=
  if g.who = 0 then g.launch == launch else g.agency == agency

/-- Set the barrier state of a member. -/
def Group.setBar (g : Group) (launch core : Nat) (b : BarState) : Group :=
  { g with members := g.members.map (fun m => if m.launch = launch ∧ m.core = core then { m with bar := b } else m) }

/-- JOIN takes effect (R171). -/
def Group.join (g : Group) (launch core : Nat) : Group :=
  if (g.member launch core).isSome ∨ 768 ≤ g.members.length then g
  else { g with members := g.members ++ [⟨launch, core, .idle⟩], joined := true }

/-- LEAVE takes effect: the completion rule is checked again (R171, R172). -/
def Group.leave (g : Group) (launch core : Nat) : Group :=
  ({ g with members := g.members.filter (fun m => !(m.launch == launch && m.core == core)) }.dissolve false).check

/-- An arrival takes effect; one that meets an arrival marks its generation a step (R174). Two queued arrivals that a completion was
expected between, and that another context's JOIN kept in one generation, are one arrival (log 127, DESIGN CHOICE). -/
def Group.arrive (g : Group) (launch core : Nat) (step : Bool) : Group :=
  match g.member launch core with
  | none => g
  | some m => match m.bar with
    | .arrived k st => (g.setBar launch core (.arrived k (st || step))).check
    | _ => (g.setBar launch core (.arrived g.gen step)).check

/-- Apply a change to the live group of an index and incarnation; a queued JOIN, LEAVE or arrival whose group has been dissolved
since its issue changes nothing, and nothing records it (log 112, DESIGN CHOICE). -/
def State.mapGroup (s : State) (index inc : Nat) (f : Group → Group) : State :=
  match s.groupAt index inc with
  | some g => s.setGroup (f g)
  | none => s

/-- The last byte of a tagged send has landed (R175): sends into a group that is gone are no longer counted (R172). -/
def State.tagLanded (s : State) (index inc : Nat) : State :=
  s.mapGroup index inc (fun g => ({ g with sends := g.sends - 1 }).check)

/-- A tagged send is accepted under a handle (R175); 0 is no handle. -/
def State.tagSent (s : State) (h : Word) : State :=
  if h = 0 then s else s.mapGroup (bits h 7 0) (bits h 23 8) (fun g => { g with sends := g.sends + 1 })

/-- A context that has ended leaves every group (R172). -/
def State.leaveAll (s : State) (launch core : Nat) : State :=
  { s with groups := s.groups.map (fun g => if (g.member launch core).isSome then g.leave launch core else g) }

/-- The groups of a launch that has ended and that nobody joined are free (R172). -/
def State.launchGone (s : State) (launch : Nat) : State :=
  { s with groups := s.groups.map (fun g => if g.launch = launch then g.dissolve true else g) }

/-! ## Ending a launch (R84, R99, R104) -/

/-- A context that ends without holding its core: every result it has in flight or captured is due, since no latency is
longer than 24 (R156). -/
def Ctx.runOut (c : Ctx) : Ctx :=
  { c with clk := c.clk + 24, replayU := if c.snap.isEmpty then none else some (c.replayU.getD c.clk) }

/-- A context of a launch that the front end ends: it issues no more, and what it has issued and queued is done before its end is
reported, as at END (R99, R156, R172). -/
def Ctx.ended (c : Ctx) : Ctx := { c.runOut with status := .ending, stallAt := none }

/-- The saved contexts of a launch that the front end ends: they go and leave their groups, and when no context is left the groups that
nobody joined are free (R104, R172). -/
def State.savedEnd (s : State) (n : Nat) : State :=
  let away := (s.saved.filter (fun v => v.ctx.launch == n)).map (fun v => v.ctx.core)
  let s := away.foldl (fun (s : State) k => s.leaveAll n k) s
  let mark : Launch → Launch := fun l =>
    if l.num = n then { l with bad := true, live := l.live.filter (fun k => !away.contains k) } else l
  let s := { s with launches := s.launches.map mark, saved := s.saved.filter (fun v => v.ctx.launch != n) }
  if s.launches.any (fun (l : Launch) => l.num == n && l.live.isEmpty) then s.launchGone n else s

/-- The front end ends a launch with a fault status: its contexts stop issuing and end, its saved contexts go (R84, R99, R172). -/
def State.endLaunch (s : State) (n : Nat) : State :=
  ((s.unbindWhere (fun c => c.launch == n)).mapCtx
    (fun c => c.launch == n && c.status.resident && c.status != .halted && c.status != .ending) Ctx.ended).savedEnd n

/-! ## Deferral (R371) -/

/-- Whether a trap of the focus context is deferred: it holds a binding, its slice is not settled, the cause is 0x07 to
0x0E, in task mode, outside a lockstep launch. -/
def State.defers (s : State) (cause : BitVec 8) : Bool :=
  match s.ctx.bind with
  | none => false
  | some b =>
    decide (0x07 ≤ cause.toNat) && decide (cause.toNat ≤ 0x0E) && !s.ctx.sv && !s.ctx.lock
    && match (s.horizon b.h).bind (fun z => z.slice b.slice) with
       | some c => !c.settled
       | none => false

/-- Record a deferred fault on its slice, or discard it when its generation is no longer current; the task ends (R156)
and its binding with it. -/
def State.deferFault (s : State) (r : TrapReq) (mask : BitVec 4) : State :=
  match s.ctx.bind with
  | none => s
  | some b =>
    let c := s.ctx
    let s := { s with ctx := { c with bind := none, status := .ending, stallAt := none } }
    match s.horizon b.h with
    | none => s
    | some z =>
      match z.slice b.slice with
      | none => s
      | some sc =>
        let sc := sc.release b
        let rec_ : FaultRec := { cause := r.cause, mask := mask, coarse := b.coarse, prom := false, taddr := r.taddr,
                                 detail := r.detail, pq0 := c.q0.word, pq1 := c.q1.word, pq2 := c.q2.word }
        let sc := if sc.gen = b.gen then { sc with held := some rec_, postedF := false, postedG := false } else sc
        (s.setHorizon (z.setSlice sc)).eligibility b.h

/-! ## Taking a trap (R95, R96, R99, R100) -/

/-- The trap record as R95 writes it, and the queue at the handler. A STEP that it interrupts is over: when its bundle re-issues it fences
and arrives anew, in g + 1 if its generation has completed meanwhile (R101, R121, R174; log 127, DESIGN CHOICE). -/
def Ctx.enter (c : Ctx) (r : TrapReq) (mask : BitVec 4) : Ctx :=
  { c with
    epcq0 := c.q0.word, epcq1 := c.q1.word, epcq2 := c.q2.word,
    tcause := w64 (r.cause.toNat + (if c.sv then 2 ^ 8 else 0) + (if c.ie then 2 ^ 9 else 0)),
    tmask := mask, taddr := r.taddr, tdetail := r.detail,
    sv := true, ie := false, stallAt := none, mwaitAt := none, stepping := false, steer := {}, cursor := 0,
    q0 := ⟨c.tvec.toNat, false⟩, q1 := ⟨c.tvec.toNat + 16, false⟩, q2 := ⟨c.tvec.toNat + 32, false⟩ }

/-- The underlying cause of a window spill fault (R140), or the cause itself. -/
def TrapReq.underlying (r : TrapReq) : BitVec 8 :=
  if r.cause = cSpill then BitVec.ofNat 8 (bits r.detail 15 8) else r.cause

/-- Park a page fault with the front end (R100): the record the trap would write is kept with the old one. A handler's own
results stay in flight, since the buffer holds the task's (R99). Whether the fault will be deferred is decided now (R371). -/
def State.parkFault (s : State) (r : TrapReq) (mask : BitVec 4) : State :=
  let defer := s.defers r.cause
  let s := if s.ctx.sv then ({ s with ctx := s.ctx.loseLatches }).settleArray else s.capture
  let s := s.report 11 r.taddr
  let c := s.ctx
  { s with
    ctx := { c with status := .faulted, stallAt := none, steer := {},
                    pfault := some ⟨r, mask, c.tcause, c.tmask, c.taddr, c.tdetail, defer⟩ },
    core := { s.core with running := none, idleSince := some s.now } }

/-- A double fault (R99): the context halts, its trap record goes to the front end word by word, the launch ends; the snapshot
stays as it is, and beats in flight complete (R297). -/
def State.doubleFault (s : State) (r : TrapReq) (mask : BitVec 4) : State :=
  let c := s.ctx
  let s := s.report 3 (w64 (r.cause.toNat + 256 * (c.core * 4 + c.slot)))
  let e := c.enter r mask
  let s := { s with
    answers := s.answers ++ [Answer.trapRecord c.core c.slot
      [e.epcq0, e.epcq1, e.epcq2, e.tcause, w64 e.tmask.toNat, e.taddr, e.tdetail]],
    ctx := { c with status := .halted } }
  s.settleArray.endLaunch c.launch

/-- Deliver a trap to its handler, or halt on a double fault; the handler's first bundle issues 24 cycles after the
cycle in which EPCQ0 would have issued (R95, R99). -/
def State.deliver (s : State) (r : TrapReq) (mask : BitVec 4) : State :=
  if s.ctx.sv then s.doubleFault r mask
  else
    let s := s.capture
    { s with ctx := s.ctx.enter r mask, core := { s.core with readyAt := s.now + 24 } }

/-- Take a trap: a page fault is first offered to the firmware, but for a copy channel's, which was offered before (R219); a
fault of an unsettled slice's task is deferred, anything else is delivered (R93 to R100, R371). -/
def State.takeTrap (s : State) (r : TrapReq) (mask : BitVec 4) : State :=
  if r.underlying = cPage ∧ bitAt r.detail 12 = false then s.parkFault r mask
  else if s.defers r.cause then s.deferFault r mask
  else s.deliver r mask

/-! ## Returning from a trap (R98, R158) -/

/-- Resume at a PC queue: captured results replay from the clock at which the first bundle issues (R98), and the window
base that was pending is pending again. The latches are lost (R29). -/
def Ctx.resumeAt (c : Ctx) (q0 q1 q2 : QEnt) : Ctx :=
  let base := c.snap.foldl (fun b e => match e.res.val with
    | .base x => x
    | _ => b) c.wbase
  { c.loseLatches with q0 := q0, q1 := q1, q2 := q2, replayU := if c.snap.isEmpty then none else some c.clk, wnext := base }

/-- The switch-in of a context: a task resumes by R98; in a handler the captured results stay in the buffer until its ERET
(R98, R100). -/
def Ctx.comeIn (c : Ctx) : Ctx := if c.sv then c.loseLatches else c.resumeAt c.q0 c.q1 c.q2

/-- ERET in supervisor mode (R98, R101, R158): `ie` and `sv` come back, the queue is `epcq0` to `epcq2`, `bleft` is
loaded again after a budget overrun, a spill or fill restarts at the cursor (R140), the breakpoint registers are ignored
once when tc.bpskip says so. The clock counts the ERET's own bundle first. -/
def Ctx.eret (c : Ctx) : Ctx :=
  let c := ({ c with clk := c.clk + 1 }).resumeAt (qOfWord c.epcq0) (qOfWord c.epcq1) (qOfWord c.epcq2)
  { c with clk := c.clk - 1, bpskip := bitAt c.tcause 11,
           cursor := if bits c.tcause 7 0 = 0x0B then bits c.tdetail 7 1 else 0,
           slwaitAt := c.slwaitAt.filter (fun w => w.1 == c.q0.addr),
           ie := bitAt c.tcause 9, sv := bitAt c.tcause 8,
           bleft := if bits c.tcause 7 0 = 0x12 then w64 (bits c.budget 62 0) else c.bleft,
           held := if bits c.tcause 7 0 = 0x12 then 0 else c.held,
           steer := { c.steer with eret := true } }

/-! ## Running a slot operation -/

/-- The mask bit of a slot. -/
def maskBit (p : Pos) : BitVec 4 := BitVec.ofNat 4 (2 ^ p.slot.toNat)

/-- A wait is noted; the state is otherwise as before. -/
def State.waits (s : State) (k : WaitKind) : State := { s with sig := .waits k }

/-- A state that a transfer has changed before it faulted, with ports and results in flight as they stood before the bundle:
no slot of it commits (R93, R140). -/
def State.unpopped (t s : State) : State :=
  { t with core := { t.core with inq := s.core.inq, outq := s.core.outq, outBy := s.core.outBy }, cq := s.cq,
           ctx := { t.ctx with infl := s.ctx.infl } }

/-- What a meaning answers. -/
abbrev Out := Host.Outcome State Fault Refusal

/-- What a slot operation does to the machine: its effect, the trap it takes (with the marks that `mask` holds of other
slots of its bundle), or the wait it stands in. -/
def finish (p : Pos) (m : M Unit) (s : State) : Host.Outcome State Fault Refusal :=
  match m s with
  | .ok (_, s') => .next { s' with sig := .ran }
  | .error (.trap r) => .next { (s.takeTrap r (s.mask ||| maskBit p)) with sig := .trapped r, mask := 0 }
  | .error (.trapLog r f) => .next { ((f s).takeTrap r (s.mask ||| maskBit p)) with sig := .trapped r, mask := 0 }
  | .error (.trapIn r s') => .next { ((s'.unpopped s).takeTrap r (s.mask ||| maskBit p)) with sig := .trapped r, mask := 0 }
  | .error (.wait k) => .next (s.waits k)
  | .error (.send k f) => .next ((f s).waits k)

end Sys2Proof.Machine
end

