-- ==== Sys2Proof/Machine/Operands.lean ====
section
/-! DEFINITION. Operand forms: immediates and offsets with their extension (spec/02 R26), effective addresses (spec/07
R146), branch targets (R47), predicates (spec/13 R236), cache policies (spec/02 R22). -/

namespace Sys2Proof.Machine

/-! ## Immediates (R26) -/

/-- The field of w bits that an immediate or an offset becomes: cat(lend.ext, field) with a header, the field alone
without. The width comes first. -/
def extField (p : Pos) (w field : Nat) : Nat × Nat :=
  if p.hdr then (w + 5, p.ext.toNat * 2 ^ w + field) else (w, field)

/-- A signed immediate of a form with a w-bit field. -/
def immS (p : Pos) (w field : Nat) : Word := let (n, v) := extField p w field; sextTo n v

/-- An unsigned immediate. -/
def immZ (p : Pos) (w field : Nat) : Word := w64 (extField p w field).2

/-- An immediate of the I form, signed. -/
def imm16S (p : Pos) (imm : BitVec 16) : Word := immS p 16 imm.toNat
/-- An immediate of the I form, unsigned. -/
def imm16Z (p : Pos) (imm : BitVec 16) : Word := immZ p 16 imm.toNat

/-- ea := wrap(s[base] + sext(offset), 64) (R146). -/
def effAddr (p : Pos) (base : Word) (off : BitVec 13) : Word := base + immS p 13 off.toNat

/-- The address a displacement of n bits names: this bundle + 16 · disp, as an integer (R47, R148). -/
def dispTarget (q : QEnt) (n disp : Nat) : Int := (q.addr : Int) + 16 * sval n disp

/-! ## Names read at issue -/

/-- The predicate named by a pred field. -/
def readPred (n : BitVec 4) : M (BitVec 256) := fun s => .ok (s.ctx.pred n.toNat, s)

/-- The old value of a destination that is also a source (SEL, BFI, fused forms): the named scalar register. -/
def readOld (p : Pos) (lat : Nat) (d : BitVec 5) : M Word := readS p lat false d

/-! ## Policies (R22) -/

/-- A cache policy. -/
inductive Policy where
  | l1 | l2 | str | far | ro
  deriving DecidableEq, Repr

/-- The policy of a field. -/
def policyOf (b : BitVec 3) : Policy :=
  match b.toNat with
  | 0 => .l1
  | 1 => .l2
  | 2 => .str
  | 3 => .far
  | _ => .ro

/-- Whether the machine is in exposed mode for the context (R92). -/
def Ctx.exposed (c : Ctx) : Bool := !c.il

end Sys2Proof.Machine
end

