-- ==== Sys2Proof/Machine/Flags.lean ====
section
/-! DEFINITION. Conditions (spec/02 R22), sticky flags and the floating-point trap (spec/04 R70 to R72), tags and their
checks (R73 to R76), fingerprints (spec/14 R262). -/

namespace Sys2Proof.Machine

/-! ## Conditions -/

/-- x cc y: eq, ne, lt, ge signed, lo, hs unsigned (R22, R142). -/
def cond (cc : BitVec 3) (x y : Word) : Bool :=
  match cc.toNat with
  | 0 => x == y
  | 1 => x != y
  | 2 => x.slt y
  | 3 => !x.slt y
  | 4 => x.ult y
  | _ => !x.ult y

/-! ## Floating-point flags -/

/-- The flags of all lanes. -/
def orFlags (l : List (BitVec 5)) : BitVec 5 := l.foldl (· ||| ·) 0

/-- The lowest element that raised an enabled flag, if one did. -/
def firstRaised (en : BitVec 5) (l : List (BitVec 5)) : Option Nat := l.findIdx? (fun f => f &&& en != 0)

/-- The floating-point exception of a slot (R72): `lanes` are the flags of its elements in ascending order. -/
def fpTrap (p : Pos) (lanes : List (BitVec 5)) : M Unit := fun s =>
  match firstRaised s.ctx.fptrap lanes with
  | none => .ok ((), s)
  | some k =>
    .error (.trap ⟨cFp, 0, w64 ((orFlags lanes).toNat + 2 ^ 8 * p.slot.toNat + 2 ^ 16 * (k % 1024))⟩)

/-! ## Tags (R73) -/

/-- tag.fmt. -/
def tagFmt (t : BitVec 24) : Nat := t.toNat % 32
/-- The format of a tag as a code. -/
def tagF (t : BitVec 24) : BitVec 5 := BitVec.ofNat 5 (tagFmt t)

/-- tag.grp. -/
def tagGrp (t : BitVec 24) : Nat := t.toNat / 2 ^ 5 % 4
/-- tag.rot. -/
def tagRot (t : BitVec 24) : Nat := t.toNat / 2 ^ 7 % 4
/-- tag.seed. -/
def tagSeed (t : BitVec 24) : Nat := t.toNat / 2 ^ 9 % 16
/-- tag.fp. -/
def tagFp (t : BitVec 24) : Nat := t.toNat / 2 ^ 13

/-- A tag from its fields. -/
def mkTag (fmt grp rot seed fp : Nat) : BitVec 24 :=
  BitVec.ofNat 24 (fmt % 32 + 2 ^ 5 * (grp % 4) + 2 ^ 7 * (rot % 4) + 2 ^ 9 * (seed % 16) + 2 ^ 13 * fp)

/-- The tag of a format with every other field zero. -/
def fmtTag (f : BitVec 5) : BitVec 24 := mkTag f.toNat 0 0 0 0

/-- The tag of a vector register or an edge latch is well formed (R74). -/
def tagOk (t : BitVec 24) : Bool :=
  let f := tagFmt t
  decide (f ≤ 16)
  && (tagGrp t != 0) == (f == 15 || f == 16)
  && (tagRot t == 0 || decide (9 ≤ f))
  && (tagGrp t == 0 || tagRot t == 0 || tagGrp t == tagRot t)
  && (tagRot t != 0 || (tagSeed t == 0 && tagFp t == 0))
  && (f != 0 || t == 0)

/-- The tag of an accumulator tile is well formed (R74). -/
def tileTagOk (t : BitVec 24) : Bool :=
  let f := tagFmt t
  (f == 0 || f == 3 || f == 10) && tagRot t == 0 && (tagGrp t != 0 || (tagSeed t == 0 && tagFp t == 0))

/-- Run or group size of a two-bit code: 32, 64 or 128, and 1 for none. -/
def runLen (c : Nat) : Nat := if c = 0 then 1 else 16 * 2 ^ c

/-- The tag-mismatch trap (R93): expected and found tag. -/
def tagTrap {α : Type} (expected found : BitVec 24) : M α :=
  trapM cTag 0 (w64 (expected.toNat + 2 ^ 24 * found.toNat))

/-- The check of one source (R76): raw, or exactly the format read, with grp zero, and rot zero unless the entry admits
rotated sources. An ill-formed tag fails too (R257). -/
def checkTag (want : BitVec 24) (admitRot : Bool) (t : BitVec 24) : M Unit :=
  if t == 0 then pure ()
  else if tagOk t && tagFmt t == tagFmt want && tagGrp t == 0 && (admitRot || tagRot t == 0) then pure ()
  else tagTrap want t

/-- A source of any format whose grp and rot are zero (R242, R243). -/
def checkPlain (t : BitVec 24) : M Unit :=
  if tagOk t && tagGrp t == 0 && tagRot t == 0 then pure () else tagTrap 0 t

/-- The common rotation (R76): every rotated source agrees with the first in rot and fp, whose seed the result takes; a
source without a rotation agrees with any (log 15, DEDUCED). The answer is the result's tag. -/
def commonTag (f : BitVec 5) (ts : List (BitVec 24)) : M (BitVec 24) :=
  match ts.filter (fun t => tagRot t != 0) with
  | [] => pure (fmtTag f)
  | t :: rest =>
    match rest.find? (fun u => tagRot u != tagRot t || tagFp u != tagFp t) with
    | some u => tagTrap t u
    | none => pure (mkTag f.toNat 0 (tagRot t) (tagSeed t) (tagFp t))

end Sys2Proof.Machine
end

