-- ==== Sys2Proof/Machine/Scalar.lean ====
section
/-! DEFINITION. The scalar ALU (spec/07 R141 to R145). -/

namespace Sys2Proof.Machine

/-! ## The forms -/

/-- Two scalar sources, one result. -/
def alu2 (p : Pos) (lat : Nat) (d a b : BitVec 5) (f : Word → Word → Word) : M Unit := do
  let x ← readS p lat p.bypA a
  let y ← readS p lat p.bypB b
  writeS p lat d (f x y)

/-- One scalar source, one result. -/
def alu1 (p : Pos) (lat : Nat) (d a : BitVec 5) (f : Word → Word) : M Unit := do
  let x ← readS p lat p.bypA a
  writeS p lat d (f x)

/-- The latency of MUL, MULH, MULHN and MUL.I (R141). -/
def latMul : Nat := 3
/-- The latency of the divisions (R141). -/
def latDiv : Nat := 24

/-! ## The functions (R142 to R144) -/

/-- The shift amount y[5:0]. -/
def shAmt (y : Word) : Nat := y.toNat % 64

/-- sat(x, i64) (R142). -/
def satI64 (x : Int) : Word :=
  BitVec.ofInt 64 (if x < -(2 ^ 63) then -(2 ^ 63) else if (2 ^ 63 : Int) ≤ x then 2 ^ 63 - 1 else x)

/-- Signed minimum. -/
def sMin (x y : Word) : Word := if x.slt y then x else y
/-- Signed maximum. -/
def sMax (x y : Word) : Word := if x.slt y then y else x
/-- Unsigned minimum. -/
def uMin (x y : Word) : Word := if x.ult y then x else y
/-- Unsigned maximum. -/
def uMax (x y : Word) : Word := if x.ult y then y else x

/-- DIV (R142, R143). -/
def sDiv (x y : Word) : Word := if y = 0 then BitVec.allOnes 64 else x.sdiv y
/-- DIVN. -/
def uDiv (x y : Word) : Word := if y = 0 then BitVec.allOnes 64 else x / y
/-- REM: the remainder takes the sign of x. -/
def sRem (x y : Word) : Word := if y = 0 then x else x.srem y
/-- REMN. -/
def uRem (x y : Word) : Word := if y = 0 then x else x % y

/-- The high 64 bits of the signed product. -/
def mulHigh (x y : Word) : Word := BitVec.ofInt 64 (x.toInt * y.toInt / 2 ^ 64)
/-- The high 64 bits of the unsigned product. -/
def mulHighN (x y : Word) : Word := BitVec.ofNat 64 (x.toNat * y.toNat / 2 ^ 64)

/-- Leading zero bits, 0 to 64. -/
def clz64 (x : Word) : Word := w64 (64 - bitLen x.toNat)
/-- Trailing zero bits, 0 to 64. -/
def ctz64 (x : Word) : Word := w64 (((List.range 64).find? (fun k => x.getLsbD k)).getD 64)
/-- One bits. -/
def popc64 (x : Word) : Word := w64 ((List.range 64).countP (fun k => x.getLsbD k))

/-- BFX (R144): bits pos to pos + len − 1, zero beyond bit 63. -/
def bfxOf (x : Word) (pos len : Nat) : Word := w64 (x.toNat / 2 ^ pos % 2 ^ len)

/-- BFI (R144): the low bits of x replace bits pos to min(pos + len, 64) − 1 of the old value. -/
def bfiOf (old x : Word) (pos len : Nat) : Word :=
  let m := w64 ((2 ^ len - 1) * 2 ^ pos)
  (old &&& ~~~m) ||| (w64 (x.toNat * 2 ^ pos) &&& m)

/-- LIH (R144). -/
def lihOf (x : Word) (imm : BitVec 16) : Word := w64 (x.toNat * 2 ^ 16 + imm.toNat)

/-! ## The meanings -/

def execAdd (p : Pos) (d a b : BitVec 5) (s : State) : Out := finish p (alu2 p 1 d a b (· + ·)) s
def execSub (p : Pos) (d a b : BitVec 5) (s : State) : Out := finish p (alu2 p 1 d a b (· - ·)) s
def execAnd (p : Pos) (d a b : BitVec 5) (s : State) : Out := finish p (alu2 p 1 d a b (· &&& ·)) s
def execOr (p : Pos) (d a b : BitVec 5) (s : State) : Out := finish p (alu2 p 1 d a b (· ||| ·)) s
def execXor (p : Pos) (d a b : BitVec 5) (s : State) : Out := finish p (alu2 p 1 d a b (· ^^^ ·)) s
def execAndn (p : Pos) (d a b : BitVec 5) (s : State) : Out :=
  finish p (alu2 p 1 d a b (fun x y => x &&& ~~~y)) s
def execShl (p : Pos) (d a b : BitVec 5) (s : State) : Out := finish p (alu2 p 1 d a b (fun x y => x <<< shAmt y)) s
def execShr (p : Pos) (d a b : BitVec 5) (s : State) : Out := finish p (alu2 p 1 d a b (fun x y => x >>> shAmt y)) s
def execSar (p : Pos) (d a b : BitVec 5) (s : State) : Out :=
  finish p (alu2 p 1 d a b (fun x y => x.sshiftRight (shAmt y))) s
def execMin (p : Pos) (d a b : BitVec 5) (s : State) : Out := finish p (alu2 p 1 d a b sMin) s
def execMax (p : Pos) (d a b : BitVec 5) (s : State) : Out := finish p (alu2 p 1 d a b sMax) s
def execMinn (p : Pos) (d a b : BitVec 5) (s : State) : Out := finish p (alu2 p 1 d a b uMin) s
def execMaxn (p : Pos) (d a b : BitVec 5) (s : State) : Out := finish p (alu2 p 1 d a b uMax) s

/-- SEL (R142): the old s[d] is read at issue. -/
def execSel (p : Pos) (d a b : BitVec 5) (s : State) : Out :=
  finish p (do
    let x ← readS p 1 p.bypA a
    let y ← readS p 1 p.bypB b
    let o ← readOld p 1 d
    writeS p 1 d (if o != 0 then x else y)) s

/-- SLT.cc (R142). -/
def execSlt (p : Pos) (cc : BitVec 3) (d a b : BitVec 5) (s : State) : Out :=
  finish p (alu2 p 1 d a b (fun x y => ofBool (cond cc x y))) s

def execMul (p : Pos) (d a b : BitVec 5) (s : State) : Out := finish p (alu2 p latMul d a b (· * ·)) s
def execMulh (p : Pos) (d a b : BitVec 5) (s : State) : Out := finish p (alu2 p latMul d a b mulHigh) s
def execMulhn (p : Pos) (d a b : BitVec 5) (s : State) : Out := finish p (alu2 p latMul d a b mulHighN) s
def execDiv (p : Pos) (d a b : BitVec 5) (s : State) : Out := finish p (alu2 p latDiv d a b sDiv) s
def execDivn (p : Pos) (d a b : BitVec 5) (s : State) : Out := finish p (alu2 p latDiv d a b uDiv) s
def execRem (p : Pos) (d a b : BitVec 5) (s : State) : Out := finish p (alu2 p latDiv d a b sRem) s
def execRemn (p : Pos) (d a b : BitVec 5) (s : State) : Out := finish p (alu2 p latDiv d a b uRem) s
def execClz (p : Pos) (d a : BitVec 5) (s : State) : Out := finish p (alu1 p 1 d a clz64) s
def execCtz (p : Pos) (d a : BitVec 5) (s : State) : Out := finish p (alu1 p 1 d a ctz64) s
def execPopc (p : Pos) (d a : BitVec 5) (s : State) : Out := finish p (alu1 p 1 d a popc64) s
def execAddSat (p : Pos) (d a b : BitVec 5) (s : State) : Out :=
  finish p (alu2 p 1 d a b (fun x y => satI64 (x.toInt + y.toInt))) s
def execSubSat (p : Pos) (d a b : BitVec 5) (s : State) : Out :=
  finish p (alu2 p 1 d a b (fun x y => satI64 (x.toInt - y.toInt))) s

def execAddI (p : Pos) (d a : BitVec 5) (imm : BitVec 16) (s : State) : Out :=
  finish p (alu1 p 1 d a (· + imm16S p imm)) s
def execAndI (p : Pos) (d a : BitVec 5) (imm : BitVec 16) (s : State) : Out :=
  finish p (alu1 p 1 d a (· &&& imm16Z p imm)) s
def execOrI (p : Pos) (d a : BitVec 5) (imm : BitVec 16) (s : State) : Out :=
  finish p (alu1 p 1 d a (· ||| imm16Z p imm)) s
def execXorI (p : Pos) (d a : BitVec 5) (imm : BitVec 16) (s : State) : Out :=
  finish p (alu1 p 1 d a (· ^^^ imm16Z p imm)) s
def execShlI (p : Pos) (d a : BitVec 5) (sh : BitVec 6) (s : State) : Out :=
  finish p (alu1 p 1 d a (· <<< sh.toNat)) s
def execShrI (p : Pos) (d a : BitVec 5) (sh : BitVec 6) (s : State) : Out :=
  finish p (alu1 p 1 d a (· >>> sh.toNat)) s
def execSarI (p : Pos) (d a : BitVec 5) (sh : BitVec 6) (s : State) : Out :=
  finish p (alu1 p 1 d a (fun x => x.sshiftRight sh.toNat)) s
def execMinI (p : Pos) (d a : BitVec 5) (imm : BitVec 16) (s : State) : Out :=
  finish p (alu1 p 1 d a (fun x => sMin x (imm16S p imm))) s
def execMaxI (p : Pos) (d a : BitVec 5) (imm : BitVec 16) (s : State) : Out :=
  finish p (alu1 p 1 d a (fun x => sMax x (imm16S p imm))) s
def execMulI (p : Pos) (d a : BitVec 5) (imm : BitVec 16) (s : State) : Out :=
  finish p (alu1 p latMul d a (· * imm16S p imm)) s
def execLih (p : Pos) (d a : BitVec 5) (imm : BitVec 16) (s : State) : Out :=
  finish p (alu1 p 1 d a (fun x => lihOf x imm)) s
def execBfx (p : Pos) (d a : BitVec 5) (len pos : BitVec 6) (s : State) : Out :=
  finish p (alu1 p 1 d a (fun x => bfxOf x pos.toNat (len.toNat + 1))) s

/-- BFI (R144): the old s[d] is read at issue. -/
def execBfi (p : Pos) (d a : BitVec 5) (len pos : BitVec 6) (s : State) : Out :=
  finish p (do
    let x ← readS p 1 p.bypA a
    let o ← readOld p 1 d
    writeS p 1 d (bfiOf o x pos.toNat (len.toNat + 1))) s

end Sys2Proof.Machine
end

