-- ==== Sys2Proof/Machine/Access.lean ====
section
/-! DEFINITION. The core memory path (spec/10): translation (R202 to R205, R320), the chamber window (R12, R13, R186,
R381), the L1 (R189 to R191), far holds (R229), poison (R206), requests to other packages (R311, R314, R322). -/

namespace Sys2Proof.Machine

/-! ## Page tables (R202, R203) -/

/-- A level of the walk: its number, the lowest bit of its index and the index's width. -/
def walkLevels : List (Nat × Nat × Nat) := [(1, 43, 14), (2, 30, 13), (3, 21, 9), (4, 16, 5)]

/-- The bytes a leaf of a level maps. -/
def leafSize (level : Nat) : Nat := if level = 2 then 2 ^ 30 else if level = 3 then 2 ^ 21 else 2 ^ 16

/-- The size and alignment of the table that an entry of a level points to. -/
def tableSize (level : Nat) : Nat := if level = 1 then 2 ^ 16 else if level = 2 then 2 ^ 12 else 2 ^ 8

/-- pte.leaf. -/
def pteLeaf (pte : Word) : Bool := bitAt pte 1
/-- pte.rm. -/
def pteRm (pte : Word) : Bool := bitAt pte 7
/-- pte.dev. -/
def pteDev (pte : Word) : Nat := bits pte 63 54
/-- The physical address of pte.pa. -/
def ptePa (pte : Word) : Nat := bits pte 47 8 * 256

/-- Whether a valid entry is usable at its level (R203). -/
def pteUsable (level : Nat) (pte : Word) : Bool :=
  bitAt pte 0 && bits pte 53 48 == 0 && bits pte 4 2 == 0
  && (pteRm pte || pteDev pte == 0)
  && (!pteRm pte || pteLeaf pte)
  && (level != 1 || !pteLeaf pte) && (level != 4 || pteLeaf pte)
  && ptePa pte % (if pteLeaf pte then leafSize level else tableSize level) == 0

/-- Whether a physical address lies in the multicast window (R14, R320). -/
def isMcast (pa : Nat) : Bool := decide (0xE00000000000 ≤ pa) && decide (pa < 0xE10000000000)

/-- The walk: the entry of each level is read at its L2 home. The answer is the leaf with the bytes it maps, or the
number (0 to 3) of the level that missed. -/
def State.walk (s : State) (agency va : Nat) : List (Nat × Nat × Nat) → Nat → Except Nat (Nat × Word) × State
  | [], _ => (.error 3, s)
  | (lv, lo, w) :: rest, table =>
    let (bs, s) := s.homeRead (table + 8 * (va / 2 ^ lo % 2 ^ w)) 8 .l2 agency
    let pte := w64 (natOfBytes bs)
    if !pteUsable lv pte then (.error (lv - 1), s)
    else if pteLeaf pte then (.ok (leafSize lv, pte), s)
    else s.walk agency va rest (ptePa pte)

/-- A launch by number. -/
def State.launchAt (s : State) (n : Nat) : Option Launch := s.launches.find? (fun l => l.num == n)

/-- The agency of a launch. -/
def State.agencyOf (s : State) (n : Nat) : Nat := match s.launchAt n with
  | some l => l.agency
  | none => 0

/-- Whether a cached leaf covers an address of a launch. -/
def TlbEnt.covers (e : TlbEnt) (launch va : Nat) : Bool :=
  e.launch == launch && decide (e.base ≤ va) && decide (va < e.base + e.size)

/-- Cache a leaf in a TLB of `cap` entries; a full one gives up an entry of its own choice (log 10, DESIGN CHOICE). -/
def tlbInsert {α : Type} (cap choice : Nat) (l : List α) (e : α) : List α :=
  if l.length < cap then e :: l else e :: l.eraseIdx (choice % l.length)

/-- The leaf for an address of a launch, through the TLB of a core (none for an engine of the hub), the chamber's TLB and
the walk (R204). A companion has only the chamber's. -/
def State.leaf (s : State) (core : Option Nat) (launch va : Nat) : Except Nat (Nat × Word) × State :=
  let ch := core.map chamberOf
  let own := match core with
    | some n => if n < 192 then (s.coreAt n).tlb.find? (fun (e : TlbEnt) => e.covers launch va) else none
    | none => none
  match own with
  | some e => (.ok (e.size, e.pte), s)
  | none =>
    let keep := fun (s : State) (e : TlbEnt) => match core with
      | some n => if n < 192 then
          let k := s.coreAt n
          { (s.setCore { k with tlb := tlbInsert 256 (Config.victim s.draw) k.tlb e }) with draw := s.draw + 1 }
        else s
      | none => s
    match s.ctlb.find? (fun (e : Nat × TlbEnt) => some e.1 == ch && e.2.covers launch va) with
    | some e => (.ok (e.2.size, e.2.pte), keep s e.2)
    | none =>
      match s.launchAt launch with
      | none => (.error 0, s)
      | some l =>
        match s.walk l.agency va walkLevels l.root with
        | (.error k, s) => (.error k, s)
        | (.ok (size, pte), s) =>
          let e : TlbEnt := ⟨launch, va / size * size, size, pte⟩
          let s := match ch with
            | some c =>
              let mine := s.ctlb.filter (fun (x : Nat × TlbEnt) => x.1 == c)
              { s with ctlb := tlbInsert 4096 (Config.victim s.draw) mine (c, e) ++ s.ctlb.filter (fun (x : Nat × TlbEnt) => x.1 != c),
                       draw := s.draw + 1 }
            | none => s
          (.ok (size, pte), keep s e)

/-! ## Where an address leads -/

/-- What a virtual address names: the issuing core's scratchpad, a scratchpad of a companion's chamber, a companion's
local memory, memory of this package (`mapped` through a remote leaf of its own), another package, a multicast group. -/
inductive Spot where
  | own (off : Nat)
  | scr (core off : Nat)
  | local_ (off : Nat)
  | mem (pa : Nat) (mapped : Bool)
  | remote (dev pa : Nat)
  | mcast (pa : Nat)
  deriving DecidableEq, Repr

/-- A protection trap at an address (R93). -/
def protTrap (va detail : Nat) : TrapReq := ⟨cProtect, w64 va, w64 detail⟩

/-- The bit a write sets in the detail (R93). -/
def wbit (write : Bool) : Nat := if write then 1 else 0

/-- What a leaf gives (R203, R205, R320). Bit 1 of the detail says that the leaf keeps user mode out; a supervisor's write that only
lacks the write permission leaves it clear (log 126, DESIGN CHOICE). -/
def leafSpot (dev va : Nat) (write sup : Bool) (size : Nat) (pte : Word) : Except TrapReq Spot :=
  let pa := ptePa pte + va % size
  if pteRm pte && isMcast pa && pteDev pte != dev then
    .error ⟨cPage, w64 va, w64 (wbit write + 2 * (if size = 2 ^ 30 then 1 else if size = 2 ^ 21 then 2 else 3))⟩
  else if bitAt pte 6 && !sup then .error (protTrap va (2 + wbit write))
  else if write && !bitAt pte 5 then .error (protTrap va 1)
  else if pteRm pte && isMcast pa then .ok (.mcast pa)
  else if pteRm pte && pteDev pte != dev then .ok (.remote (pteDev pte) pa)
  else if isHbm pa then .ok (.mem pa (pteRm pte))
  else .error (protTrap va (wbit write))

/-- Translate a virtual address above the chamber window for a launch (R202 to R205). -/
def State.translate (s : State) (core : Option Nat) (launch va : Nat) (write sup : Bool) : Except TrapReq Spot × State :=
  if 2 ^ 57 ≤ va then (.error (protTrap va (wbit write)), s)
  else match s.leaf core launch va with
    | (.error lv, s) => (.error ⟨cPage, w64 va, w64 (wbit write + 2 * lv)⟩, s)
    | (.ok (size, pte), s) => (leafSpot s.fab.dev va write sup size pte, s)

/-- The granule run (offset and bytes) of a launch on a core (R186). -/
def State.granules (s : State) (launch core : Nat) : Option (Nat × Nat) :=
  match s.allCtxs.find? (fun c => c.launch == launch && c.core == core && c.status != .free) with
  | some c => some (c.scrBase, c.scrSize)
  | none => (s.saved.find? (fun v => v.ctx.launch == launch && v.ctx.core == core)).map
      (fun v => (v.ctx.scrBase, v.ctx.scrSize))

/-- The scratchpad size of a core (R185). -/
def Core.scrBytes (k : Core) : Nat := 2 ^ 21 - k.l1Size * 2 ^ 17

/-- Whether n bytes at an offset lie in a launch's granules on a core and in its scratchpad. -/
def State.inGranules (s : State) (launch core off n : Nat) : Bool :=
  match s.granules launch core with
  | some (b, z) => decide (b ≤ off) && decide (off + n ≤ b + z) && decide (off + n ≤ (s.coreAt core).scrBytes)
  | none => false

/-- A chamber address of the issuing context (R12, R13, R186, R381). -/
def State.chamberSpot (s : State) (va n : Nat) (write : Bool) : Except TrapReq Spot :=
  let c := s.ctx
  let top := va / 2 ^ 24
  let core := va / 2 ^ 21 % 8
  let off := va % 2 ^ 21
  let bad := protTrap va (4 + wbit write)
  if c.companion then
    if top = 1 then
      (if va / 2 ^ 18 % 64 = 0 ∧ va % 2 ^ 18 + n ≤ 2 ^ 18 then .ok (.local_ (va % 2 ^ 18)) else .error bad)
    else if top = 0 ∧ s.inGranules c.launch (8 * chamberOf c.core + core) off n then
      Except.ok (.scr (8 * chamberOf c.core + core) off)
    else .error bad
  else if top = 0 ∧ core = c.core % 8 ∧ s.inGranules c.launch c.core off n then .ok (.own off)
  else .error bad

/-- What n bytes at an address of the issuing context name; the bytes lie in one page. -/
def State.locate (s : State) (va n : Nat) (write : Bool) : Except TrapReq Spot × State :=
  if va < 2 ^ 32 then (s.chamberSpot va n write, s)
  else s.translate (some s.ctx.core) s.ctx.launch va write s.ctx.sv

/-! ## The L1 (R189, R190, R111) -/

/-- The bytes of a line from `off`, n of them. -/
def lineMask (off n : Nat) : BitVec 128 := BitVec.ofNat 128 ((2 ^ n - 1) * 2 ^ off)

/-- The runs of set bits, as start and length. -/
def maskRuns (m : BitVec 128) : List (Nat × Nat) :=
  ((List.range 128).foldr (fun i acc =>
    if m.getLsbD i then
      match acc with
      | (j, n) :: t => if j = i + 1 then (i, n + 1) :: t else (i, 1) :: acc
      | [] => [(i, 1)]
    else acc) [])

/-- Write back the dirty bytes of a line that a mask selects, at L2 (R110), for an agent: behind a far access of a sector they count as
performed with its acknowledgement (R229). -/
def State.writeBack (s : State) (l : L1Line) (sel : BitVec 128) (agent : Agent) : State :=
  (maskRuns (l.dirty &&& sel)).foldl (fun s r =>
    (s.homeWrite (l.pa + r.1) ((l.data.drop r.1).take r.2) .l2 (s.agencyOf l.launch)).joinFar .l2 (l.pa + r.1) r.2 agent) s

/-- Who writes back the lines of core n: the focus context when it runs there, else the front end. -/
def State.wbAgent (s : State) (n : Nat) : Agent := if n = s.ctx.core then .ctx s.ctx.core s.ctx.slot else .other

/-- Write back and drop the lines of a core's L1 that satisfy a condition. -/
def State.flushCore (s : State) (n : Nat) (which : L1Line → Bool) : State :=
  let k := s.coreAt n
  let s := (k.l1.filter which).foldl (fun s l => s.writeBack l (BitVec.allOnes 128) (s.wbAgent n)) s
  let k := s.coreAt n
  s.setCore { k with l1 := k.l1.filter (fun l => !which l) }

/-- Write back the dirty bytes of lines and keep them clean (REL). -/
def State.cleanCore (s : State) (n : Nat) (which : L1Line → Bool) : State :=
  let k := s.coreAt n
  let s := (k.l1.filter which).foldl (fun s l => s.writeBack l (BitVec.allOnes 128) (s.wbAgent n)) s
  let k := s.coreAt n
  s.setCore { k with l1 := k.l1.map (fun l => if which l then { l with dirty := 0 } else l) }

/-- Whether a line overlaps bytes lo to hi − 1 of the virtual space. -/
def L1Line.overlaps (l : L1Line) (lo hi : Nat) : Bool := decide (lo < 128 * l.line + 128) && decide (128 * l.line < hi)

/-- The line of a launch. -/
def Core.l1Find (k : Core) (launch line : Nat) : Option L1Line :=
  k.l1.find? (fun l => l.launch == launch && l.line == line)

/-- Replace or add a line. -/
def Core.l1Put (k : Core) (l : L1Line) : Core :=
  { k with l1 := l :: k.l1.filter (fun x => !(x.launch == l.launch && x.line == l.line)) }

/-- Write back and drop one line of the focus core. -/
def State.l1Give (s : State) (v : L1Line) : State :=
  let s := s.writeBack v (BitVec.allOnes 128) (s.wbAgent s.ctx.core)
  { s with core := { s.core with l1 := s.core.l1.filter (fun x => !(x.launch == v.launch && x.line == v.line)) } }

/-- Make room for one more line: a full L1 evicts one of its own choice, writing back its dirty bytes (log 10, DESIGN CHOICE). -/
def State.l1Room (s : State) : State :=
  if s.core.l1.length < 1024 * s.core.l1Size then s
  else match chooseFrom s.core.l1 (Config.victim s.draw) with
    | none => s
    | some v => { s.l1Give v with draw := s.draw + 1 }

/-- A line that was allocated under another translation than the access that comes to it goes out, to where its bytes were stored, and
the access uses the new one (R204, R414; log 48, DEDUCED). -/
def State.l1Renew (s : State) (launch va pa : Nat) : State :=
  match s.core.l1Find launch (va / 128) with
  | some l => if l.pa = pa - va % 128 then s else s.l1Give l
  | none => s

/-- The sectors of a line that bytes off to off + n − 1 touch. -/
def lineSectors (off n : Nat) : List Nat :=
  (List.range 4).filter (fun k => decide (off < 32 * k + 32) && decide (32 * k < off + n))

/-- Count an event in the context's counter k (R107). -/
def Ctx.count (c : Ctx) (k n : Nat) : Ctx :=
  { c with perf := c.perf.setIfInBounds k (c.perf.getD k 0 + w64 n) }

/-- Fill the missing bytes of one sector of a line from its L2 home, with its poison (R189, R206); a sector that lacks nothing
is not read. -/
def State.fillSector (s : State) (l : L1Line) (k : Nat) : L1Line × State :=
  if l.valid &&& lineMask (32 * k) 32 = lineMask (32 * k) 32 then (l, s)
  else
    let (bs, s) := s.homeRead (l.pa + 32 * k) 32 .l2 (s.agencyOf l.launch)
    let bad := (s.poisoned (l.pa + 32 * k) 32).isSome
    let data := (List.range 128).map (fun i =>
      if 32 * k ≤ i ∧ i < 32 * k + 32 ∧ !l.valid.getLsbD i then bs.getD (i - 32 * k) 0 else l.data.getD i 0)
    ({ l with data := data, valid := l.valid ||| lineMask (32 * k) 32,
              poison := if bad then l.poison ||| sectorBit k else l.poison &&& ~~~(sectorBit k) }, s)

/-- A `.l1` load of n bytes within one line: the bytes, the lowest poisoned sector met (as a virtual address), whether
it missed. -/
def State.l1Load (s : State) (launch va n pa : Nat) : List Byte × Option Nat × Bool × State :=
  let s := s.l1Renew launch va pa
  let off := va % 128
  let need := lineMask off n
  let found := s.core.l1Find launch (va / 128)
  let l0 : L1Line := found.getD ⟨launch, va / 128, pa - off, List.replicate 128 0, 0, 0, 0⟩
  let hit := l0.valid &&& need == need
  let s := if found.isNone then s.l1Room else s
  let (l, s) := if hit then (l0, s) else
    (lineSectors off n).foldl (fun (acc : L1Line × State) k => acc.2.fillSector acc.1 k) (l0, s)
  let s := { s with core := s.core.l1Put l, ctx := if hit then s.ctx else s.ctx.count 6 1 }
  let bad := (lineSectors off n).find? (fun k => l.poison.getLsbD k)
  ((l.data.drop off).take n, bad.map (fun k => va - off + 32 * k), !hit, s)

/-- A `.l1` store within one line (R189): it allocates without reading memory. -/
def State.l1Store (s : State) (launch va pa : Nat) (bs : List Byte) : State :=
  let s := s.l1Renew launch va pa
  let off := va % 128
  let found := s.core.l1Find launch (va / 128)
  let l : L1Line := found.getD ⟨launch, va / 128, pa - off, List.replicate 128 0, 0, 0, 0⟩
  let s := if found.isNone then s.l1Room else s
  let m := lineMask off bs.length
  let data := l.data.take off ++ bs ++ l.data.drop (off + bs.length)
  let s := if found.isNone then { s with ctx := s.ctx.count 6 1 } else s
  { s with core := s.core.l1Put { l with data := data, valid := l.valid ||| m, dirty := l.dirty ||| m } }

/-- The parts of n bytes at an address that lie within units of `unit` bytes. -/
def cut (unit : Nat) : Nat → Nat → Nat → List (Nat × Nat)
  | 0, _, _ => []
  | fuel + 1, va, n =>
    if n = 0 then []
    else
      let m := Nat.min n (unit - va % unit)
      (va, m) :: cut unit fuel (va + m) (n - m)

/-- A `.l1` load of any length. -/
def State.l1LoadAll (s : State) (launch va n pa : Nat) : List Byte × Option Nat × Bool × State :=
  (cut 128 (n / 128 + 2) va n).foldl (fun (acc : List Byte × Option Nat × Bool × State) c =>
    let (bs, bad, miss, s) := acc
    let (bs', bad', miss', s) := s.l1Load launch c.1 c.2 (pa + (c.1 - va))
    (bs ++ bs', bad.or bad', miss || miss', s)) ([], none, false, s)

/-- A `.l1` store of any length. -/
def State.l1StoreAll (s : State) (launch va pa : Nat) (bs : List Byte) : State :=
  (cut 128 (bs.length / 128 + 2) va bs.length).foldl (fun s c =>
    s.l1Store launch c.1 (pa + (c.1 - va)) ((bs.drop (c.1 - va)).take c.2)) s

/-- Whether the core's own L1 holds a byte of the sectors of an access (R111). -/
def State.l1Holds (s : State) (launch va n : Nat) : Bool :=
  s.core.l1.any (fun l => l.launch == launch && l.overlaps (va / 32 * 32) ((va + n + 31) / 32 * 32)
    && ((List.range 4).any (fun k =>
      decide (va < 128 * l.line + 32 * k + 32) && decide (128 * l.line + 32 * k < va + n)
        && l.valid &&& lineMask (32 * k) 32 != 0)))

/-- The sectors of a line that an access of n bytes at a virtual address touches. -/
def L1Line.touched (l : L1Line) (va n : Nat) : List Nat := (List.range 4).filter (fun k =>
  decide (va < 128 * l.line + 32 * k + 32) && decide (128 * l.line + 32 * k < va + n))

/-- A line without some sectors: their bytes and their poison are gone. -/
def L1Line.without (l : L1Line) (secs : List Nat) : L1Line :=
  secs.foldl (fun l k => { l with valid := l.valid &&& ~~~(lineMask (32 * k) 32), dirty := l.dirty &&& ~~~(lineMask (32 * k) 32),
                                  poison := l.poison &&& ~~~(sectorBit k) }) l

/-- R111: write back and drop the issuing core's own copy of the sectors of an access. -/
def State.dropOwn (s : State) (launch va n : Nat) : State :=
  let mine := fun (l : L1Line) => l.launch == launch && l.overlaps va (va + n)
  let s := (s.core.l1.filter mine).foldl (fun s l =>
    s.writeBack l ((l.touched va n).foldl (fun (m : BitVec 128) k => m ||| lineMask (32 * k) 32) 0) (s.wbAgent s.ctx.core)) s
  let lines := (s.core.l1.map (fun l => if mine l then l.without (l.touched va n) else l)).filter (fun l => l.valid != 0)
  { s with core := { s.core with l1 := lines } }

/-- An uncorrectable SRAM error has come about at a word of a core store (R206): a word of the scratchpad is marked; in the L1's part
it strikes a line, whose sector it marks when that holds a byte. Which place holds which line is the model's choice (log 10, DESIGN
CHOICE). -/
def State.struck (s : State) (u : Upset) : State :=
  let n := u.addr / 2 ^ 21
  let off := u.addr % 2 ^ 21
  let k := s.coreAt n
  let s := s.found .store u.addr
  if !u.hard || decide (off + k.l1Size * 2 ^ 17 < 2 ^ 21) then s
  else
    let i := (off + k.l1Size * 2 ^ 17 - 2 ^ 21) / 128
    let sec := off / 32 % 4
    let s := { s with scrBad := s.scrBad.erase u.addr }
    s.setCore { k with l1 := k.l1.zipIdx.map (fun e =>
      if e.2 = i ∧ e.1.valid &&& lineMask (32 * sec) 32 ≠ 0 then { e.1 with poison := e.1.poison ||| sectorBit sec } else e.1) }

/-! ## The read-only cache (R191) -/

/-- A sector of the read-only cache of a chamber, filled when it misses. The cache holds 8,192 sectors, and a sector is its line
(R191 fills by sectors; R189 gives the line of 128 bytes for the L1 alone; log 107, DESIGN CHOICE). -/
def State.roSector (s : State) (chamber launch sector pa : Nat) : RoLine × State :=
  match s.ro.find? (fun l => l.chamber == chamber && l.launch == launch && l.sector == sector) with
  | some l => (l, s)
  | none =>
    let (bs, s) := s.homeRead pa 32 .l2 (s.agencyOf launch)
    let l : RoLine := ⟨chamber, launch, sector, bs, (s.poisoned pa 32).isSome⟩
    let mine := s.ro.filter (fun x => x.chamber == chamber)
    let rest := s.ro.filter (fun x => x.chamber != chamber)
    (l, { s with ro := tlbInsert 8192 (Config.victim s.draw) mine l ++ rest, draw := s.draw + 1 })

/-- A `.ro` load (R191): bytes, lowest poisoned sector. -/
def State.roLoad (s : State) (chamber launch va n pa : Nat) : List Byte × Option Nat × State :=
  (cut 32 (n / 32 + 2) va n).foldl (fun (acc : List Byte × Option Nat × State) c =>
    let (bs, bad, s) := acc
    let base := c.1 / 32 * 32
    let (l, s) := s.roSector chamber launch (c.1 / 32) (pa + base - va)
    (bs ++ (l.data.drop (c.1 - base)).take c.2, bad.or (if l.poison then some base else none), s)) ([], none, s)

/-! ## Requests to other packages (R311, R314) -/

/-- The next sequence number of a stream towards a device. -/
def State.seqNum (s : State) (stream dst : Nat) : Nat × State :=
  let n := match s.fab.nums.find? (fun e => e.1 == (stream, dst)) with
    | some e => e.2
    | none => 0
  (n % 2 ^ 32, { s with fab := { s.fab with
    nums := ((stream, dst), n + 1) :: s.fab.nums.filter (fun e => e.1 != (stream, dst)) } })

/-- Register a request: it has no response yet and has not been sent (`due` 0). -/
def State.request (s : State) (vc stream dst agency core slot step : Nat) (body : Load) (launch : Nat := 0) : State :=
  let (n, s) := s.seqNum stream dst
  let k : Pkt := ⟨vc, s.fab.dev, dst, stream, n, agency, body⟩
  { s with fab := { s.fab with out := s.fab.out ++ [⟨k, 0, 0, step, core, slot, none, launch⟩] } }

/-- Requests of a stream without a response (R311: at most 4,096). -/
def State.outstanding (s : State) (stream : Nat) : Nat :=
  (s.fab.out.filter (fun o => o.pkt.stream == stream && o.answer.isNone)).length

/-- The stream of a context's mapped accesses; a companion's stream (R311). -/
def Ctx.stream (c : Ctx) : Nat := if c.companion then 6944 + (c.core - 192) else 8 * (4 * c.core + c.slot)

/-- Whether a request is a mapped access of a context. -/
def Outstanding.mappedBy (o : Outstanding) (c : Ctx) : Bool :=
  o.core == c.core && o.slot == c.slot && o.launch == c.launch && o.pkt.stream == c.stream

/-- Forget the answered mapped accesses of the issuing context. -/
def State.forget (s : State) : State :=
  { s with fab := { s.fab with out := s.fab.out.filter (fun o => !(o.mappedBy s.ctx && o.answer.isSome)) } }

/-- The number of a policy in a packet (R22). -/
def Policy.code : Policy → Nat
  | .l1 => 0
  | .l2 => 1
  | .str => 2
  | .far => 3
  | .ro => 4

/-- A mapped access (R314): its request is registered on the first try and answered on a later one. `k` numbers the
accesses of the bundle, `low` is the lowest byte of the whole access (R206). A negative answer traps. -/
def mappedAt (low k dev fabricAddr : Nat) (body : Load) : M (Word × List Byte) := fun s =>
  let c := s.ctx
  match s.fab.out.find? (fun o => o.mappedBy c && o.step == k) with
  | none =>
    .error (.send .access (fun s => s.request 0 c.stream dev c.agency c.core c.slot k body c.launch))
  | some o =>
    match o.answer with
    | none => .error (.wait .access)
    | some (w, bs) =>
      if bits w 53 44 = 0 then .ok ((w, bs), s)
      else if bits w 43 40 = 7 then .error (.trapLog ⟨cPoison, w64 low, w⟩ State.forget)
      else .error (.trapLog ⟨cFabric, w64 fabricAddr, w⟩ State.forget)

/-- A mapped access that is a whole access. -/
def mapped (k dev va fabricAddr : Nat) (body : Load) : M (Word × List Byte) := mappedAt va k dev fabricAddr body

/-- A fabric address (R14). -/
def fabAddr (dev pa : Nat) : Nat := dev * 2 ^ 48 + pa

/-! ## Plans and checks -/

/-- A part of an access: what it names, its virtual address, its bytes. -/
structure Part where
  spot : Spot
  va   : Nat
  n    : Nat
  deriving DecidableEq, Repr

/-- The parts of an access by page, or the fault with the smallest code, the lowest address first (R93). -/
def State.parts (s : State) (write : Bool) : List (Nat × Nat) → Except TrapReq (List Part) × State
  | [] => (.ok [], s)
  | (va, n) :: rest =>
    let (r, s) := s.locate va n write
    let (q, s) := s.parts write rest
    match r, q with
    | .ok sp, .ok ps => (.ok (⟨sp, va, n⟩ :: ps), s)
    | .error e, .ok _ => (.error e, s)
    | .ok _, .error e => (.error e, s)
    | .error e, .error e' => (.error (if e'.cause < e.cause then e' else e), s)

/-- The pages of an access. -/
def pagesOf (va n : Nat) : List (Nat × Nat) := cut 65536 (n / 65536 + 2) va n

/-- The size code of R94 for 1, 2, 4 or 8 bytes. -/
def sizeCode (n : Nat) : Nat := if n = 1 then 0 else if n = 2 then 1 else if n = 4 then 2 else 3

/-- The misalignment trap (R93, R94). -/
def alignTo (va align code : Nat) : M Unit := trapIf (va % align != 0) cAlign (w64 va) (w64 code)

/-- The parts of an aligned access. -/
def planAccess (va n align code : Nat) (write : Bool) : M (List Part) := do
  alignTo va align code
  fun s => match s.parts write (pagesOf va n) with
    | (.ok ps, s) => .ok (ps, s)
    | (.error e, _) => .error (.trap e)

/-- Whether a PHASE window closes a core store: from the cycle after the PHASE on (R188). -/
def Core.closedAt (k : Core) (now : Nat) : Bool := k.phaseEnd.any (fun e => decide (e < now + 2049))

/-- Whether a PHASE window closes the store of core n. -/
def State.closedCore (s : State) (n : Nat) : Bool := (s.coreAt n).closedAt s.now

/-- Whether a PHASE window closes the core store. -/
def State.closed (s : State) : Bool := s.core.closedAt s.now

/-- Whether the policy of an access that acts on local memory looks into the L1: every `.l1` access, and an access whose
sector the L1 holds (R111). -/
def State.looksL1 (s : State) (va n : Nat) (pol : Policy) : Bool :=
  match pol with
  | .l1 => true
  | .ro => false
  | _ => s.l1Holds s.ctx.launch va n

/-- The waits of a part before it is performed (R188): `store` says that a write into another core's store may be held there
instead. -/
def partWaits (pol : Policy) (store : Bool) (q : Part) : M Unit := fun s =>
  match q.spot with
  | .own _ => if s.closed then .error (.wait .phase) else .ok ((), s)
  | .scr core _ => if !store && s.closedCore core then .error (.wait .phase) else .ok ((), s)
  | .mem _ _ => if s.closed && s.looksL1 q.va q.n pol then .error (.wait .phase) else .ok ((), s)
  | _ => .ok ((), s)

/-- The poison-consumed trap at a sector, logged at the stack (R206, R234). -/
def poisonTrap {α : Type} (va pa : Nat) : M α := fun s =>
  .error (.trapLog ⟨cPoison, w64 va, 0⟩ (fun t => t.consumed (pa / 32) (consumer s.ctx.core s.ctx.slot s.ctx.agency)))

/-- The issuing context as an agent. -/
def Ctx.agent (c : Ctx) : Agent := .ctx c.core c.slot

/-! ## Scratchpad bytes on their way (R188, R192, R220) -/

/-- The writes of a core's own contexts that have not reached its scratchpad yet: slot-1 stores and captures. -/
def Core.ownWrites (k : Core) : List ScrWrite := k.later.filter (fun w => match w.agent with
  | .ctx c _ => c == k.id
  | _ => false)

/-- Bytes from offset `off` on, with what a write holds for them. -/
def ScrWrite.over (w : ScrWrite) (off : Nat) (bs : List Byte) : List Byte :=
  bs.zipIdx.map (fun (e : Byte × Nat) =>
    if w.off ≤ off + e.2 ∧ off + e.2 < w.off + w.bytes.length then w.bytes.getD (off + e.2 - w.off) 0 else e.1)

/-- Whether a write covers the 8-byte word at a key of core n's scratchpad whole. -/
def ScrWrite.coversWord (w : ScrWrite) (n key : Nat) : Bool :=
  decide (scrKey n w.off ≤ key) && decide (key + 8 ≤ scrKey n w.off + w.bytes.length)

/-- Bytes of core n's scratchpad as its own slot-1 loads see them: with the stores that are on their way (R128, R192). -/
def State.scrSeen (s : State) (n off len : Nat) : List Byte :=
  (s.coreAt n).ownWrites.foldl (fun bs w => w.over off bs) (s.scrRead n off len)

/-- The poisoned word that such a load meets. -/
def State.seenPoison (s : State) (n off len : Nat) : Option Nat :=
  (scrWords n off len).find? (fun k => s.scrBad.contains k && !(s.coreAt n).ownWrites.any (fun w => w.coversWord n k))

/-- Whether a core's own write is on its way to the n bytes at an offset of its scratchpad. -/
def Core.ownOver (k : Core) (off n : Nat) : Bool :=
  k.ownWrites.any (fun w => decide (w.off < off + n) && decide (off < w.off + w.bytes.length))

/-- The level of a policy (R110). -/
def Policy.level : Policy → Level
  | .str => .str
  | .far => .far
  | _ => .l2

/-- The poison trap at a word of a scratchpad, by its key (R206); `va` is the chamber address of offset `off`. -/
def wordTrap (core off va key : Nat) : TrapReq := ⟨cPoison, w64 (va - off + (key - scrKey core 0)), 0⟩

/-- A read of a scratchpad as it stands: its bytes, or the poison trap. -/
def loadScr (core off va n : Nat) : M (List Byte) := fun s =>
  match s.scrPoisoned core off n with
  | some key => .error (.trap (wordTrap core off va key))
  | none => .ok (s.scrRead core off n, s)

/-- A slot-1 load from the issuing core's scratchpad (R192). -/
def loadOwn (off va n : Nat) : M (List Byte) := fun s =>
  match s.seenPoison s.core.id off n with
  | some key => .error (.trap (wordTrap s.core.id off va key))
  | none => .ok (s.scrSeen s.core.id off n, s)

/-- A load from memory of this package: the bytes and whether they may be late. -/
def loadMem (pol : Policy) (va n pa : Nat) (mp : Bool) : M (List Byte × Bool) := fun s =>
  let launch := s.ctx.launch
  if pol = .l1 ∧ !mp ∧ 0 < s.core.l1Size then
    match s.l1LoadAll launch va n pa with
    | (_, some bad, _, _) => poisonTrap bad (pa + bad - va) s
    | (bs, none, miss, s) => .ok ((bs, miss), s)
  else if pol = .ro ∧ !mp then
    match s.roLoad (chamberOf s.ctx.core) launch va n pa with
    | (_, some bad, _) => poisonTrap bad (pa + bad - va) s
    | (bs, none, s) => .ok ((bs, true), s)
  else
    let s1 := if pol = .l1 ∨ pol = .ro then s else s.dropOwn launch va n
    match s1.poisoned pa n with
    | some sec => poisonTrap (va + 32 * sec - pa) (32 * sec) s
    | none =>
      let r := s1.homeRead pa n pol.level s1.ctx.agency
      .ok ((r.1, true), r.2.joinFar pol.level pa n r.2.ctx.agent)

/-- A load of a part that lies in this package; the truth value says that its data may be late (R146, R88). -/
def loadLocal (pol : Policy) (q : Part) : M (List Byte × Bool) := do
  partWaits pol false q
  match q.spot with
  | .own off => do
    let bs ← loadOwn off q.va q.n
    pure (bs, false)
  | .scr core off => do
    let bs ← loadScr core off q.va q.n
    pure (bs, true)
  | .local_ off => fun s => .ok ((memGetN s.loc (locKey (chamberOf s.ctx.core) off) q.n, false), s)
  | .mem pa mp => loadMem pol q.va q.n pa mp
  | .remote _ _ => pure ([], false)
  | .mcast _ => pure ([], false)

/-- The acknowledgement word of the context, once every multicast store is answered; it is cleared (R325). -/
def takeAck : M Word := fun s =>
  if s.ctx.mcOut != 0 then .error (.wait .access)
  else .ok (s.ctx.ack, { s with ctx := { s.ctx with ack := 0, ackOrd := none } })

/-- Whether a part lies in this package. -/
def Part.here (q : Part) : Bool := match q.spot with
  | .remote _ _ => false
  | .mcast _ => false
  | _ => true

/-- Load the parts of an access in this package; the others answer with nothing. -/
def loadHere (pol : Policy) : List Part → M (List (List Byte) × Bool)
  | [] => pure ([], false)
  | q :: t => do
    let (bs, m) ← if q.here then loadLocal pol q else pure ([], false)
    let (r, m') ← loadHere pol t
    pure (bs :: r, m || m')

/-- Load the parts in other packages, numbered from k, once all that can trap here has been tried (R314); `low` is the lowest
byte of an access of several parts. -/
def loadThere (pol : Policy) (low : Option Nat) : Nat → List (Part × List Byte) → M (List Byte)
  | _, [] => pure []
  | k, (q, bs) :: t => do
    let bs ← match q.spot with
      | .remote dev pa => do
        let (_, r) ← mappedAt (low.getD q.va) k dev (fabAddr dev pa) (.read pa q.n pol.code)
        pure r
      | .mcast _ => do
        let w ← takeAck
        pure (bytesOfNat 8 w.toNat)
      | _ => pure bs
    let r ← loadThere pol low (k + 1) t
    pure (bs ++ r)

/-- A part through a multicast leaf traps unless the access may use one (R322). -/
def noMcast (ok write : Bool) (ps : List Part) : M Unit :=
  match ps.find? (fun q => match q.spot with
    | .mcast _ => !ok
    | _ => false) with
  | some q => trapM cProtect (w64 q.va) (w64 (0x40 + wbit write))
  | none => pure ()

/-- A load's data that may be late: from the clock at which it should land, the core waits for a time of its own (R88,
R146, log 9, DESIGN CHOICE). -/
def lateData (lat : Nat) (late : Bool) : M Unit := fun s =>
  if late then
    let (d, s) := s.drawDelay
    Except.ok ((), { s with ctx := { s.ctx with late := s.ctx.late ++ [(s.ctx.clk + lat, s.now + lat + d)] } })
  else .ok ((), s)

/-- Whether every part lies in the core's own scratchpad or in a companion's local memory (R193, R381). -/
def nearParts (ps : List Part) : Bool := ps.all (fun q => match q.spot with
  | .own _ => true
  | .local_ _ => true
  | _ => false)

/-- A load of n bytes, its requests to other packages numbered from k: the bytes and the latency (R193). -/
def loadFrom (k va n align code : Nat) (pol : Policy) (ldD : Bool) (latNear latFar : Nat) : M (List Byte × Nat) := do
  let ps ← planAccess va n align code false
  noMcast ldD false ps
  let (here, late) ← loadHere pol ps
  let bs ← loadThere pol (some va) k (ps.zip here)
  let lat := if nearParts ps then latNear else latFar
  lateData lat late
  pure (bs, lat)

/-- A load of n bytes that is a whole access. -/
def loadM (va n align code : Nat) (pol : Policy) (ldD : Bool) (latNear latFar : Nat) : M (List Byte × Nat) :=
  loadFrom 0 va n align code pol ldD latNear latFar

/-! ## Stores -/

/-- Bytes of the issuing core's scratchpad, written by slot 1 (or captured): they reach it two real cycles later (R192, R220). -/
def storeOwn (off : Nat) (bs : List Byte) : M Unit :=
  fun s => .ok ((), { s with core := { s.core with later := s.core.later ++ [⟨s.now + 2, off, bs, false, s.ctx.agent⟩] } })

/-- Deliver bytes to a core's scratchpad on behalf of an engine, a companion or another core: held while a PHASE window
closes the store (R188). -/
def State.scrDeliver (s : State) (agent : Agent) (core off : Nat) (bs : List Byte) (bad : Bool := false) : State :=
  let k := s.coreAt core
  match k.phaseEnd with
  | some e =>
    if k.closedAt s.now then s.setCore { k with later := k.later ++ [⟨e, off, bs, bad, agent⟩] }
    else s.scrWrite core off bs bad
  | none => s.scrWrite core off bs bad

/-- The writes of a core's `later` that are due are performed, in their order (R188, R192). -/
def State.scrLand (s : State) : State :=
  let due := s.core.later.filter (fun w => decide (w.due ≤ s.now))
  due.foldl (fun (s : State) w => s.scrWrite s.core.id w.off w.bytes w.poison)
    { s with core := { s.core with later := s.core.later.filter (fun w => !decide (w.due ≤ s.now)) } }

/-- Whether a write of an agent has not reached its scratchpad yet. -/
def State.scrPending (s : State) (agent : Agent) : Bool :=
  (s.core :: s.cores).any (fun k => k.later.any (fun w => w.agent == agent))

/-- Whether every earlier access of the running context is performed at its level. What may still be on its way: a store to a
scratchpad in its two cycles (R192) or held by a PHASE window (R188), an access behind another one's far access (R229), and, when
`far` counts, its own far access without its acknowledgement. -/
def State.settled (s : State) (far : Bool) : Bool :=
  !s.scrPending s.ctx.agent && s.far.all (fun h => h.agent != s.ctx.agent || (h.far && !far))

/-- The step of a multicast store among its context's requests; its mapped accesses count from 0. -/
def mcastStep : Nat := 2 ^ 20

/-- The group that an address of the multicast window names (R320). -/
def mcastGroup (pa : Nat) : Nat := (pa - 0xE00000000000) / 2 ^ 28

/-- The stream of a context's multicast stores (R311). -/
def Ctx.mcastStream (c : Ctx) : Nat := if c.companion then c.stream else c.stream + 7

/-- The next sequence numbers of a stream towards several devices. -/
def State.seqNums (s : State) (stream : Nat) : List Nat → List (Nat × Nat) × State
  | [] => ([], s)
  | d :: t =>
    let (n, s) := s.seqNum stream d
    let (r, s) := s.seqNums stream t
    ((d, n) :: r, s)

/-- Post a multicast store (R311, R322, R323): the request has a sequence number for each member, counted per stream and member (log
19, DESIGN CHOICE). -/
def postMcast (pol : Policy) (pa : Nat) (bs : List Byte) : M Unit := fun s =>
  let g := mcastGroup pa
  let c := s.ctx
  let ms := s.mgMembers g
  let (serves, s) := s.seqNums c.mcastStream (ms.filter (fun m => m != s.fab.dev))
  let s := s.request 0 c.mcastStream (1024 + g) c.agency c.core c.slot mcastStep (.mcast g (pa % 2 ^ 28) ms bs pol.code serves) c.launch
  Except.ok ((), { s with ctx := { s.ctx with mcOut := s.ctx.mcOut + 1 } })

/-- What a store through a multicast leaf is checked for before any of its parts goes anywhere (R314, R322, R325): a valid entry of
the agency that may send, and room among the sixteen unanswered stores. -/
def mcastReady (ps : List Part) : M Unit := fun s =>
  let mc := ps.filterMap (fun q => match q.spot with
    | .mcast pa => some (q.va, mcastGroup pa)
    | _ => none)
  match mc.find? (fun e => !(s.mgValid e.2 && bitAt (s.mgWord e.2 0) 61 && s.mgAgency e.2 == s.ctx.agency)) with
  | some e => .error (.trap ⟨cProtect, w64 e.1, 0x41⟩)
  | none => if !mc.isEmpty && decide (16 < s.ctx.mcOut + mc.length) then .error (.wait .access) else .ok ((), s)

/-- A store into the notify area is a post: every earlier access of its context is performed first (R121, R418). -/
def notifyReady (ps : List Part) : M Unit := fun s =>
  if s.settled false = false ∧ ps.any (fun q => match q.spot with
    | .mem pa _ => (s.notifySector pa).isSome
    | _ => false) then .error (.wait .access)
  else .ok ((), s)

/-- A store to memory of this package (R189, R190, R111); one into the notify area acts as `.l2` (R418). -/
def storeMem (pol : Policy) (va pa : Nat) (mp : Bool) (bs : List Byte) : M Unit := fun s =>
  let pol := if (s.notifySector pa).isSome then Policy.l2 else pol
  if pol = .l1 ∧ !mp ∧ 0 < s.core.l1Size then .ok ((), s.l1StoreAll s.ctx.launch va pa bs)
  else
    let s := if pol = .l1 then s else s.dropOwn s.ctx.launch va bs.length
    let t := s.homeWrite pa bs pol.level s.ctx.agency
    .ok ((), t.joinFar pol.level pa bs.length t.ctx.agent)

/-- Bytes of a companion's local memory. -/
def storeLoc (off : Nat) (bs : List Byte) : M Unit := fun s =>
  .ok ((), { s with loc := memPutN s.loc (locKey (chamberOf s.ctx.core) off) bs })

/-- Bytes of a chamber core's scratchpad, written by a companion. -/
def storeScr (core off : Nat) (bs : List Byte) : M Unit := fun s => .ok ((), s.scrDeliver s.ctx.agent core off bs)

/-- Store a part that lies in this package (R189, R190, R192). -/
def storeLocal (pol : Policy) (q : Part) (bs : List Byte) : M Unit := do
  partWaits pol true q
  match q.spot with
  | .own off => storeOwn off bs
  | .scr core off => storeScr core off bs
  | .local_ off => storeLoc off bs
  | .mem pa mp => storeMem pol q.va pa mp bs
  | .remote _ _ => pure ()
  | .mcast _ => pure ()

/-- The bytes of each part. -/
def partBytes : List Part → List Byte → List (Part × List Byte)
  | [], _ => []
  | q :: t, bs => (q, bs.take q.n) :: partBytes t (bs.drop q.n)

/-- Store the parts in other packages. -/
def storeThere (pol : Policy) : Nat → List (Part × List Byte) → M Unit
  | _, [] => pure ()
  | k, (q, bs) :: t => do
    match q.spot with
    | .remote dev pa => do
      let _ ← mapped k dev q.va (fabAddr dev pa) (.write pa bs pol.code)
      pure ()
    | .mcast pa => postMcast pol pa bs
    | _ => pure ()
    storeThere pol (k + 1) t

/-- Store the parts in this package. -/
def storeHere (pol : Policy) : List (Part × List Byte) → M Unit
  | [] => pure ()
  | (q, bs) :: t => do
    if q.here then storeLocal pol q bs
    storeHere pol t

/-- A store of bytes; `mc` says that it may go through a multicast leaf. -/
def storeM (va align code : Nat) (pol : Policy) (mc : Bool) (bs : List Byte) : M Unit := do
  let ps ← planAccess va bs.length align code true
  noMcast mc true ps
  mcastReady ps
  notifyReady ps
  let qs := partBytes ps bs
  storeHere pol qs
  storeThere pol 0 qs

/-! ## Atomics (R196, R197) -/

/-- The new value of an atomic of n bytes, or none when a CAS fails. -/
def amoNew (op : Nat) (n : Nat) (old y expect : Nat) : Option Nat :=
  let w := 8 * n
  let y := y % 2 ^ w
  match op with
  | 0 => some ((old + y) % 2 ^ w)
  | 1 => some (if sval w old ≤ sval w y then old else y)
  | 2 => some (if sval w old ≤ sval w y then y else old)
  | 3 => some (Nat.min old y)
  | 4 => some (Nat.max old y)
  | 5 => some (old &&& y)
  | 6 => some (old ||| y)
  | 7 => some (old ^^^ y)
  | 8 => some y
  | 9 => if old = expect % 2 ^ w then some y else none
  | _ =>
    let f := if n = 4 then f32 else f64
    some (f.deliver 0 false ((f.decode false old).add 0 (f.decode false y)).1).1

/-- The level of an atomic (R197). -/
def amoLevel (far : Bool) : Level := if far then .far else .l2

/-- An atomic at a local home, in one access (R120, R197): the old value. -/
def State.amoMem (s : State) (pa n op y expect : Nat) (far : Bool) (agency : Nat) : Nat × State :=
  let old := natOfBytes (memGetN s.mem pa n)
  match amoNew op n old y expect with
  | some v => (old, s.homeWrite pa (bytesOfNat n v) (amoLevel far) agency)
  | none => (old, (s.homeRead pa n (amoLevel far) agency).2)

/-- An atomic of the issuing context on memory of this package. -/
def amoMemM (va pa n op : Nat) (far : Bool) (y expect : Word) : M Nat := fun s =>
  let s1 := s.dropOwn s.ctx.launch va n
  match s1.poisoned pa n with
  | some sec => poisonTrap (va + 32 * sec - pa) (32 * sec) s
  | none =>
    let r := s1.amoMem pa n op y.toNat expect.toNat far s1.ctx.agency
    .ok (r.1, r.2.joinFar (amoLevel far) pa n r.2.ctx.agent)

/-- An atomic on bytes that a read gives and a write takes. -/
def amoOn (n op : Nat) (y expect : Word) (bs : List Byte) (write : List Byte → M Unit) : M Nat :=
  match amoNew op n (natOfBytes bs) y.toNat expect.toNat with
  | some v => do
    write (bytesOfNat n v)
    pure (natOfBytes bs)
  | none => pure (natOfBytes bs)

/-- An atomic on the own scratchpad follows the stores on their way to its bytes: it issues once they are written (log 105, DEDUCED). -/
def settleScr (off n : Nat) : M Unit := fun s =>
  if s.core.ownOver off n then .error (.wait .access) else .ok ((), s)

/-- Read a companion's local memory. -/
def loadLoc (off n : Nat) : M (List Byte) := fun s =>
  .ok (memGetN s.loc (locKey (chamberOf s.ctx.core) off) n, s)

/-- An AMO of the issuing context: the old value and its latency (R193, R196 to R198). -/
def amoM (va n op : Nat) (far : Bool) (y expect : Word) : M (Nat × Nat) := do
  let ps ← planAccess va n n (sizeCode n) true
  noMcast false true ps
  match ps with
  | [] => pure (0, 12)
  | q :: _ => do
    partWaits (if far then .far else .l2) false q
    match q.spot with
    | .own off => do
      let c ← getCtx
      settleScr off n
      let bs ← loadScr c.core off va n
      let old ← amoOn n op y expect bs (storeScr c.core off)
      pure (old, 8)
    | .scr core off => do
      let bs ← loadScr core off va n
      let old ← amoOn n op y expect bs (storeScr core off)
      pure (old, 12)
    | .local_ off => do
      let bs ← loadLoc off n
      let old ← amoOn n op y expect bs (storeLoc off)
      pure (old, 8)
    | .mem pa _ => do
      let old ← amoMemM va pa n op far y expect
      lateData 12 true
      pure (old, 12)
    | .remote dev pa => do
      let (_, bs) ← mapped 0 dev va (fabAddr dev pa) (.amo pa op n far y expect)
      pure (natOfBytes bs, 12)
    | .mcast _ => pure (0, 12)

end Sys2Proof.Machine
end

