-- ==== Sys2Proof/Machine/SyncObj.lean ====
section
/-! DEFINITION. Sync objects: ACQ, REL and what shares them (spec/06 R114 to R118; spec/19 R341), fences (R119). -/

namespace Sys2Proof.Machine

/-! ## Records (R114) -/

/-- The owner fields of a lock word: device, core, context. -/
def ownerBits (w : Word) : Nat := bits w 31 12

/-- Whether a record of four words is a valid sync object. -/
def soValid (ws : List Word) : Bool :=
  let l := ws.getD 0 0
  let base := (ws.getD 2 0).toNat
  let len := (ws.getD 3 0).toNat
  bits l 62 48 == 0 && bits l 11 0 == 0
  && (bitAt l 63 || ownerBits l == 0)
  && (!bitAt l 63 || bits l 47 32 == 0)
  && decide (base < 2 ^ 57) && base % 128 == 0
  && decide (len < 2 ^ 40) && len % 128 == 0 && decide (base + len ≤ 2 ^ 57)

/-- cat(device, core, ctx). -/
def ownerOf (dev core slot : Nat) : Nat := dev * 2 ^ 10 + core * 4 + slot

/-- The kinds of attempt on a record. -/
inductive SoOp where
  | acqX | acqS | rel
  deriving DecidableEq, Repr

/-- The number of an attempt in a request to another package (log 16, DESIGN CHOICE). -/
def SoOp.code : SoOp → Nat
  | .acqX => 1
  | .acqS => 2
  | .rel => 3

/-- Whether an attempt by `me` on a valid record is refused as R116 says: the protection of bit 3. -/
def soRefused (op : SoOp) (me : Nat) (l : Word) : Bool :=
  match op with
  | .rel => (bitAt l 63 && ownerBits l != me) || (!bitAt l 63 && bits l 47 32 == 0)
  | _ => bitAt l 63 && ownerBits l == me

/-- Whether an attempt is granted. -/
def soGranted (op : SoOp) (l : Word) : Bool :=
  match op with
  | .acqX => !bitAt l 63 && bits l 47 32 == 0
  | .acqS => !bitAt l 63 && decide (bits l 47 32 < 65535)
  | .rel => true

/-- The lock word and the version after a granted attempt. -/
def soAfter (op : SoOp) (me : Nat) (l v : Word) : Word × Word :=
  match op with
  | .acqX => (w64 (2 ^ 63 + me * 2 ^ 12), v)
  | .acqS => (l + w64 (2 ^ 32), v)
  | .rel => (if bitAt l 63 then 0 else l - w64 (2 ^ 32), v + 1)

/-- One attempt at the record's home, in one step: the words as they were, and the state. A record that is invalid, refused
or not granted is left as it is. -/
def State.soAttempt (s : State) (op : SoOp) (me pa agency : Nat) : List Word × State :=
  let (bs, s) := s.homeRead pa 32 .l2 agency
  let ws := wordsOfBytes 4 bs
  let l := ws.getD 0 0
  if soValid ws && !soRefused op me l && soGranted op l then
    let (l', v') := soAfter op me l (ws.getD 1 0)
    (ws, s.homeWrite pa (bytesOfWords (match op with
      | .rel => [l', v']
      | _ => [l'])) .l2 agency)
  else (ws, s)

/-! ## Settling (R116, R119, R121) -/

/-- Wait until earlier accesses are performed. -/
def settle (far : Bool) : M Unit := fun s => if s.settled far then .ok ((), s) else .error (.wait .drain)

/-- A write-back of the L1, which must be performed before what follows it: where `done` says that it is not, it has been made and the
rest is waited for. -/
def performed (done : State → Bool) (f : M Unit) : M Unit := fun s => match f s with
  | .ok (_, t) => if done t then .ok ((), t) else .error (.send .drain (fun s => match f s with
    | .ok (_, t) => t
    | .error _ => s))
  | .error e => .error e

/-- A write-back that a fence or a REL makes: everything before it is performed, a part that stands behind a far access too (R119,
R229). -/
def drained (f : M Unit) : M Unit := performed (fun t => t.settled false) f

/-- Whether nothing of the running context stands behind a far access (R229). -/
def State.farClear (s : State) : Bool := s.far.all (fun h => h.agent != s.ctx.agent || h.far)

/-- Wait while a PHASE window keeps the L1 from being looked into (R188). -/
def needL1 : M Unit := fun s => if s.closed && 0 < s.core.l1.length then .error (.wait .phase) else .ok ((), s)

/-! ## Locating a record (R118) -/

/-- Where the record of an object lies: in this package or in another (log 16, DESIGN CHOICE). -/
inductive Home where
  | here (pa : Nat)
  | there (dev pa : Nat)
  deriving DecidableEq, Repr

/-- The checks of R118 on an object's address. -/
def objHome (va : Nat) : M Home := do
  alignTo va 32 5
  trapIf (decide (va < 2 ^ 32)) cProtect (w64 va) 5
  fun s => match s.locate va 32 true with
    | (.error e, _) => .error (.trap e)
    | (.ok (.mem pa _), s) => .ok (.here pa, s)
    | (.ok (.remote dev pa), s) => .ok (.there dev pa, s)
    | (.ok _, _) => .error (.trap ⟨cProtect, w64 va, 0x41⟩)

/-- The issuing core's access of a record at L2: its own L1 copy of the record's sectors goes out first (R111), poison is consumed, and
behind a far access it counts as performed with that one's acknowledgement (R229). -/
def recordAt {α : Type} (va pa : Nat) (f : State → α × State) : M α := fun s =>
  let s1 := s.dropOwn s.ctx.launch va 32
  match s1.poisoned pa 32 with
  | some sec => poisonTrap va (32 * sec) s
  | none =>
    let r := f s1
    .ok (r.1, r.2.joinFar .l2 pa 32 s.ctx.agent)

/-- One attempt on a record of this package. -/
def soHere (op : SoOp) (va pa : Nat) : M (List Word) :=
  recordAt va pa (fun s => s.soAttempt op (ownerOf s.fab.dev s.ctx.core s.ctx.slot) pa s.ctx.agency)

/-- This package's device number. -/
def thisDev : M Nat := fun s => .ok (s.fab.dev, s)

/-- One attempt of the issuing context: the words of the record as it read them. -/
def soTry (op : SoOp) (va : Nat) (h : Home) : M (List Word) := do
  match h with
  | .here pa => soHere op va pa
  | .there dev pa => do
    let c ← getCtx
    let d ← thisDev
    let (_, bs) ← mapped 0 dev va (fabAddr dev pa) (.other [w64 op.code, w64 pa, w64 (ownerOf d c.core c.slot)])
    pure (wordsOfBytes 4 bs)

/-- The region of a record as byte bounds. -/
def soRegion (ws : List Word) : Nat × Nat := ((ws.getD 2 0).toNat, (ws.getD 2 0).toNat + (ws.getD 3 0).toNat)

/-- Whether a line of the launch overlaps a record's region. -/
def soCovers (launch : Nat) (ws : List Word) (x : L1Line) : Bool :=
  x.launch == launch && decide ((soRegion ws).1 < (soRegion ws).2) && x.overlaps (soRegion ws).1 (soRegion ws).2

/-- A freeze of a length the spec leaves open stands before the next bundle (log 9, DESIGN CHOICE). -/
def freezeAfter : M Unit := fun s =>
  let r := s.drawDelay
  .ok ((), { r.2 with ctx := { r.2.ctx with late := r.2.ctx.late ++ [(s.ctx.clk + 1, s.now + 1 + r.1)] } })

/-- The protection of bit 3 (R116, R118). -/
def ownerCheck (op : SoOp) (va : Word) (ws : List Word) : M Unit := fun s =>
  if soRefused op (ownerOf s.fab.dev s.ctx.core s.ctx.slot) (ws.getD 0 0) then .error (.trap ⟨cProtect, va, 8⟩)
  else .ok ((), s)

/-- An attempt that was not granted waits; a request to another package is made again. -/
def grantCheck (op : SoOp) (h : Home) (ws : List Word) : M Unit := fun s =>
  if soGranted op (ws.getD 0 0) then .ok ((), s)
  else match h with
    | .here _ => .error (.wait .acquire)
    | .there _ _ => .error (.send .access State.forget)

/-- Write back and drop the region's lines (ACQ). -/
def dropRegion (ws : List Word) : M Unit := fun s => .ok ((), s.flushCore s.ctx.core (soCovers s.ctx.launch ws))

/-- Write back the region's lines, which stay valid and clean (REL). -/
def cleanRegion (ws : List Word) : M Unit := fun s => .ok ((), s.cleanCore s.ctx.core (soCovers s.ctx.launch ws))

/-- ACQ.x and ACQ.s (R116). -/
def acqM (op : SoOp) (p : Pos) (a : BitVec 5) : M Unit := do
  let va ← readS p 1 p.bypA a
  needL1
  let h ← objHome va.toNat
  let ws ← soTry op va.toNat h
  trapIf (!soValid ws) cFormat va 0
  ownerCheck op va ws
  grantCheck op h ws
  dropRegion ws
  freezeAfter

/-- The record of an object before a REL: its region goes out before its lock word changes. -/
def relPeek (va : Nat) (h : Home) : M (List Word) :=
  match h with
  | .here pa => fun s =>
    let s1 := s.dropOwn s.ctx.launch va 32
    match s1.poisoned pa 32 with
    | some sec => poisonTrap va (32 * sec) s
    | none => .ok (wordsOfBytes 4 (memGetN s1.mem pa 32), s1)
  | .there dev pa => do
    let (_, bs) ← mapped 1 dev va (fabAddr dev pa) (.read pa 32 1)
    pure (wordsOfBytes 4 bs)

/-- The attempt of a REL: to another package it leaves with the region's write-back done. -/
def relTry (va : Nat) (h : Home) (before : List Word) : M (List Word) := fun s =>
  match soTry .rel va h s with
  | .error (.send _ f) => .error (.send .access (fun s => f (if soValid before then
      s.cleanCore s.ctx.core (soCovers s.ctx.launch before) else s)))
  | r => r

/-- REL (R116). -/
def relM (p : Pos) (a : BitVec 5) : M Unit := do
  settle false
  let va ← readS p 1 p.bypA a
  needL1
  let h ← objHome va.toNat
  let before ← relPeek va.toNat h
  (if soValid before then drained (cleanRegion before) else pure ())
  let ws ← relTry va.toNat h before
  trapIf (!soValid ws) cFormat va 0
  ownerCheck .rel va ws
  cleanRegion ws
  freezeAfter

/-! ## Fences (R119) -/

/-- Write back and invalidate the whole L1 of the running context's core. -/
def dropL1 : M Unit := fun s => .ok ((), s.flushCore s.ctx.core (fun _ => true))

end Sys2Proof.Machine
end

