-- ==== Sys2Proof/Machine/Branch.lean ====
section
/-! DEFINITION. Branches, jumps, modulo loops (spec/07 R148 to R154) and the window slides of CALL and RET with their
spills and fills (R137 to R140). How the PC queue advances (R150) is in Issue.lean; an operation here only says how it
steers the queue. -/

namespace Sys2Proof.Machine

/-! ## Steering -/

/-- The checks of a taken target (R149). -/
def checkTarget (t : Int) : M Unit := fun s =>
  let ta : Word := BitVec.ofInt 64 t
  if t % 16 != 0 then .error (.trap ⟨cAlign, ta, 6⟩)
  else if t < 0 ∨ 0x3FFF0 < t ∨ (s.ctx.imSize : Int) ≤ t then .error (.trap ⟨cProtect, ta, 0⟩)
  else .ok ((), s)

/-- The bundle's branch is taken to a checked target (R150). -/
def goTo (t : Int) : M Unit := modCtx (fun c => { c with steer := { c.steer with target := some t.toNat } })

/-- The two bundles that follow are annulled (R150). -/
def annulIf (b : Bool) : M Unit := modCtx (fun c => { c with steer := { c.steer with annul := b } })

/-- Whether the annul field of a branch annuls: 01 `.an` when not taken, 10 `.at` when taken (R36, R150). -/
def annuls (an : BitVec 2) (taken : Bool) : Bool := (an == 1 && !taken) || (an == 2 && taken)

/-- A conditional branch by a displacement of 11 bits (R148). -/
def branchM (taken : Bool) (an : BitVec 2) (disp : BitVec 11) : M Unit := do
  let c ← getCtx
  let t := dispTarget c.q0 11 disp.toNat
  (if taken then checkTarget t else pure ())
  (if taken then goTo t else pure ())
  annulIf (annuls an taken)

def execBr (p : Pos) (a b : BitVec 5) (cc : BitVec 3) (annul : BitVec 2) (disp : BitVec 11) (s : State) : Out :=
  finish p (do
    let x ← readS p 1 p.bypA a
    let y ← readS p 1 p.bypB b
    branchM (cond cc x y) annul disp) s

def execBrp (p : Pos) (pr : BitVec 5) (cc : BitVec 3) (annul : BitVec 2) (disp : BitVec 11) (s : State) : Out :=
  finish p (do
    let v ← readPred (BitVec.ofNat 4 pr.toNat)
    branchM (v.getLsbD 0 == (cc == 0)) annul disp) s

/-- BRL (R153): the updates take effect for bundles issued at t + 3 and later; `lc`, `ec`, `vrb` and p8 to p15 are read at
issue (R5, log 29, DEDUCED). -/
def execBrl (p : Pos) (annul : BitVec 2) (disp : BitVec 11) (s : State) : Out :=
  finish p (do
    let c ← getCtx
    let byLc := decide (0 < c.lc.toNat)
    let byEc := decide (1 < c.ec.toNat)
    branchM (byLc || byEc) annul disp
    (if byLc then pushState p 3 .brl (.brl true (c.lc - 1) (c.vrb - 1) (c.rotated true))
     else if byEc then pushState p 3 .brl (.brl false (c.ec - 1) (c.vrb - 1) (c.rotated false))
     else pure ())) s

/-- LOOP (R152). -/
def execLoop (p : Pos) (a b : BitVec 5) (s : State) : Out :=
  finish p (do
    let x ← readS p 1 p.bypA a
    let y ← readS p 1 p.bypB b
    pushState p 1 .loop (.loop x y)) s

def execJ (p : Pos) (disp : BitVec 26) (s : State) : Out :=
  finish p (do
    let c ← getCtx
    let t := dispTarget c.q0 26 disp.toNat
    checkTarget t
    goTo t) s

def execJr (p : Pos) (a : BitVec 5) (s : State) : Out :=
  finish p (do
    let x ← readS p 1 p.bypA a
    checkTarget x.toNat
    goTo x.toNat) s

/-! ## Spills and fills (R138 to R140) -/

/-- A fault of the i-th access becomes the window spill fault, with what the transfer has done so far (R140). -/
def spillFault (fill : Bool) (i va : Nat) (r : TrapReq) : TrapReq :=
  ⟨cSpill, w64 va, w64 ((if fill then 1 else 0) + 2 * i + 2 ^ 8 * r.cause.toNat)⟩

/-- Run an access of a transfer. -/
def spillAccess {α : Type} (fill : Bool) (i va : Nat) (m : M α) : M α := fun s =>
  match m s with
  | .error (.trap r) => .error (.trapIn (spillFault fill i va r) s)
  | .error (.trapLog r f) => .error (.trapIn (spillFault fill i va r) (f s))
  | .error (.trapIn r s') => .error (.trapIn (spillFault fill i va r) s')
  | r => r

/-- One `.l1` load of a transfer; `k` numbers it among the mapped accesses of the bundle (R314). -/
def fillLoad (k va : Nat) : M Word := do
  let ps ← planAccess va 8 8 3 false
  noMcast false false ps
  let (here, _) ← loadHere .l1 ps
  let bs ← loadThere .l1 none k (ps.zip here)
  pure (w64 (natOfBytes bs))

/-- One `.l1` store of a transfer. -/
def spillStore (k va : Nat) (w : Word) : M Unit := do
  let ps ← planAccess va 8 8 3 true
  noMcast false true ps
  let qs := partBytes ps (bytesOfNat 8 w.toNat)
  storeHere .l1 qs
  storeThere .l1 k qs

/-- The stores of a spill from index i on. -/
def spillWords : Nat → Nat → M Unit
  | 0, _ => pure ()
  | n + 1, i => do
    let c ← getCtx
    let va := (c.wsp + w64 (8 * i)).toNat
    spillAccess false i va (spillStore (1000 + i) va (c.win.getD i 0))
    spillWords n (i + 1)

/-- The loads of a fill from index i on. -/
def fillWords : Nat → Nat → M Unit
  | 0, _ => pure ()
  | n + 1, i => do
    let c ← getCtx
    let va := (c.wsp - 256 + w64 (8 * i)).toNat
    let w ← spillAccess true i va (fillLoad (1000 + i) va)
    modCtx (fun c => { c with win := c.win.setIfInBounds (96 + i) w })
    fillWords n (i + 1)

/-- The rotation of a spill: position j moves to (j − 32) mod 128, every base falls by 32. A base stands modulo 128 as its positions do:
a pending one of the task may fall below 0 in a handler's spill and comes back with its fill. -/
def Ctx.spilled (c : Ctx) : Ctx :=
  { (c.rotateStack (fun j => (j + 96) % 128) (fun j => (j + 32) % 128) (fun b => (b + 96) % 128)) with
    wsp := c.wsp + 256, cursor := 0 }

/-- The rotation of a fill. -/
def Ctx.filled (c : Ctx) : Ctx :=
  { (c.rotateStack (fun j => (j + 32) % 128) (fun j => (j + 96) % 128) (fun b => (b + 32) % 128)) with
    wsp := c.wsp - 256, cursor := 0 }

/-- A spill (R138), from the cursor. -/
def spillM : M Unit := do
  let c ← getCtx
  spillWords (32 - c.cursor) c.cursor
  modCtx Ctx.spilled

/-- A fill (R138), from the cursor. -/
def fillM : M Unit := do
  let c ← getCtx
  fillWords (32 - c.cursor) c.cursor
  modCtx Ctx.filled

/-- The state after a transfer: its requests to other packages are done with, and the core is frozen for the time the transfer takes, which
is open (log 9, DESIGN CHOICE). -/
def State.transferred (t : State) : State :=
  let r := t.forget.drawDelay
  { r.2 with ctx := { r.2.ctx with late := r.2.ctx.late ++ [(r.2.ctx.clk, r.2.now + 1 + r.1)] } }

/-- A transfer runs before its CALL or RET issues, in program order before the whole bundle (R138): it is done in a cycle of its own, and
the bundle comes after it, with room in the window. -/
def transferFirst (m : M Unit) : M Unit := fun s =>
  match m s with
  | .error e => .error e
  | .ok _ => .error (.send .access (fun s => match m s with
    | .ok (_, t) => t.transferred
    | .error _ => s))

/-- A spill, when the frame of a CALL does not fit above the base. -/
def spillFor (f : Nat) : M Unit := do
  let c ← getCtx
  (if 112 < c.wnext + f then transferFirst spillM else pure ())

/-- A fill, when the frame of a RET reaches below position 0. -/
def fillFor (f : Nat) : M Unit := do
  let c ← getCtx
  (if c.wnext < f then transferFirst fillM else pure ())

/-! ## CALL, CALLR and RET (R137) -/

/-- The return address goes to the callee's s8; the base is B + f for bundles issued at t + 3 and later. -/
def slideUp (p : Pos) (f : Nat) : M Unit := fun s =>
  let c := s.ctx
  let s := s.push p 1 (.scalar (128 + (c.wnext + f))) (.word (w64 (c.q0.addr + 48)))
  let s := s.push p 3 .wbase (.base (c.wnext + f)) 0 true false
  .ok ((), { s with ctx := { s.ctx with wnext := c.wnext + f } })

/-- The base is B − f for bundles issued at t + 3 and later. -/
def slideDown (p : Pos) (f : Nat) : M Unit := fun s =>
  let c := s.ctx
  let s := s.push p 3 .wbase (.base (c.wnext - f)) 0 true false
  .ok ((), { s with ctx := { s.ctx with wnext := c.wnext - f } })

def execCall (p : Pos) (frame : BitVec 5) (disp : BitVec 21) (s : State) : Out :=
  finish p (do
    let c ← getCtx
    let t := dispTarget c.q0 21 disp.toNat
    checkTarget t
    spillFor frame.toNat
    slideUp p frame.toNat
    goTo t) s

def execCallr (p : Pos) (a frame : BitVec 5) (s : State) : Out :=
  finish p (do
    let x ← readS p 1 p.bypA a
    checkTarget x.toNat
    spillFor frame.toNat
    slideUp p frame.toNat
    goTo x.toNat) s

def execRet (p : Pos) (frame : BitVec 5) (s : State) : Out :=
  finish p (do
    let x ← readS p 1 false 8
    checkTarget x.toNat
    fillFor frame.toNat
    slideDown p frame.toNat
    goTo x.toNat) s

end Sys2Proof.Machine
end

