-- ==== Sys2Proof/Machine/Engine.lean ====
section
/-! DEFINITION. Accesses that engines make for a launch (spec/06 R122; spec/11 R210, R212; spec/17 R311, R314): virtual memory
at its L2 home or in another package, scratchpads of a chamber. -/

namespace Sys2Proof.Machine

/-- Why an engine's access is not performed: a fault (with the log entry it makes), an answer or a PHASE window it waits
for (with the request that leaves). -/
inductive EStop where
  | fault (r : TrapReq) (log : State → State)
  | pend (f : State → State)

/-- An access of an engine. -/
abbrev E := StateT State (Except EStop)

/-- Who makes an access: the core whose TLB translates (or the hub), a key that tells the engine's requests apart, the
stream of its requests (R311), the launch and agency it acts for, the context that gave the work, how its accesses on their way are
named, whether it may touch supervisor pages (R347). -/
structure Who where
  core   : Option Nat
  key    : Nat
  stream : Nat
  launch : Nat
  agency : Nat
  slot   : Nat := 0
  agent  : Agent := .other
  sup    : Bool := false
  deriving DecidableEq, Repr

/-- An access faults. -/
def faultE {α : Type} (r : TrapReq) : E α := fun _ => .error (.fault r id)

/-- Where a virtual address outside the chamber window leads an engine. -/
def engLocate (w : Who) (va : Nat) (write : Bool) : E Spot := fun s =>
  if va < 2 ^ 32 then .error (.fault (protTrap va (4 + wbit write)) id)
  else match s.translate w.core w.launch va write w.sup with
    | (.ok sp, s) => .ok (sp, s)
    | (.error e, _) => .error (.fault e id)

/-- The core number that keys the requests of an engine. -/
def Who.coreKey (w : Who) : Nat := w.core.getD 255

/-- Poison met by an engine at a home (R206, R234). -/
def State.engPoison (s : State) (w : Who) (pa : Nat) : State :=
  s.consumed (pa / 32) (consumer w.coreKey w.slot w.agency)

/-- A request of an engine to another package (R311, R314): sent on the first try, answered on a later one. -/
def engMapped (w : Who) (k dev va fabricAddr : Nat) (body : Load) : E (Word × List Byte) := fun s =>
  match s.fab.out.find? (fun o => o.core == w.coreKey && o.slot == w.key && o.pkt.stream == w.stream && o.step == k) with
  | none => .error (.pend (fun s => s.request 0 w.stream dev w.agency w.coreKey w.key k body))
  | some o =>
    match o.answer with
    | none => .error (.pend id)
    | some (r, bs) =>
      if bits r 53 44 = 0 then .ok ((r, bs), s)
      else if bits r 43 40 = 7 then .error (.fault ⟨cPoison, w64 va, r⟩ id)
      else .error (.fault ⟨cFabric, w64 fabricAddr, r⟩ id)

/-- The core number of a request whose answer nothing waits for. -/
def orphanCore : Nat := 256

/-- The answered request k of an engine is done with. -/
def State.engForgetStep (s : State) (w : Who) (k : Nat) : State :=
  { s with fab := { s.fab with out := s.fab.out.filter (fun o =>
      !(o.core == w.coreKey && o.slot == w.key && o.pkt.stream == w.stream && o.step == k && o.answer.isSome)) } }

/-- The answered requests of an engine are done with. -/
def State.engForget (s : State) (w : Who) : State :=
  { s with fab := { s.fab with out := s.fab.out.filter (fun o =>
      !(o.core == w.coreKey && o.slot == w.key && o.pkt.stream == w.stream && o.answer.isSome)) } }

/-- Whether the engine accesses of a key all have their answers. -/
def State.answeredAll (s : State) (key : Nat) : Bool :=
  s.fab.out.all (fun o => !(o.core == 255 && o.slot == key && o.answer.isNone))

/-- Read n bytes of virtual memory within one page. -/
def engRead (w : Who) (k va n : Nat) : E (List Byte) := do
  let sp ← engLocate w va false
  match sp with
  | .mem pa _ => fun s =>
    match s.poisoned pa n with
    | some sec => .error (.fault ⟨cPoison, w64 (va + 32 * sec - pa), 0⟩ (fun s => s.engPoison w (32 * sec)))
    | none =>
      let r := s.homeRead pa n .l2 w.agency
      .ok (r.1, r.2.joinFar .l2 pa n w.agent)
  | .remote dev pa => do
    let (_, bs) ← engMapped w k dev va (fabAddr dev pa) (.read pa n 1)
    pure bs
  | .mcast _ => faultE (protTrap va 0x40)
  | _ => faultE (protTrap va 4)

/-- Whether the front end makes an access (R311). -/
def Who.frontEnd (w : Who) : Bool := decide (w.stream = 6928)

/-- Write bytes of virtual memory within one page; the front end's own writes report nothing (R400). -/
def engWrite (w : Who) (k va : Nat) (bs : List Byte) : E Unit := do
  let sp ← engLocate w va true
  match sp with
  | .mem pa _ => fun s => .ok ((), (s.homeWrite pa bs .l2 w.agency w.frontEnd).joinFar .l2 pa bs.length w.agent)
  | .remote dev pa => do
    let _ ← engMapped w k dev va (fabAddr dev pa) (.write pa bs 1)
    pure ()
  | .mcast _ => faultE (protTrap va 0x41)
  | _ => faultE (protTrap va 5)

/-- A scratchpad access of a launch on a chamber's core, by chamber address (R12, R186): the core and offset. -/
def engScr (w : Who) (chamber ca n : Nat) (write : Bool) : E (Nat × Nat) := fun s =>
  let core := 8 * chamber + ca / 2 ^ 21 % 8
  let off := ca % 2 ^ 21
  if ca / 2 ^ 24 = 0 ∧ s.inGranules w.launch core off n then .ok ((core, off), s)
  else .error (.fault (protTrap ca (4 + wbit write)) id)

/-- Read n bytes of a scratchpad; a store that a PHASE window closes is waited for. -/
def engScrRead (w : Who) (chamber ca n : Nat) : E (List Byte) := do
  let (core, off) ← engScr w chamber ca n false
  fun s =>
    if s.closedCore core then .error (.pend id)
    else match s.scrPoisoned core off n with
      | some key => .error (.fault (wordTrap core off ca key) id)
      | none => .ok (s.scrRead core off n, s)

/-- Write bytes of a scratchpad (R188). -/
def engScrWrite (w : Who) (chamber ca : Nat) (bs : List Byte) (bad : Bool := false) : E Unit := do
  let (core, off) ← engScr w chamber ca bs.length true
  fun s => .ok ((), s.scrDeliver w.agent core off bs bad)

/-! ## Reductions (R212) -/

/-- The reduced element: destination x, source y, of n bytes in a format. -/
def redCode (red fmt n x y : Nat) : Nat :=
  let w := 8 * n
  if fmt = 10 then
    let nan := fun (c : Nat) => (f32.decode false c).isNan
    if red = 1 then (f32.deliver 0 false ((f32.decode false x).add 0 (f32.decode false y)).1).1
    else if nan x || nan y then 0x7FC00000
    else if red = 2 then (if f32.key false x ≤ f32.key false y then x else y)
    else (if f32.key false x ≤ f32.key false y then y else x)
  else
    let val := fun (c : Nat) => if fmt = 3 ∨ fmt = 4 then sval w c else ((c % 2 ^ w : Nat) : Int)
    match red with
    | 1 => (x + y) % 2 ^ w
    | 2 => if val x ≤ val y then x else y
    | 3 => if val x ≤ val y then y else x
    | 4 => x &&& y
    | _ => x ||| y

/-- A reduction at a home of this package, in one step (R120). -/
def State.redAt (s : State) (pa red fmt : Nat) (bs : List Byte) (agency : Nat) : State :=
  s.homeWrite pa (bytesOfNat bs.length (redCode red fmt bs.length (natOfBytes (memGetN s.mem pa bs.length)) (natOfBytes bs)))
    .l2 agency

/-- A reduction on virtual memory. -/
def engReduce (w : Who) (k va red fmt : Nat) (bs : List Byte) : E Unit := do
  let sp ← engLocate w va true
  match sp with
  | .mem pa _ => fun s =>
    match s.poisoned pa bs.length with
    | some sec => .error (.fault ⟨cPoison, w64 (va + 32 * sec - pa), 0⟩ (fun s => s.engPoison w (32 * sec)))
    | none => .ok ((), (s.redAt pa red fmt bs w.agency).joinFar .l2 pa bs.length w.agent)
  | .remote dev pa => do
    let _ ← engMapped w k dev va (fabAddr dev pa) (.reduce pa red fmt bs)
    pure ()
  | .mcast _ => faultE (protTrap va 0x41)
  | _ => faultE (protTrap va 5)

end Sys2Proof.Machine
end

