-- ==== Sys2Proof/Machine/Sync.lean ====
section
/-! DEFINITION. The sync slot (spec/08): flags and posts (R163 to R167), groups and barriers (R168 to R177), monitors (R178
to R180). -/

namespace Sys2Proof.Machine

/-! ## Posts (R164 to R166) -/

/-- Deliver a post by a target word (R165): a launch of another agency is discarded and logged. -/
def State.postTarget (s : State) (launch core agency flag n : Nat) (target : Word) : State :=
  if bitAt target 40 then
    let l := bits target 39 8
    if (s.launchAt l).any (fun x => x.agency == agency) then s.postFlag l (bits target 7 0) flag n
    else s.report 4 (w64 (launch * 256 + core))
  else s.postFlag launch (bits target 7 0) flag n

/-- What a queued post of the focus context does. -/
def State.deliverPost (s : State) (q : Post) : State :=
  let c := s.ctx
  match q with
  | .own flag n => { s with ctx := c.addFlag flag n }
  | .remote flag n target => s.postTarget c.launch c.core c.agency flag n target
  | .join g inc => s.mapGroup g inc (fun x => x.join c.launch c.core)
  | .leave g inc => s.mapGroup g inc (fun x => x.leave c.launch c.core)
  | .arrive g inc step => s.mapGroup g inc (fun x => x.arrive c.launch c.core step)

/-- Whether a post is to the context's own flags. -/
def Post.isOwn : Post → Bool
  | .own _ _ => true
  | _ => false

/-- Whether a POSTF may come before a queued operation: only before a post to another context (R166, R172). -/
def Post.elsewhere (launch core : Nat) : Post → Bool
  | .remote _ _ target => bits target 7 0 != core || (bitAt target 40 && bits target 39 8 != launch)
  | _ => false

/-- The queued operation that is released next, with the others: they go in program order, but a POSTF does not wait behind posts
to other contexts (R166, R167, R172, log 57, DESIGN CHOICE). -/
def nextPost (launch core : Nat) (l : List Post) : Option (Post × List Post) :=
  match l.find? (fun q => !q.elsewhere launch core) with
  | some q => if q.isOwn then some (q, l.erase q) else (l.head?.map (fun h => (h, l.tail)))
  | none => l.head?.map (fun h => (h, l.tail))

/-- POST_DELIVERY (R166): the next post of the focus context, once every earlier access is performed (R121). -/
def State.postDelivery (s : State) : State :=
  if !s.settled false then s
  else match nextPost s.ctx.launch s.ctx.core s.ctx.posts with
    | some (q, rest) => ({ s with ctx := { s.ctx with posts := rest } }).deliverPost q
    | none => s

/-- Queue a post; a full queue freezes the core (R164). -/
def queuePost (q : Post) : M Unit := fun s =>
  if 8 ≤ s.ctx.posts.length then .error (.wait .postQueue)
  else .ok ((), { s with ctx := { s.ctx with posts := s.ctx.posts ++ [q] } })

/-! ## Flags (R164) -/

/-- f[k] as a number. -/
def Ctx.flag (c : Ctx) (k : BitVec 5) : Nat := (c.f.getD k.toNat 0).toNat

/-- f[k] := f[k] − n. -/
def Ctx.takeFlag (c : Ctx) (k : BitVec 5) (n : Nat) : Ctx :=
  { c with f := c.f.setIfInBounds k.toNat (BitVec.ofNat 16 (c.flag k - n)) }

def execWaitf (p : Pos) (f : BitVec 5) (n : BitVec 16) (s : State) : Out :=
  finish p (do
    let c ← getCtx
    waitIf (decide (c.flag f < n.toNat)) .flag
    modCtx (fun c => c.takeFlag f n.toNat)) s

def execPostf (p : Pos) (f : BitVec 5) (n : BitVec 16) (s : State) : Out :=
  finish p (queuePost (.own f.toNat n.toNat)) s

def execPostr (p : Pos) (f a : BitVec 5) (n : BitVec 16) (s : State) : Out :=
  finish p (do
    let t ← readS p 1 p.bypA a
    trapIf (bits t 63 41 != 0 || (!bitAt t 40 && bits t 39 8 != 0) || decide (216 ≤ bits t 7 0)) cProtect t 0x10
    queuePost (.remote f.toNat n.toNat t)) s

def execFtest (p : Pos) (d f : BitVec 5) (n : BitVec 16) (s : State) : Out :=
  finish p (do
    let c ← getCtx
    let ok := decide (n.toNat ≤ c.flag f)
    writeS p 1 d (ofBool ok)
    (if ok then modCtx (fun c => c.takeFlag f n.toNat) else pure ())) s

/-! ## Groups -/

/-- Whether a record of four words is a valid group record (R169). -/
def grValid (ws : List Word) : Bool :=
  let w := ws.getD 0 0
  bits w 63 12 == 0 && decide (bits w 11 10 ≤ 1) && decide (1 ≤ bits w 9 0) && decide (bits w 9 0 ≤ 768)
  && ws.getD 1 0 == 0 && ws.getD 2 0 == 0 && ws.getD 3 0 == 0

/-- The number of GNEW's request among its bundle's; those of slot 1 count from 0. -/
def groupStep : Nat := 2 ^ 19

/-- The record of a group and the fabric address that names its place (R170). -/
def grRead (va : Nat) (h : Home) : M (List Word × Nat) :=
  match h with
  | .here pa => do
    let bs ← recordAt va pa (fun s => s.homeRead pa 32 .l2 s.ctx.agency)
    let dev ← thisDev
    pure (wordsOfBytes 4 bs, fabAddr dev pa)
  | .there dev pa => do
    let (_, bs) ← mapped groupStep dev va (fabAddr dev pa) (.read pa 32 1)
    pure (wordsOfBytes 4 bs, fabAddr dev pa)

/-- The lowest-numbered free group object. -/
def State.freeGroup (s : State) : Option Nat :=
  (List.range 256).find? (fun k => !s.groups.any (fun g => g.index == k && g.live))

/-- GNEW at the hub (R170): the handle, or 0. -/
def gnewAt (va : Word) (w : Word) (key : Nat) : M Word := fun s =>
  let c := s.ctx
  match s.groups.find? (fun g => g.live && g.recAt == key) with
  | some g =>
    if !g.admits c.launch c.agency then .error (.trap ⟨cProtect, va, 0x10⟩)
    else
      let g' := ({ g with quorum := bits w 9 0, who := BitVec.ofNat 2 (bits w 11 10) }).check
      .ok (g.handle, s.setGroup g')
  | none => match s.freeGroup with
    | none => .ok (0, s)
    | some k =>
      let inc := match s.groups.find? (fun g => g.index == k) with
        | some g => g.inc % 65535 + 1
        | none => 1
      let g : Group := { index := k, live := true, inc := inc, recAt := key, agency := c.agency, launch := c.launch,
                         who := BitVec.ofNat 2 (bits w 11 10), quorum := bits w 9 0, gen := 0, sends := 0,
                         joined := false, members := [] }
      .ok (g.handle, s.setGroup g)

def execGnew (p : Pos) (d a : BitVec 5) (s : State) : Out :=
  finish p (do
    let o ← readS p 1 p.bypA a
    needL1
    let h ← objHome o.toNat
    let (ws, key) ← grRead o.toNat h
    trapIf (!grValid ws) cFormat o 0
    let v ← gnewAt o (ws.getD 0 0) key
    lateData 1 true
    writeS p 1 d v) s

/-- The state once the focus context's own queued posts are delivered: what JOIN, LEAVE and BARA are checked against. -/
def State.projected (s : State) : State := s.ctx.posts.foldl (fun s q => s.deliverPost q) s

/-- The group of a valid handle in a state (R168). -/
def State.groupOf (s : State) (h : Word) : Option Group :=
  if bits h 63 24 != 0 || bits h 23 8 == 0 then none
  else (s.groupAt (bits h 7 0) (bits h 23 8)).bind (fun g => if g.agency = s.ctx.agency then some g else none)

/-- The protection of bit 4 with the handle. -/
def badHandle {α : Type} (h : Word) : M α := trapM cProtect h 0x10

/-- The group that a handle names once the queue is delivered. -/
def handleGroup (h : Word) : M Group := fun s =>
  match s.projected.groupOf h with
  | some g => .ok (g, s)
  | none => badHandle h s

def execJoin (p : Pos) (a : BitVec 5) (s : State) : Out :=
  finish p (do
    let h ← readS p 1 p.bypA a
    let g ← handleGroup h
    let c ← getCtx
    trapIf (!g.admits c.launch c.agency) cProtect h 0x10
    queuePost (.join g.index g.inc)) s

def execLeave (p : Pos) (a : BitVec 5) (s : State) : Out :=
  finish p (do
    let h ← readS p 1 p.bypA a
    let g ← handleGroup h
    let c ← getCtx
    trapIf (g.member c.launch c.core).isNone cProtect h 0x10
    queuePost (.leave g.index g.inc)) s

/-- BARA (R174). -/
def execBara (p : Pos) (a : BitVec 5) (s : State) : Out :=
  finish p (do
    let h ← readS p 1 p.bypA a
    let g ← handleGroup h
    let c ← getCtx
    (match g.member c.launch c.core with
     | none => badHandle h
     | some m => match m.bar with
       | .arrived _ _ => badHandle h
       | _ => queuePost (.arrive g.index g.inc false))) s

/-- Whether a queued post concerns a group. -/
def Post.about (index inc : Nat) : Post → Bool
  | .join g i => g == index && i == inc
  | .leave g i => g == index && i == inc
  | .arrive g i _ => g == index && i == inc
  | _ => false

/-- The caller's barrier state in the group of a handle; its own queued operations on the group come first. -/
def barrierState (k : WaitKind) (h : Word) : M (Group × BarState) := fun s =>
  if s.ctx.posts.any (fun q => q.about (bits h 7 0) (bits h 23 8)) then .error (.wait k)
  else match s.groupOf h with
    | none => badHandle h s
    | some g => match g.member s.ctx.launch s.ctx.core with
      | none => badHandle h s
      | some m => .ok ((g, m.bar), s)

/-- The caller is idle in the group again: a wait has completed (R174). -/
def barIdle (g : Group) : M Unit := fun s =>
  .ok ((), s.mapGroup g.index g.inc (fun x => x.setBar s.ctx.launch s.ctx.core .idle))

/-- An arrival is sent and the wait begins; a full queue is waited for first. A step's arrival leaves with the L1 written
back and invalid. -/
def sendArrival (k : WaitKind) (g : Group) (step : Bool) : M Unit := fun s =>
  if 8 ≤ s.ctx.posts.length then .error (.wait .postQueue)
  else .error (.send k (fun s =>
    let s := if step then s.flushCore s.ctx.core (fun _ => true) else s
    { s with ctx := { s.ctx with posts := s.ctx.posts ++ [.arrive g.index g.inc step], stepping := step } }))

/-- Whether a completion is of the newest completed generation. -/
def Group.newest (g : Group) (k : Nat) : Bool := (k + 1) % 2 ^ 16 == g.gen

/-- BARW (R174). -/
def execBarw (p : Pos) (a : BitVec 5) (s : State) : Out :=
  finish p (do
    let h ← readS p 1 p.bypA a
    let (g, b) ← barrierState .barrier h
    (match b with
     | .arrived _ _ => waitM .barrier
     | .idle => sendArrival .barrier g false
     | .done k _ => if g.newest k then barIdle g else sendArrival .barrier g false)) s

/-- What a STEP waits for is the STEP's own wait (R181). -/
def asStep (m : M Unit) : M Unit := fun s => match m s with
  | .error (.wait _) => .error (.wait .step)
  | r => r

/-- STEP's fence, then its arrival (R174). -/
def stepArrive (g : Group) : M Unit := do
  asStep (settle false)
  asStep needL1
  sendArrival .step g true

/-- STEP (R174): it fences and arrives in every state of the caller; once it has, it waits for the completion, and the whole L1 is
invalid before the next bundle issues. -/
def execStep (p : Pos) (a : BitVec 5) (s : State) : Out :=
  finish p (do
    let h ← readS p 1 p.bypA a
    let (g, b) ← barrierState .step h
    let c ← getCtx
    (match c.stepping, b with
     | true, .arrived _ _ => waitM .step
     | true, .done k _ =>
       if g.newest k then do
         asStep needL1
         dropL1
         barIdle g
         modCtx (fun c => { c with stepping := false })
       else stepArrive g
     | _, _ => stepArrive g)) s

/-- The word of BARG (R176). -/
def Group.barg (g : Group) (launch core : Nat) : Word :=
  let m := g.member launch core
  let arr := m.any (fun x => match x.bar with
    | .arrived _ _ => true
    | _ => false)
  let done := m.any (fun x => match x.bar with
    | .done _ _ => true
    | _ => false)
  w64 (g.gen % 2 ^ 16 + (if m.isSome then 2 ^ 16 else 0) + (if arr then 2 ^ 17 else 0) + (if done then 2 ^ 18 else 0))

def execBarg (p : Pos) (d a : BitVec 5) (s : State) : Out :=
  finish p (do
    let h ← readS p 1 p.bypA a
    (fun s => match s.groupOf h with
      | none => badHandle h s
      | some g => writeS p 1 d (g.barg s.ctx.launch s.ctx.core) 0 s)) s

/-! ## Monitors (R178 to R180) -/

/-- Whether a context holds a monitor at an L2 slice. -/
def Ctx.monAt (c : Ctx) (slice : Nat) : Bool := match c.mon with
  | some m => l2Slice (32 * m.sector) == slice
  | none => false

/-- The slice's table of 64 monitors, those of pre-empted contexts among them, overflows: the oldest is lost, which counts as
a wake (R179). -/
def State.monitorRoom (s : State) (sector : Nat) : State :=
  let sl := l2Slice (32 * sector)
  let all := (s.allCtxs ++ s.saved.map (·.ctx)).filter (fun c => c.monAt sl)
  if all.length < 64 then s
  else
    let age : Ctx → Nat := fun c => match c.mon with
      | some m => m.armed
      | none => 0
    match all.foldl (fun (o : Option Ctx) (c : Ctx) => match o with
        | some b => if age c < age b then some c else some b
        | none => some c) none with
    | none => s
    | some v =>
      let lost : Ctx → Ctx := fun c => if c.mon = v.mon ∧ c.core = v.core ∧ c.slot = v.slot then
        { c with mon := c.mon.map (fun m => { m with woken := true, sector := 2 ^ 48 }) } else c
      { s.mapCtx (fun _ => true) lost with saved := s.saved.map (fun x => { x with ctx := lost x.ctx }) }

/-- Arm a monitor of the focus context (R178). -/
def armMonitor (sector : Nat) : M Unit := fun s =>
  let s := ({ s with ctx := { s.ctx with mon := none } }).monitorRoom sector
  .ok ((), { s with ctx := { s.ctx with mon := some ⟨sector, false, s.now⟩ } })

/-- Where a monitored address lies (R178, R182). -/
def monitorAt (ea : Word) : M Nat := fun s =>
  if ea.toNat < 2 ^ 32 then .error (.trap ⟨cProtect, ea, 0x10⟩)
  else match s.locate ea.toNat 1 false with
    | (.error e, _) => .error (.trap e)
    | (.ok (.mem pa _), s) => .ok (pa / 32, s)
    | (.ok (.mcast _), _) => .error (.trap ⟨cProtect, ea, 0x40⟩)
    | (.ok _, _) => .error (.trap ⟨cProtect, ea, 0x10⟩)

def execMonitor (p : Pos) (a : BitVec 5) (s : State) : Out :=
  finish p (do
    let ea ← readS p 1 p.bypA a
    let sec ← monitorAt ea
    armMonitor sec
    freezeAfter) s

/-- Whether an MWAIT of the context completes now (R180). -/
def State.mwaitDone (s : State) : Bool :=
  (match s.ctx.mon with
   | none => true
   | some m => m.woken)
  || s.ctx.mwaitAt.any (fun d => decide (d ≤ s.now))

/-- MWAIT (R180): `mwaitAt` holds the end of the running one's timeout. -/
def execMwait (p : Pos) (a : BitVec 5) (s : State) : Out :=
  finish p (do
    let x ← readS p 1 p.bypA a
    (fun s =>
      if s.mwaitDone then .ok ((), { s with ctx := { s.ctx with mon := none, mwaitAt := none } })
      else if s.ctx.mwaitAt.isNone && x != 0 then
        .error (.send .mwait (fun s => { s with ctx := { s.ctx with mwaitAt := some (s.now + x.toNat) } }))
      else .error (.wait .mwait))) s

end Sys2Proof.Machine
end

