-- ==== Sys2Proof/Machine/Copy.lean ====
section
/-! DEFINITION. The copy sequencer and the chamber bus (spec/11 R207 to R222): engine registers, commands, waits, faults,
calendar lines (with spec/12 R231 to R233), BCAST and BLATCH. -/

namespace Sys2Proof.Machine

/-! ## Registers of a command (R207, R208) -/

/-- Register n of a shadow set (0x000 to 0x00D). -/
def CmdRegs.get (r : CmdRegs) (n : Nat) : Word :=
  match n with
  | 0 => r.cmd
  | 1 => r.src
  | 2 => r.dst
  | 3 => r.post
  | 4 => r.step
  | 6 => r.cnt0
  | 7 => r.cnt1
  | _ => if 8 ≤ n ∧ n ≤ 13 then r.str.getD (n - 8) 0 else 0

/-- Write register n of a shadow set. -/
def CmdRegs.set (r : CmdRegs) (n : Nat) (w : Word) : CmdRegs :=
  match n with
  | 0 => { r with cmd := w }
  | 1 => { r with src := w }
  | 2 => { r with dst := w }
  | 3 => { r with post := w }
  | 4 => { r with step := w }
  | 6 => { r with cnt0 := w }
  | 7 => { r with cnt1 := w &&& 0xFFFFFFFF }
  | _ => if 8 ≤ n then { r with str := r.str.setIfInBounds (n - 8) w } else r

/-- The counts c0 to c5. -/
def CmdRegs.counts (r : CmdRegs) : List Nat :=
  [bits r.cnt0 15 0, bits r.cnt0 31 16, bits r.cnt0 47 32, bits r.cnt0 63 48, bits r.cnt1 15 0, bits r.cnt1 31 16]

/-- The number of innermost runs. -/
def CmdRegs.total (r : CmdRegs) : Nat := r.counts.foldl (· * ·) 1

/-- cmd.len + 1. -/
def CmdRegs.run (r : CmdRegs) : Nat := bits r.cmd 11 0 + 1
/-- cmd.fmt. -/
def CmdRegs.fmt (r : CmdRegs) : Nat := bits r.cmd 16 12
/-- cmd.red. -/
def CmdRegs.red (r : CmdRegs) : Nat := bits r.cmd 19 17
/-- cmd.sk: the source is a scratchpad. -/
def CmdRegs.srcScr (r : CmdRegs) : Bool := bitAt r.cmd 20
/-- cmd.dk. -/
def CmdRegs.dk (r : CmdRegs) : Nat := bits r.cmd 22 21
/-- The destination is a scratchpad. -/
def CmdRegs.dstScr (r : CmdRegs) : Bool := r.dk != 1
/-- cmd.cal. -/
def CmdRegs.cal (r : CmdRegs) : Bool := bitAt r.cmd 23

/-- The element size (R208): w/8 for formats 1 to 14, and 1 for raw, q8 and q4. -/
def CmdRegs.esize (r : CmdRegs) : Nat :=
  if 1 ≤ r.fmt ∧ r.fmt ≤ 14 then fmtWidth (BitVec.ofNat 5 r.fmt) / 8 else 1

/-- The loop indices of run k: level 0 varies fastest (R210). -/
def loopIdx : List Nat → Nat → List Nat
  | [], _ => []
  | c :: t, k => (if c = 0 then 0 else k % c) :: loopIdx t (if c = 0 then k else k / c)

/-- Source and destination of run k, wrapped by kind (R210). -/
def CmdRegs.addrs (r : CmdRegs) (k : Nat) : Nat × Nat :=
  let ix := (loopIdx r.counts k).zip r.str.toList
  let sa := ix.foldl (fun a e => a + w64 e.1 * sextTo 32 (bits e.2 31 0)) r.src
  let da := ix.foldl (fun a e => a + w64 e.1 * sextTo 32 (bits e.2 63 32)) r.dst
  (sa.toNat, da.toNat)

/-- An address of a kind at an offset. -/
def kindAddr (scr : Bool) (a j : Nat) : Nat := if scr then (a + j) % 2 ^ 32 else (a + j) % 2 ^ 64

/-! ## The calendar map (R216) -/

/-- The nibble of slot j. -/
def calNibble (m : Vector (BitVec 64) 6) (j : Nat) : Nat := bits (m.getD (j / 16) 0) (4 * (j % 16) + 3) (4 * (j % 16))

/-- The channel that owns slot j, when the slot is enabled. -/
def calOwner (m : Vector (BitVec 64) 6) (j : Nat) : Option Nat :=
  let v := calNibble m j
  if 8 ≤ v then some (v % 4) else none

/-- The slot at a rotation offset: slot j falls at floor(8j / 3). -/
def calSlot (off : Nat) : Option Nat := (List.range 96).find? (fun j => 8 * j / 3 == off)

/-- The channel whose slot a real cycle is. -/
def Core.slotOwner (k : Core) (now : Nat) : Option Nat := (calSlot (now % 256)).bind (calOwner k.calMap)

/-! ## Validity (R208, R211, R214) -/

/-- Whether every field of a command is valid by R208; the first invalid register. -/
def CmdRegs.badField (r : CmdRegs) : Option Nat :=
  if bits r.cmd 63 26 != 0 || r.dk == 3 || decide (6 ≤ r.red) || decide (17 ≤ r.fmt) then some 0
  else if bits r.post 63 29 != 0 || (bitAt r.cmd 24 && decide (216 ≤ bits r.post 28 21)) then some 3
  else none

/-- Whether a command is empty (R210). -/
def CmdRegs.empty (r : CmdRegs) : Bool := r.counts.any (fun c => c == 0)

/-- Whether a level's stride fits the multiples asked of source and destination. R211 asks the multiples of e only of levels whose
count exceeds 1; the model reads its multiples of 128 and 64 for `cmd.cal` in the same way (log 108, DESIGN CHOICE). -/
def CmdRegs.strideOk (r : CmdRegs) (ms md k : Nat) : Bool :=
  let w := r.str.getD k 0
  decide (r.counts.getD k 0 ≤ 1) || (bits w 31 0 % ms == 0 && bits w 63 32 % md == 0)

/-- The conditions of R211 beyond the fields, as the register numbers that break them. -/
def CmdRegs.badRegs (r : CmdRegs) (coreIdx : Nat) (owns : Bool) : List Nat :=
  let e := r.esize
  let n := r.run
  let redBad := r.red != 0 && (r.dk != 1 || !(r.fmt == 3 || r.fmt == 4 || r.fmt == 7 || r.fmt == 8 || r.fmt == 10)
    || (r.fmt == 10 && decide (4 ≤ r.red)))
  let calBad := r.cal && (r.srcScr || r.dk == 1 || r.red != 0 || n % 128 != 0 || !owns)
  let ms := if r.cal then 128 else e
  let md := if r.cal then 64 else e
  (if n % e != 0 || redBad || calBad then [0] else [])
  ++ (if r.src.toNat % e != 0 || r.src.toNat % ms != 0 then [1] else [])
  ++ (if r.dst.toNat % e != 0 || r.dst.toNat % md != 0 || (r.dk == 0 && bits r.dst 23 21 != coreIdx) then [2] else [])
  ++ ((List.range 6).filter (fun k => !(r.strideOk e e k && r.strideOk ms md k))).map (fun k => 8 + k)

/-- The number of the first invalid register of a command on channel ch, if one is. -/
def Core.badCommand (k : Core) (ch : Nat) (r : CmdRegs) : Option Nat :=
  let owns := (List.range 96).any (fun j => calOwner (k.calNext.getD k.calMap) j == some ch)
  let l := r.badField.toList ++ (if r.empty then [] else r.badRegs (k.id % 8) owns)
  l.foldl (fun (o : Option Nat) x => match o with
    | some y => some (Nat.min x y)
    | none => some x) none

/-! ## Channels -/

/-- Channel ch of a core. -/
def Core.chan (k : Core) (ch : Nat) : Channel := k.chans.getD ch Channel.reset

/-- Replace a channel. -/
def Core.setChan (k : Core) (ch : Nat) (c : Channel) : Core := { k with chans := k.chans.setIfInBounds ch c }

/-- Replace a channel of the focus core. -/
def State.setChan (s : State) (ch : Nat) (c : Channel) : State := { s with core := s.core.setChan ch c }

/-- st.done (R209): the oldest incomplete transfer's ID, or the next to be given. -/
def Channel.doneId (c : Channel) : BitVec 32 := match c.queue with
  | q :: _ => q.id
  | [] => c.nextId

/-- Whether a transfer ID is complete (R209). -/
def Channel.complete (c : Channel) (i : BitVec 32) : Bool := decide ((c.doneId - 1 - i).toNat < 2 ^ 31)

/-- Whether a command was issued by a context. -/
def Command.by (q : Command) (x : Ctx) : Bool := q.slot == x.slot && q.launch == x.launch

/-- st.own. -/
def Channel.own (c : Channel) (x : Ctx) : Nat := (c.queue.filter (fun q => q.by x)).length

/-- The calendar lines in flight of a channel, oldest first. -/
def Core.linesOf (k : Core) (ch : Nat) : List CalLine := k.lines.filter (fun l => l.chan == ch)

/-- The lines of a calendar command. -/
def CmdRegs.lineCount (r : CmdRegs) : Nat := r.total * (r.run / 128)

/-- The cursor of a channel (R207, R219): runs performed and byte offset; by lines for a calendar command. -/
def Core.cursor (k : Core) (ch : Nat) : Nat × Nat :=
  let c := k.chan ch
  match c.queue with
  | q :: _ =>
    if !c.active then (0, 0)
    else if q.regs.cal && !q.regs.empty then
      let i := match (k.linesOf ch).head? with
        | some l => l.index
        | none => c.issued
      let per := Nat.max 1 (q.regs.run / 128)
      (i / per, 128 * (i % per))
    else (c.count, c.off)
  | [] => (0, 0)

/-- `stat` (R209). -/
def Core.stat (k : Core) (ch : Nat) (x : Ctx) : Word :=
  let c := k.chan ch
  w64 ((if c.flt then 2 ^ 41 else 0) + 2 ^ 38 * c.queue.length + 2 ^ 35 * c.own x + c.doneId.toNat)

/-- Whether the joins of a queued command are satisfied (R124). -/
def Core.joined (k : Core) (q : Command) : Bool := q.join.all (fun j => (k.chan j.1).complete j.2)

/-- COPY_COMMAND_START (R213): the oldest command of a channel becomes active when its joins are satisfied. -/
def Core.startChan (k : Core) (now ch : Nat) : Core :=
  let c := k.chan ch
  match c.queue with
  | q :: _ =>
    if c.active || c.flt || !k.joined q then k
    else k.setChan ch { c with active := true, count := 0, off := 0, issued := 0, readyAt := now + 4, last := q.regs }
  | [] => k

/-- Joins that are complete go; commands that may start become active. -/
def Core.settleChans (k : Core) (now : Nat) : Core :=
  let k := (List.range 4).foldl (fun (k : Core) ch =>
    let c := k.chan ch
    k.setChan ch { c with joins := c.joins.filter (fun j => !(k.chan j.1).complete j.2) }) k
  (List.range 4).foldl (fun (k : Core) ch => k.startChan now ch) k

/-! ## Performing a command (R210) -/

/-- Who the commands of a channel act for. -/
def Command.who (q : Command) (core ch : Nat) : Who :=
  { core := some core, key := 16 + ch, stream := 6144 + 4 * core + ch, launch := q.launch, agency := q.agency, slot := q.slot,
    agent := .chan core ch }

/-- One element at byte offset j of run k. With `cmd.dk` 00 only the base is held to the issuing core (R211): a stride may carry a
later element to another core of the chamber, and it is written there under the checks of R186 (log 109, DESIGN CHOICE). -/
def copyElem (w : Who) (chamber : Nat) (r : CmdRegs) (k j : Nat) : E Unit := do
  let (sa, da) := r.addrs k
  let e := r.esize
  let a := kindAddr r.srcScr sa j
  let d := kindAddr r.dstScr da j
  let bs ← (if r.srcScr then engScrRead w chamber a e else engRead w 0 a e)
  (if r.red != 0 then engReduce w 1 d r.red r.fmt bs
   else if r.dstScr then engScrWrite w chamber d bs
   else engWrite w 1 d bs)

/-- Perform elements from the cursor on, at most `fuel` of them: the state with the cursor moved, and why it stopped
early. -/
def State.copyRun (w : Who) (chamber ch : Nat) (r : CmdRegs) : Nat → State → State × Option EStop
  | 0, s => (s, none)
  | fuel + 1, s =>
    let c := s.core.chan ch
    if r.total ≤ c.count then (s, none)
    else match copyElem w chamber r c.count c.off s with
      | .error e => (s, some e)
      | .ok (_, s) =>
        let s := s.engForget w
        let c := s.core.chan ch
        let c := if c.off + r.esize < r.run then { c with off := c.off + r.esize }
          else { c with count := c.count + 1, off := 0 }
        State.copyRun w chamber ch r fuel (s.setChan ch c)

/-- The command at the head of a channel completes (R210, R223): its tagged send is counted down, its post made, the
next command may start. -/
def State.copyDone (s : State) (ch : Nat) : State :=
  let c := s.core.chan ch
  match c.queue with
  | [] => s
  | q :: rest =>
    let s := s.setChan ch { c with queue := rest, active := false, flt := false, offered := false, count := 0, off := 0,
                                   issued := 0, halting := false }
    let s := { s with core := s.core.settleChans s.now }
    let s := if bitAt q.regs.cmd 25 then s.tagLanded (bits q.regs.step 7 0) (bits q.regs.step 23 8) else s
    if bitAt q.regs.cmd 24 then s.postWord q.launch q.regs.post else s

/-- Whether an access of a channel's active command is still to be performed: a write that a PHASE window holds (R188), an access
behind a far one (R229). -/
def State.chanPending (s : State) (ch : Nat) : Bool :=
  s.scrPending (.chan s.core.id ch) || s.far.any (fun h => h.agent == .chan s.core.id ch)

/-- A faulting access stops the channel (R219); a page fault is offered to the firmware first. -/
def State.copyFault (s : State) (ch : Nat) (r : TrapReq) : State :=
  let s := if r.cause = cPage then s.report 11 r.taddr else s
  let c := s.core.chan ch
  s.setChan ch { c with flt := true, offered := r.cause == cPage, faddr := r.taddr,
                        fault := w64 (r.cause.toNat + 2 ^ 8 * bits r.detail 7 0) }

/-- Perform the active command of a channel, at most `fuel` elements of it: it completes once all its accesses are performed
(R210, R223), stops at a fault, waits for an answer, or has come that far. -/
def State.copyWork (s : State) (ch fuel : Nat) : State :=
  let c := s.core.chan ch
  match c.queue with
  | [] => s
  | q :: _ =>
    if !c.active || c.flt then s
    else if q.regs.empty then s.copyDone ch
    else if q.regs.cal then
      (if q.regs.lineCount ≤ c.issued ∧ (s.core.linesOf ch).isEmpty then s.copyDone ch else s)
    else
      let w := q.who s.core.id ch
      match State.copyRun w (s.core.id / 8) ch q.regs fuel s with
      | (s, some (.fault r log)) => ((log s).engForget w).copyFault ch r
      | (s, some (.pend f)) => f s
      | (s, none) => if q.regs.total ≤ (s.core.chan ch).count && !s.chanPending ch then s.copyDone ch else s

/-- The elements of a whole command. -/
def CmdRegs.elements (r : CmdRegs) : Nat := r.total * r.run + 1

/-- Perform all of the active command. -/
def State.copyAll (s : State) (ch : Nat) : State :=
  match (s.core.chan ch).queue with
  | q :: _ => s.copyWork ch q.regs.elements
  | [] => s

/-! ## Calendar lines (R217, R218, R231, R232) -/

/-- Count a missed slot or an uncaptured arrival in the context that holds the core (R107). -/
def State.countCore (s : State) (core k : Nat) : State :=
  s.mapCtx (fun c => c.core == core && some c.slot == (s.coreAt core).running) (fun c => c.count k 1)

/-- The addresses of line i of a command. -/
def CmdRegs.lineAddrs (r : CmdRegs) (i : Nat) : Nat × Nat :=
  let per := Nat.max 1 (r.run / 128)
  let (sa, da) := r.addrs (i / per)
  (kindAddr false sa (128 * (i % per)), kindAddr true da (128 * (i % per)))

/-- The source and destination of a line: its physical address, or another package's, and where it lands. -/
def calPlace (w : Who) (chamber sa da : Nat) : E (Spot × Nat × Nat) := do
  let sp ← engLocate w sa false
  let (core, off) ← engScr w chamber da 128 true
  match sp with
  | .mem _ _ => pure (sp, core, off)
  | .remote _ _ => pure (sp, core, off)
  | .mcast _ => faultE (protTrap sa 0x40)
  | _ => faultE (protTrap sa 4)

/-- The channel's next line stays for a later slot. -/
def State.calMiss (s : State) (ch : Nat) : State :=
  let c := s.core.chan ch
  (s.setChan ch { c with readyAt := s.now + 256 }).countCore s.core.id 9

/-- A line of a channel issues in this slot; one that cannot be accessed is there with its fault. -/
def State.calIssued (s : State) (ch : Nat) (q : Command) (dev : Option Nat) (pa core off : Nat) (fault : Option TrapReq) : State :=
  let c := s.core.chan ch
  let l : CalLine := { chan := ch, cmd := q.id, index := c.issued, at_ := s.now, dev := dev, pa := pa, core := core, off := off,
                       bytes := [], bad := 0, read := fault.isSome, dram := false,
                       land := if fault.isSome then 0 else s.now + 520, skip := 0, stored := false, fault := fault }
  { s with core := { (s.core.setChan ch { c with issued := c.issued + 1, readyAt := s.now + 1 }) with
      lines := s.core.lines ++ [l] } }

/-- Whether a TLB of the core or of its chamber holds the leaf of an address (R204). -/
def State.tlbHolds (s : State) (core launch va : Nat) : Bool :=
  (s.coreAt core).tlb.any (fun (e : TlbEnt) => e.covers launch va)
  || s.ctlb.any (fun (e : Nat × TlbEnt) => e.1 == chamberOf core && e.2.covers launch va)

/-- CALENDAR_LINE_ISSUE (R217): at an owned slot the due line issues when its translation is complete, which a held leaf is and a
walk may be (log 9, DESIGN CHOICE); else its slot is missed. A line of another package issues in the same way (log 110, DESIGN
CHOICE). -/
def State.calIssue (s : State) (ch : Nat) : State :=
  let c := s.core.chan ch
  match c.queue with
  | [] => s
  | q :: _ =>
    if !(c.active && !c.flt && q.regs.cal && !q.regs.empty && decide (c.issued < q.regs.lineCount)
        && decide (c.readyAt ≤ s.now)) then s
    else
      let (sa, da) := q.regs.lineAddrs c.issued
      let known := decide (sa < 2 ^ 32) || s.tlbHolds s.core.id q.launch sa || Config.walked s.draw
      let s := { s with draw := s.draw + 1 }
      match calPlace (q.who s.core.id ch) (s.core.id / 8) sa da s with
      | .error (.fault r log) => if known then (log s).calIssued ch q none 0 0 0 (some r) else s.calMiss ch
      | .error (.pend f) => (f s).calMiss ch
      | .ok ((sp, core, off), s) =>
        if !known then s.calMiss ch
        else match sp with
          | .remote dev pa => s.calIssued ch q (some dev) pa core off none
          | .mem pa _ => s.calIssued ch q none pa core off none
          | _ => s

/-- Whether the sectors of a line all lie in L2 or in the sump (R231). -/
def State.lineCached (s : State) (pa : Nat) : Bool :=
  let held := fun (l : HomeLine) => l.line == pa / 128
  let have2 := match s.l2.find? held with
    | some l => l.valid
    | none => 0
  let have3 := match s.sump.find? held with
    | some l => l.valid
    | none => 0
  (have2 ||| have3) == 15

/-- The cycle at which its HBM channel serves a line (R232). -/
def CalLine.served (l : CalLine) : Nat := l.land - 520

/-- The calendar lines that an HBM channel serves in a rotation, those carried over from earlier rotations among them (R232). -/
def State.calLoad (s : State) (chan rot : Nat) : Nat :=
  let ls := s.core.lines ++ s.cores.flatMap (fun k => k.lines)
  (ls.filter (fun l => l.dram && l.land != 0 && l.served / 256 == rot && hbmChannel l.pa == chan)).length

/-- Replace the k-th line in flight of the focus core. -/
def State.setLine (s : State) (k : Nat) (l : CalLine) : State :=
  { s with core := { s.core with lines := s.core.lines.set k l } }

/-- The commands' requests to other packages that nothing waits for any more: their answers are dropped (R213, R219). -/
def State.orphan (s : State) (w : Who) : State :=
  let mine := fun (o : Outstanding) => o.core == w.coreKey && o.slot == w.key && o.pkt.stream == w.stream
  { s with fab := { s.fab with out := (s.fab.out.filter (fun o => !(mine o && o.answer.isSome))).map (fun o =>
      if mine o then { o with core := orphanCore } else o) } }

/-- The request of a line to another package: sent at slot + 12, its answer taken when it has come; a negative answer stops the
channel at the line. -/
def State.calFetch (s : State) (k : Nat) (l : CalLine) (dev : Nat) : State :=
  match (s.core.chan l.chan).queue with
  | [] => s
  | q :: _ =>
    let w := q.who s.core.id l.chan
    match engMapped w l.index dev (q.regs.lineAddrs l.index).1 (fabAddr dev l.pa) (.read l.pa 128 1) s with
    | .ok ((_, bs), s) =>
      (s.engForgetStep w l.index).setLine k { l with bytes := bs, read := true, land := Nat.max l.land s.now }
    | .error (.fault r _) => (s.engForgetStep w l.index).setLine k { l with read := true, land := 0, fault := some r }
    | .error (.pend f) => f s

/-- CALENDAR_LINE_READ (R231): line k of the focus core is performed at its L2 home as an engine read. -/
def State.calRead (s : State) (k : Nat) : State :=
  match s.core.lines[k]? with
  | none => s
  | some l =>
    match l.dev with
    | some dev => s.calFetch k l dev
    | none =>
      let dram := !s.lineCached l.pa
      let agency := ((s.core.chan l.chan).queue.head?.map (fun q => q.agency)).getD 0
      let r := s.homeRead l.pa 128 .l2 agency
      let bad := (List.range 4).foldl (fun (b : BitVec 4) i =>
        if r.2.sectorBad (l.pa / 32 + i) then b ||| BitVec.ofNat 4 (2 ^ i) else b) 0
      r.2.setLine k { l with bytes := r.1, bad := bad, read := true, dram := dram }

/-- CALENDAR_HOLD (R232): line k lands later by a delay, and its destination core is held until then; an error-log entry
of kind 7 records it. -/
def State.calHold (s : State) (k delay : Nat) : State :=
  match s.core.lines[k]? with
  | none => s
  | some l =>
    let s := s.setLine k { l with land := l.at_ + 520 + delay }
    if delay = 0 then s else s.logError 7 l.pa 0

/-- Whether a line cannot land in time: its channel serves 141 lines of its rotation before it (R230, R232). -/
def State.calLate (s : State) (l : CalLine) : Bool :=
  l.dram && decide (141 < s.calLoad (hbmChannel l.pa) (l.at_ / 256))

/-- The delay of a late line (R232): its channel serves it in the next rotation with a line-time to spare, behind the late lines of
earlier slots; where in that rotation is open (log 65, DESIGN CHOICE: `d`). -/
def State.calDelay (s : State) (l : CalLine) (d : Nat) : Nat :=
  let chan := hbmChannel l.pa
  let ls := (s.core.lines ++ s.cores.flatMap (fun k => k.lines)).filter (fun x =>
    x.dram && hbmChannel x.pa == chan && decide (x.at_ + 520 < x.land))
  let last := ls.foldl (fun (m : Nat) x => Nat.max m x.served) 0
  let from_ := Nat.max (l.at_ / 256 + 1) (last / 256)
  let rot := ((List.range (ls.length + 1)).map (fun j => from_ + j)).find? (fun r => decide (s.calLoad chan r < 141))
  let r := rot.getD (from_ + ls.length + 1)
  Nat.max (256 * r + d % 256) (Nat.min (last + 1) (256 * r + 255)) - l.at_

/-- The bytes of a line's destination, as a mask of its own bytes, that another line's destination covers. -/
def CalLine.overlap (x l : CalLine) : BitVec 128 :=
  if x.core != l.core then 0
  else if x.off ≤ l.off then lineMask (l.off - x.off) (128 - (l.off - x.off))
  else lineMask 0 (128 - (x.off - l.off))

/-- The line as an agent. -/
def CalLine.agent (l : CalLine) (core : Nat) : Agent := .line core l.chan l.index

/-- Line k has landed: it is done with, but for a poisoned one, which stops its channel once the lines before it have landed. -/
def State.calLanded (s : State) (k : Nat) : State :=
  match s.core.lines[k]? with
  | none => s
  | some l =>
    if l.bad = 0 then ({ s with core := { s.core with lines := s.core.lines.eraseIdx k } }).copyWork l.chan 0
    else s.setLine k { l with land := 0 }

/-- CALENDAR_LINE_LANDING (R217, R218, R233): line k is written to its destination, poisoned sectors mark their words, and earlier
lines of its command that a hold keeps back will not overwrite it (R122). A PHASE window of the destination holds the bytes (R188),
and the line has landed when they are written. -/
def State.calLand (s : State) (k : Nat) : State :=
  match s.core.lines[k]? with
  | none => s
  | some l =>
    let agent := l.agent s.core.id
    let s := if l.bad = 0 ∧ l.skip = 0 then s.scrDeliver agent l.core l.off l.bytes
      else (List.range 4).foldl (fun s i =>
        (maskRuns (lineMask (32 * i) 32 &&& ~~~l.skip)).foldl (fun (s : State) r =>
          s.scrDeliver agent l.core (l.off + r.1) ((l.bytes.drop r.1).take r.2) (l.bad.getLsbD i)) s) s
    let s := { s with core := { s.core with lines := s.core.lines.map (fun (x : CalLine) =>
      if x.chan = l.chan ∧ x.cmd = l.cmd ∧ x.index < l.index then { x with skip := x.skip ||| x.overlap l } else x) } }
    if s.scrPending agent then s.setLine k { l with stored := true } else s.calLanded k

/-- The lowest set bit of a line's poison. -/
def CalLine.badSector (l : CalLine) : Nat := ((List.range 4).find? (fun i => l.bad.getLsbD i)).getD 0

/-- A line that has landed poisoned, or that could not be accessed, stops its channel when no line before it is in flight; the
lines after it are read again after a resume (R219, R233, R234). -/
def State.calPoison (s : State) (ch : Nat) : State :=
  match s.core.linesOf ch, (s.core.chan ch).queue with
  | l :: _, q :: _ =>
    if l.land = 0 then
      let sa := (q.regs.lineAddrs l.index).1 + 32 * l.badSector
      let c := s.core.chan ch
      let s := { s with core := { (s.core.setChan ch { c with issued := l.index }) with
        lines := s.core.lines.filter (fun x => x.chan != ch) } }
      let s := s.orphan (q.who s.core.id ch)
      match l.fault with
      | some r => s.copyFault ch r
      | none => (s.consumed (l.pa / 32 + l.badSector) (consumer s.core.id q.slot q.agency)).copyFault ch ⟨cPoison, w64 sa, 0⟩
    else s
  | _, _ => s

/-- CALENDAR_ROTATION_START (R216): pending writes of the map take effect. -/
def Core.rotate (k : Core) : Core := match k.calNext with
  | some m => { k with calMap := m, calNext := none }
  | none => k

/-! ## Resuming and cancelling (R213, R219) -/

/-- A stopped channel resumes at its cursor. -/
def State.chanResume (s : State) (ch : Nat) : State :=
  let c := s.core.chan ch
  if c.flt then s.setChan ch { c with flt := false, offered := false, readyAt := s.now + 1 } else s

/-- ECAN (R213): the context's commands go; those that were tagged are uncounted. -/
def State.chanCancel (s : State) (ch : Nat) : State :=
  let c := s.core.chan ch
  let mine := c.queue.filter (fun q => q.by s.ctx)
  let head := match c.queue with
    | q :: _ => q.by s.ctx
    | [] => false
  let c' := { c with queue := c.queue.filter (fun q => !q.by s.ctx), halting := false }
  let c' := if head then { c' with active := false, flt := false, offered := false, count := 0, off := 0, issued := 0 }
    else c'
  let s := s.setChan ch c'
  let s := match c.queue with
    | q :: _ => if head then
        (let t := s.orphan (q.who s.core.id ch)
         { t with core := { t.core with lines := t.core.lines.filter (fun l => l.chan != ch) } })
      else s
    | [] => s
  let s := mine.foldl (fun s q => if bitAt q.regs.cmd 25 then s.tagLanded (bits q.regs.step 7 0) (bits q.regs.step 23 8)
    else s) s
  { s with core := s.core.settleChans s.now }

/-! ## EWR and ERD (R207, R213, R216) -/

/-- The bits that a cal.map register keeps. -/
def calKeep : Word := 0xBBBB_BBBB_BBBB_BBBB

/-- EWR of a register. -/
def State.engineWrite (s : State) (r : Nat) (w : Word) : State :=
  let sel := r / 4096
  let n := r % 4096
  if sel = 4 then
    let m := s.core.calNext.getD s.core.calMap
    { s with core := { s.core with calNext := some (m.setIfInBounds n (w &&& calKeep)),
                                   calSince := if s.core.calNext.isSome then s.core.calSince else s.now } }
  else if n = 0x021 then s.chanResume sel
  else
    let sh := s.ctx.shadow.getD sel CmdRegs.zero
    { s with ctx := { s.ctx with shadow := s.ctx.shadow.setIfInBounds sel (sh.set n w) } }

/-- The cursor in the layouts of cnt0 and cnt1. -/
def cursorWords (r : CmdRegs) (cur : Nat × Nat) : Word × Word :=
  let i := loopIdx r.counts cur.1
  (w64 (i.getD 0 0 + 2 ^ 16 * i.getD 1 0 + 2 ^ 32 * i.getD 2 0 + 2 ^ 48 * i.getD 3 0),
   w64 (i.getD 4 0 + 2 ^ 16 * i.getD 5 0 + 2 ^ 32 * (cur.2 % 4096)))

/-- ERD of a register. -/
def State.engineRead (s : State) (r : Nat) : Word :=
  let sel := r / 4096
  let n := r % 4096
  if sel = 4 then
    (if n = 0x010 then w64 (s.now % 256 + 256 * (s.now / 256)) else (s.core.calNext.getD s.core.calMap).getD n 0)
  else
    let c := s.core.chan sel
    if n ≤ 0x00D then (s.ctx.shadow.getD sel CmdRegs.zero).get n
    else if n = 0x020 then s.core.stat sel s.ctx
    else if n = 0x021 then c.fault
    else if n = 0x022 then c.faddr
    else if n = 0x023 then (cursorWords c.last (s.core.cursor sel)).1
    else if n = 0x024 then (cursorWords c.last (s.core.cursor sel)).2
    else c.last.get (n - 0x100)

def execEwr (p : Pos) (a : BitVec 5) (r : BitVec 16) (s : State) : Out :=
  finish p (do
    let x ← readS p 1 p.bypA a
    (fun s => .ok ((), s.engineWrite r.toNat x))) s

def execErd (p : Pos) (d : BitVec 5) (r : BitVec 16) (s : State) : Out :=
  finish p (writeS p 2 d (s.engineRead r.toNat)) s

/-! ## EGO, waits, fences (R213 to R215) -/

/-- Accept a command whose registers are valid: the ID it is given (R209, R213). -/
def State.acceptCmd (s : State) (ch : Nat) (r : CmdRegs) : BitVec 32 × State :=
  let c := s.core.chan ch
  let q : Command := ⟨c.nextId, s.ctx.slot, s.ctx.launch, s.ctx.agency, r, c.joins⟩
  let k := s.core.setChan ch { c with nextId := c.nextId + 1, queue := c.queue ++ [q] }
  let s := { s with core := k.settleChans s.now }
  (c.nextId, if bitAt r.cmd 25 then s.tagSent r.step else s)

/-- The checks and the acceptance of a command; `blk` is the block address, `bad` an invalid dword of the block alone. -/
def egoM (p : Pos) (d : BitVec 5) (ch : Nat) (blk : Word) (bad : Option Nat) (r : CmdRegs) : M Unit := fun s =>
  let first := match s.core.badCommand ch r, bad with
    | some x, some y => some (Nat.min x y)
    | some x, none => some x
    | none, y => y
  match first with
  | some n => .error (.trap ⟨cFormat, blk, w64 n⟩)
  | none =>
    if bitAt r.cmd 25 && !r.empty && (s.groupOf r.step).isNone then .error (.trap ⟨cProtect, r.step, 0x10⟩)
    else
      let (i, s) := s.acceptCmd ch r
      writeS p 1 d (w64 i.toNat) 0 s

/-- Wait while the channel holds four commands, and until earlier accesses are performed (R121, R213). -/
def egoWait (ch : Nat) : M Unit := do
  (fun s => if 4 ≤ (s.core.chan ch).queue.length then .error (.wait .channel) else .ok ((), s))
  settle false

def execEgo (p : Pos) (d : BitVec 5) (ch : BitVec 2) (s : State) : Out :=
  finish p (do
    egoWait ch.toNat
    let c ← getCtx
    egoM p d ch.toNat 0 none (c.shadow.getD ch.toNat CmdRegs.zero)) s

/-- The command registers of a parameter block (R214). -/
def blockRegs (ws : List Word) : CmdRegs :=
  { cmd := ws.getD 0 0, src := ws.getD 1 0, dst := ws.getD 2 0, post := ws.getD 3 0, step := ws.getD 4 0,
    cnt0 := ws.getD 6 0, cnt1 := ws.getD 7 0, str := Vector.ofFn (fun i : Fin 6 => ws.getD (8 + i.val) 0) }

/-- The reserved bits of a block (R4, R214): the first dword that breaks them. -/
def blockBad (ws : List Word) : Option Nat :=
  if bits (ws.getD 5 0) 63 1 != 0 then some 5
  else if bits (ws.getD 7 0) 63 32 != 0 then some 7
  else if ws.getD 14 0 != 0 then some 14 else if ws.getD 15 0 != 0 then some 15 else none

/-- The number of an EGO.P's request among its bundle's; those of slot 1 count from 0. -/
def blockStep : Nat := 2 ^ 19 + 1

/-- Read a parameter block whole at its L2 home (R215): an address in the chamber window has none, which is the protection of bit 2
(log 64, DESIGN CHOICE). -/
def readBlock (va : Nat) : M (List Word) := do
  alignTo va 128 8
  trapIf (decide (va < 2 ^ 32)) cProtect (w64 va) 4
  fun s => match s.locate va 128 false with
    | (.error e, _) => .error (.trap e)
    | (.ok (.mem pa _), s) =>
      match s.poisoned pa 128 with
      | some sec => poisonTrap (va + 32 * sec - pa) (32 * sec) s
      | none =>
        let r := s.homeRead pa 128 .l2 s.ctx.agency
        .ok (wordsOfBytes 16 r.1, r.2.joinFar .l2 pa 128 s.ctx.agent)
    | (.ok (.remote dev pa), s) =>
      match mapped blockStep dev va (fabAddr dev pa) (.read pa 128 1) s with
      | .ok ((_, bs), s) => .ok (wordsOfBytes 16 bs, s)
      | .error e => .error e
    | (.ok (.mcast _), _) => .error (.trap ⟨cProtect, w64 va, 0x40⟩)
    | (.ok _, _) => .error (.trap ⟨cProtect, w64 va, 4⟩)

/-- Keep a sealed block in the cache of 16 entries (R215). -/
def cacheBlock (va : Nat) (ws : List Word) : M Unit := fun s =>
  if bitAt (ws.getD 5 0) 0 then
    let rest := s.core.pblk.filter (fun e => !(e.1 == s.ctx.launch && e.2.1 == va))
    .ok ((), { s with draw := s.draw + 1,
                      core := { s.core with pblk := tlbInsert 16 (Config.victim s.draw) rest (s.ctx.launch, va, ws) } })
  else .ok ((), s)

/-- The block of an EGO.P: a cached copy may serve or memory may (R215, log 5, DESIGN CHOICE); once its read of another package's
memory has been sent, that read serves. -/
def paramBlock (va : Nat) : M (List Word) := do
  alignTo va 128 8
  fun s =>
    match s.core.pblk.find? (fun e => e.1 == s.ctx.launch && e.2.1 == va) with
    | some e =>
      let (k, s') := s.drawn
      if k % 2 = 0 ∧ !s.fab.out.any (fun o => o.mappedBy s.ctx && o.step == blockStep) then Except.ok (e.2.2, s') else readBlock va s'
    | none => readBlock va s

def execEgoP (p : Pos) (d a : BitVec 5) (ch : BitVec 2) (s : State) : Out :=
  finish p (do
    egoWait ch.toNat
    let va ← readS p 1 p.bypA a
    let ws ← paramBlock va.toNat
    egoM p d ch.toNat va (blockBad ws) (blockRegs ws)
    cacheBlock va.toNat ws) s

/-- Whether a write of a channel's active command is still held, a calendar line's that has come to its store among them. -/
def State.chanHeld (s : State) (ch : Nat) : Bool :=
  s.chanPending ch || s.core.lines.any (fun l => l.chan == ch && s.scrPending (l.agent s.core.id))

/-- ECAN up to the stop (R213): an element under way, one with a request to another package or with writes that are held, is finished
first, and the core freezes until then. -/
def ecanM (ch : Nat) : M Unit := fun s =>
  let c := s.core.chan ch
  match c.queue with
  | [] => .ok ((), s.chanCancel ch)
  | q :: _ =>
    let w := q.who s.core.id ch
    let mine := s.fab.out.filter (fun o => o.core == w.coreKey && o.slot == w.key && o.pkt.stream == w.stream)
    let halt := fun (s : State) => s.setChan ch { s.core.chan ch with halting := true }
    if !(q.by s.ctx && c.active) then .ok ((), s.chanCancel ch)
    else if s.chanHeld ch then .error (.send .channel halt)
    else if c.flt || q.regs.cal || mine.isEmpty then .ok ((), s.chanCancel ch)
    else if mine.any (fun o => o.answer.isNone) then .error (.send .channel halt)
    else match State.copyRun w (s.core.id / 8) ch q.regs 1 s with
      | (_, some (.pend f)) => .error (.send .channel f)
      | (t, _) => if t.chanHeld ch then .error (.send .channel (fun s => halt (State.copyRun w (s.core.id / 8) ch q.regs 1 s).1))
          else .ok ((), t.chanCancel ch)

def execEcan (p : Pos) (ch : BitVec 2) (s : State) : Out := finish p (ecanM ch.toNat) s

/-- A wait of the context that issued the faulted command raises the fault once the firmware has answered (R219). -/
def chanStuck (ch : Nat) : M Unit := fun s =>
  let c := s.core.chan ch
  let mine := match c.queue with
    | q :: _ => q.by s.ctx
    | [] => false
  if c.flt && !c.offered && mine then
    .error (.trap ⟨BitVec.ofNat 8 (bits c.fault 7 0), c.faddr, w64 (bits c.fault 15 8 + 2 ^ 12 + 2 ^ 13 * ch)⟩)
  else .error (.wait .twait)

def execTwait (p : Pos) (a : BitVec 5) (ch : BitVec 2) (s : State) : Out :=
  finish p (do
    let x ← readS p 1 p.bypA a
    (fun s => if (s.core.chan ch.toNat).complete (BitVec.ofNat 32 x.toNat) then .ok ((), s)
      else chanStuck ch.toNat s)) s

def execTwaitn (p : Pos) (a : BitVec 5) (ch : BitVec 2) (s : State) : Out :=
  finish p (do
    let x ← readS p 1 p.bypA a
    (fun s => if (s.core.chan ch.toNat).own s.ctx < (if x = 0 then 1 else x.toNat) then .ok ((), s)
      else chanStuck ch.toNat s)) s

/-- QFENCE (R124): later commands on the named channels join the last command of each named channel. -/
def execQfence (p : Pos) (mask : BitVec 4) (s : State) : Out :=
  finish p (modCore (fun k =>
    let named := (List.range 4).filter (fun ch => mask.getLsbD ch)
    let js := named.filterMap (fun ch => (k.chan ch).queue.getLast?.map (fun q => (ch, q.id)))
    named.foldl (fun (x : Core) ch =>
      let c := x.chan ch
      x.setChan ch { c with joins := c.joins.filter (fun j => !js.contains j) ++ js }) k)) s

def execPbinv (p : Pos) (a : BitVec 5) (s : State) : Out :=
  finish p (do
    let x ← readS p 1 p.bypA a
    (fun s => .ok ((), { s with core := { s.core with
      pblk := s.core.pblk.filter (fun e => !(e.1 == s.ctx.launch && e.2.1 == x.toNat)) } }))) s

/-! ## The chamber bus (R220 to R222) -/

/-- The checks of a bus address (R222). -/
def busAddr (a : Word) (write : Bool) : M Nat := do
  alignTo a.toNat 256 7
  fun s =>
    let off := a.toNat % 2 ^ 21
    if a.toNat / 2 ^ 24 = 0 ∧ a.toNat / 2 ^ 21 % 8 = s.ctx.core % 8
        ∧ s.inGranules s.ctx.launch s.ctx.core off 256 then .ok (off, s)
    else .error (.trap ⟨cProtect, a, w64 (4 + wbit write)⟩)

/-- Drive 256 bytes on the lane to a core (R220): within a lockstep set the flight counts the set's issued cycles (R221). -/
def State.busSend (s : State) (dest : Nat) (bs : List Byte) : State :=
  let k := s.coreAt dest
  let recv := s.allCtxs.find? (fun c => c.core == dest && some c.slot == k.running)
  let sync := match recv with
    | some c => c.lock && s.ctx.lock && c.launch == s.ctx.launch
    | none => false
  let due := if sync then s.ctx.lclk + 8 else s.now + 8
  s.setCore { k with bus := k.bus ++ [⟨due, sync, s.core.id, bs⟩] }

/-- The cores of the chamber, other than the sender, whose context is a member (R220). -/
def State.busTargets (s : State) (g : Group) : List Nat :=
  (List.range 8).filterMap (fun i =>
    let n := 8 * (s.ctx.core / 8) + i
    if n ≠ s.ctx.core ∧ g.members.any (fun m => m.core == n) then some n else none)

def execBcast (p : Pos) (a b : BitVec 5) (s : State) : Out :=
  finish p (do
    settle false
    let x ← readS p 1 p.bypA a
    let h ← readS p 1 p.bypB b
    let off ← busAddr x false
    (fun s => match s.groupOf h with
      | none => badHandle h s
      | some g =>
        if s.closed then .error (.wait .phase)
        else match loadScr s.ctx.core off x.toNat 256 s with
          | .error e => .error e
          | .ok (bs, s) => .ok ((), (s.busTargets g).foldl (fun s n => s.busSend n bs) s))) s

/-- Whether a lane's data arrives in the bundle that a context is issuing: no bundle of a handler is one of the set's. -/
def BusData.here (b : BusData) (now : Nat) (c : Ctx) : Bool :=
  if b.byClk then c.lock && !c.sv && b.due == c.lclk else b.due == now

/-- Whether a lane's data has passed without a capture, at the end of a cycle. -/
def BusData.passed (b : BusData) (now : Nat) (c : Ctx) : Bool :=
  if b.byClk then !c.lock || decide (b.due < c.lclk) else decide (b.due ≤ now)

/-- BLATCH captures the lowest-numbered sender's arrival; every other arrival of the cycle is counted (R220). -/
def blatchM (off : Nat) : M Unit := fun s =>
  let arr := s.core.bus.filter (fun b => b.here s.now s.ctx)
  match arr with
  | [] => .ok ((), s)
  | b :: t =>
    let low := t.foldl (fun (m : BusData) x => if x.sender < m.sender then x else m) b
    let s := { s with core := { s.core with bus := s.core.bus.filter (fun x => !x.here s.now s.ctx) },
                      ctx := s.ctx.count 10 t.length }
    storeOwn off low.bytes s

def execBlatch (p : Pos) (a : BitVec 5) (s : State) : Out :=
  finish p (do
    let x ← readS p 1 p.bypA a
    let off ← busAddr x true
    -- an arrival in a PHASE window is not captured (R188)
    (fun s => if s.closed then .ok ((), s) else blatchM off s)) s

/-- Arrivals that passed without a capture are counted (R188, R220). -/
def State.busExpire (s : State) : State :=
  let gone := s.core.bus.filter (fun b => b.passed s.now s.ctx)
  gone.foldl (fun s _ => s.countCore s.core.id 10)
    { s with core := { s.core with bus := s.core.bus.filter (fun b => !b.passed s.now s.ctx) } }

end Sys2Proof.Machine
end

