-- ==== Sys2Proof/Machine/Helictite.lean ====
section
/-! DEFINITION. Helictite (spec/14 R260 to R280): seeds and signs, block entry, rotation and its inverse, quantisation,
tags, and quantised records in memory. -/

namespace Sys2Proof.Machine

/-! ## Seeds, signs, fingerprints (R260, R261) -/

/-- The second word of signs. -/
def xorshift (x : Word) : Word :=
  let x := x ^^^ (x <<< 13)
  let x := x ^^^ (x >>> 7)
  x ^^^ (x <<< 17)

/-- Whether s(i) is −1. -/
def signNeg (seed : Word) (i : Nat) : Bool :=
  if i < 64 then seed.getLsbD i else (xorshift seed).getLsbD (i % 64)

/-- The fingerprint of a seed value. -/
def fingerprint (w : Word) : Nat := bits (w * 0x9E3779B97F4A7C15) 63 53

def execSeedw (p : Pos) (k a : BitVec 5) (s : State) : Out :=
  finish p (do
    let w ← readS p 1 p.bypA a
    pushState p 1 (.seed k.toNat) (.word w)) s

def execSeedr (p : Pos) (d k : BitVec 5) (s : State) : Out :=
  finish p (do
    let c ← getCtx
    writeS p 1 d (c.sg.getD k.toNat 0)) s

/-! ## Block arithmetic (R263 to R268) -/

/-- num / den rounded to the nearest integer, ties to even, and whether anything was lost; den > 0. -/
def rneDiv (num : Int) (den : Nat) : Int × Bool :=
  let n := num.natAbs
  let q := n / den
  let r := n % den
  let up := decide (den < 2 * r) || (2 * r == den && q % 2 == 1)
  let m : Nat := if up then q + 1 else q
  (if num < 0 then -(m : Int) else m, r != 0)

/-- RNE(num · 2^sh / den). -/
def rneScaled (num : Int) (sh : Int) (den : Nat) : Int × Bool :=
  if 0 ≤ sh then rneDiv (num * (2 ^ sh.toNat : Nat)) den else rneDiv num (den * 2 ^ (-sh).toNat)

/-- The integers x(i) · 2^−e of a block of numbers, and the common exponent e. -/
def blockInts (vs : List FVal) : List Int × Int :=
  let e := vs.foldl (fun (m : Option Int) (v : FVal) => match v, m with
    | .num _ _ e, none => some e
    | .num _ _ e, some m => some (if e < m then e else m)
    | _, m => m) none
  let e := e.getD 0
  (vs.map (fun (v : FVal) => match v with
    | .num n m k => let x : Int := (m * 2 ^ (k - e).toNat : Nat)
                    if n then -x else x
    | _ => 0), e)

/-- One butterfly stage of half-length h: the sums of the pairs (i, i + h), and the differences (R264). -/
def butterfly (h : Nat) (xs : List Int) : List Int :=
  xs.zipIdx.map (fun (e : Int × Nat) =>
    if e.2 / h % 2 = 0 then e.1 + xs.getD (e.2 + h) 0 else xs.getD (e.2 - h) 0 - e.1)

/-- `n` butterfly stages from half-length h on. -/
def stages : Nat → Nat → List Int → List Int
  | 0, _, xs => xs
  | n + 1, h, xs => stages n (2 * h) (butterfly h xs)

/-- H_b · X for b = 2^n (R264). -/
def hadamard (n : Nat) (xs : List Int) : List Int := stages n 1 xs

/-- Apply the signs of a seed. -/
def applySigns (seed : Word) (xs : List Int) : List Int :=
  xs.zipIdx.map (fun (e : Int × Nat) => if signNeg seed e.2 then -e.1 else e.1)

/-- log2 of the block size of a code. -/
def logBlock (code : Nat) : Nat := code + 4

/-- NX or nothing. -/
def nxIf (b : Bool) : BitVec 5 := if b then fNX else 0

/-- Flags that a whole block or group raises count at its first element (R72, R269, log 17, DEDUCED). -/
def atFirst (fl : BitVec 5) : List (BitVec 5) → List (BitVec 5)
  | [] => []
  | f :: t => (f ||| fl) :: t

/-- Flags of two steps on the same elements. -/
def joinFlags (a b : List (BitVec 5)) : List (BitVec 5) := List.zipWith (· ||| ·) a b

/-- Entry (R263): E, the integers X(i), and the elements' NX. -/
def enterBlock (vs : List FVal) : Int × List Int × List (BitVec 5) :=
  let (ns, e) := blockInts vs
  let top := ns.foldl (fun (m : Nat) (x : Int) => Nat.max m x.natAbs) 0
  if top = 0 then (0, ns.map (fun _ => 0), ns.map (fun _ => 0))
  else
    let len : Int := (bitLen top : Int)
    let xs := ns.map (fun x => rneScaled x (23 - len) 1)
    let lim : Int := 2 ^ 23 - 1
    let ys := xs.map (fun (x : Int × Bool) =>
      if lim < x.1 then (lim, true) else if x.1 < -lim then (-lim, true) else x)
    (e + len, ys.map (·.1), ys.map (fun y => nxIf y.2))

/-- Whether a block holds a NaN or an infinity (R265). -/
def blockSpecial (vs : List FVal) : Bool := vs.any (fun (v : FVal) => match v with
  | .num _ _ _ => false
  | _ => true)

/-- A group's sidecar entry. -/
def sideEntry (zp scale : Nat) : BitVec 24 := BitVec.ofNat 24 (zp % 256 * 2 ^ 16 + scale % 2 ^ 16)

/-- The number of a zero point or a code, clamped to 0 … 2^n − 1, and whether the clamp changed it. -/
def clampCode (n : Nat) (x : Int) : Nat × Bool :=
  if x < 0 then (0, true) else if 2 ^ n - 1 < x then (2 ^ n - 1, true) else (x.toNat, false)

/-- Quantisation (R266): the sidecar entry, the codes, the elements' flags. -/
def quantise (n : Nat) (e : Int) (ys : List Int) : BitVec 24 × List Nat × List (BitVec 5) :=
  let mx := ys.foldl (fun (m x : Int) => if m < x then x else m) 0
  let mn := ys.foldl (fun (m x : Int) => if x < m then x else m) 0
  let zeros := ys.map (fun _ => 0)
  let none_ : List (BitVec 5) := ys.map (fun _ => 0)
  if mx = mn then (0, zeros, none_)
  else
    let den := 2 ^ n - 1
    let num := (mx - mn).toNat * 2 ^ 48
    let r := f16.round 0 true false false (num / den) (e - 23 - 48) (num % den != 0)
    let fl := r.2 &&& ~~~fUF
    if r.1 = 0 then (0, zeros, atFirst (fl ||| fUF) none_)
    else
      match f16.decode false r.1 with
      | .num _ ms es =>
        let sh := e - 23 - es
        let z := rneScaled (-mn) sh ms
        let zc := clampCode n z.1
        let cs := ys.map (fun y =>
          let q := rneScaled y sh ms
          let c := clampCode n (q.1 + zc.1)
          (c.1, q.2 || c.2))
        (sideEntry zc.1 r.1, cs.map (·.1), atFirst (fl ||| nxIf (z.2 || zc.2)) (cs.map (fun c => nxIf c.2)))
      | _ => (0, zeros, atFirst fl none_)

/-- The exact number num · 2^e as a value. -/
def fixedVal (num : Int) (e : Int) : FVal := .num (decide (num < 0)) num.natAbs e

/-- Whether a value is a NaN or an infinity. -/
def FVal.special : FVal → Bool
  | .num _ _ _ => false
  | _ => true

/-- One block of VNR (`sat`, R265 to R267) or VROT (R273): its sidecar entry, elements and their flags. -/
def narrowBlock (target : BitVec 5) (code : Nat) (seed : Option Word) (sat : Bool) (vs : List FVal) :
    BitVec 24 × List Nat × List (BitVec 5) :=
  let quant := decide (15 ≤ target.toNat)
  if blockSpecial vs then
    let fl := vs.map (fun v => if v.special then fNV else 0)
    (if quant then (sideEntry 0 0x7E00, vs.map (fun _ => 0), fl)
     else (0, vs.map (fun _ => (ffmt target).nanCode), fl))
  else
    let (e, xs, fl) := enterBlock vs
    let ys := match seed with
      | some w => hadamard (logBlock code) (applySigns w xs)
      | none => xs
    if quant then
      let (en, cs, fl') := quantise (fmtWidth target) e ys
      (en, cs, joinFlags fl fl')
    else
      let rs := ys.map (fun y => (ffmt target).round 0 sat false (decide (y < 0)) y.natAbs (e - 23) false)
      (0, rs.map (·.1), joinFlags fl (rs.map (·.2)))

/-- One block of VWD's inverse (R268): its elements and their flags. -/
def inverseBlock (target : BitVec 5) (code : Nat) (seed : Word) (vs : List FVal) : List Nat × List (BitVec 5) :=
  if blockSpecial vs then
    (vs.map (fun _ => (ffmt target).nanCode), vs.map (fun (v : FVal) => match v with
      | .nan sig => if sig then fNV else 0
      | .inf _ => fNV
      | _ => 0))
  else
    let (ns, e) := blockInts vs
    let zs := applySigns seed (hadamard (logBlock code) ns)
    let rs := zs.map (fun z => (ffmt target).deliver 0 false (fixedVal z (e - (logBlock code : Int))))
    (rs.map (·.1), rs.map (·.2))

/-- Cut a list into blocks of n. -/
def blocksOf {α : Type} (n : Nat) : Nat → List α → List (List α)
  | 0, _ => []
  | k + 1, l => if l.isEmpty then [] else l.take n :: blocksOf n k (l.drop n)

/-! ## Group metadata (R61 to R63) -/

/-- Whether a group's zero point and scale are valid for q8 or q4. -/
def metaOk (f : Nat) (zp scale : Nat) : Bool :=
  (f != 16 || decide (zp ≤ 15)) && decide (scale < 2 ^ 15) && (decide (scale < 0x7C00) || scale == 0x7E00)

/-- side.zp and side.scale of an entry. -/
def sideZp (e : BitVec 24) : Nat := e.toNat / 2 ^ 16
/-- side.scale. -/
def sideScale (e : BitVec 24) : Nat := e.toNat % 2 ^ 16

/-- The groups that a register of a format and a group code holds (R63). -/
def groupCount (f : BitVec 5) (grp : Nat) : Nat := 2048 / (fmtWidth f * runLen grp)

/-- Whether the first n sidecar entries are valid. -/
def sideOk (f : Nat) (n : Nat) (side : Vector (BitVec 24) 16) : Bool :=
  (side.toList.take n).all (fun e => metaOk f (sideZp e) (sideScale e))

/-- The exact value of a q8 or q4 code under a sidecar entry (R60, R62). -/
def quantVal (e : BitVec 24) (code : Nat) : FVal :=
  match f16.decode false (sideScale e) with
  | .num _ m k => fixedVal (((code : Int) - (sideZp e : Int)) * (m : Int)) k
  | _ => .nan false

/-- The format-fault trap of a tag (R279). -/
def formatTrap {α : Type} (t : BitVec 24) : M α := trapM cFormat 0 (w64 t.toNat)

/-- Registers per run of a run code (R270). -/
def runRegs (run : BitVec 2) : Nat := 2 ^ run.toNat

/-- The latency of a block code (R270). -/
def blockLat (block : BitVec 2) : Nat := Nat.max 10 (9 + block.toNat)

/-- The registers of a run of n, read by name (R270). -/
def readRun (n : Nat) (first : BitVec 5) : M (List VVal) := fun s =>
  .ok ((List.range n).map (fun k => s.ctx.vec (first.toNat + k)), s)

/-- Write a run of destinations; the first carries the flags. The results of a run are several of one slot in one cycle, and
R28 does not say which of them b2 holds then: the model lets them land in ascending order, so the last one stays (log 22,
DESIGN CHOICE). -/
def writeRun (p : Pos) (lat : Nat) (flags : BitVec 5) : Nat → List VVal → M Unit
  | _, [] => pure ()
  | d, v :: t => do
    writeV p lat (BitVec.ofNat 5 d) v fullMask flags
    writeRun p lat 0 (d + 1) t

/-- A sidecar from its entries. -/
def sideOf (es : List (BitVec 24)) : Vector (BitVec 24) 16 := Vector.ofFn (fun i : Fin 16 => es.getD i 0)

/-! ## VNR (R271) -/

/-- The rotation that VNR's result carries: rot, seed slot, fingerprint, and the seed when it rotates here. -/
def vnrRot (c : Ctx) (src : BitVec 24) (block : BitVec 2) (group rotate : Bool) (seed : BitVec 4) :
    Option (Nat × Nat × Nat × Option Word) :=
  if tagRot src != 0 then
    if rotate || block.toNat != tagRot src then none else some (tagRot src, tagSeed src, tagFp src, none)
  else if rotate then
    let w := c.sg.getD seed.toNat 0
    some (block.toNat, seed.toNat, fingerprint w, some w)
  else if !group && block != 0 then none
  else some (0, 0, 0, none)

def execVnr (p : Pos) (vd va : BitVec 5) (run block : BitVec 2) (group rotate : Bool) (seed : BitVec 4) (fmt : BitVec 5)
    (s : State) : Out :=
  finish p (do
    let n := runRegs run
    let regs ← readRun n va
    let c ← getCtx
    let src := (regs.getD 0 VVal.zero).tag
    (match regs.find? (fun v => v.tag != src || tagGrp v.tag != 0 || !tagOk v.tag) with
     | some v => tagTrap src v.tag
     | none => pure ())
    let f := tagF src
    (if !(fmtIn f 9 12) || fmtWidth f != n * fmtWidth fmt || va.toNat % n != 0
        || (decide (15 ≤ fmt.toNat)) != group then formatTrap src else pure ())
    match vnrRot c src block group rotate seed with
    | none => formatTrap src
    | some (rot, sd, fp, w) =>
      let ws := fmtWidth f
      let xs := regs.flatMap (fun v => v.lanes ws)
      let tag := mkTag fmt.toNat (if group then block.toNat else 0) rot sd fp
      (if block = 0 then (do
        let rs := xs.map (convert f fmt 0 false)
        fpTrap p (rs.map (·.2))
        writeV p (blockLat block) vd (VVal.mk' (dataOfLanes (fmtWidth fmt) (rs.map (·.1))) tag) fullMask
          (orFlags (rs.map (·.2))))
       else (do
        let b := runLen block.toNat
        let rs := (blocksOf b 16 (xs.map ((ffmt f).decode false))).map (narrowBlock fmt block.toNat w true)
        let side := if group then sideOf (rs.map (·.1)) else sideOf []
        fpTrap p (rs.flatMap (·.2.2))
        writeV p (blockLat block) vd ⟨dataOfLanes (fmtWidth fmt) (rs.flatMap (·.2.1)), tag, side⟩ fullMask
          (orFlags (rs.flatMap (·.2.2)))))) s

/-! ## VWD (R272) -/

/-- The exact values of a register that VWD widens. -/
def wideVals (v : VVal) : List FVal :=
  let f := tagF v.tag
  let g := runLen (tagGrp v.tag)
  (v.lanes (fmtWidth f)).zipIdx.map (fun (e : Nat × Nat) =>
    if 15 ≤ f.toNat then quantVal (v.side.getD (e.2 / g) 0) e.1 else (ffmt f).decode false e.1)

/-- One element of VWD without the inverse: R65 for a floating-point source, else RNE of the decoded value. -/
def widenLane (f fmt : BitVec 5) (v : FVal) (code : Nat) : Nat × BitVec 5 :=
  if 15 ≤ f.toNat then (ffmt fmt).deliver 0 false v else convert f fmt 0 false code

def execVwd (p : Pos) (vd va : BitVec 5) (run block : BitVec 2) (rotate : Bool) (seed : BitVec 4) (fmt : BitVec 5)
    (s : State) : Out :=
  finish p (do
    let n := runRegs run
    let x ← readV p.bypA va
    let c ← getCtx
    let src := x.tag
    let f := tagF src
    (if !tagOk src then tagTrap src src else pure ())
    -- the rules of R270 follow the mismatch of R272, whose code is the smaller (R93)
    let shape : M Unit :=
      if !(fmtIn f 10 16) || fmtWidth fmt != n * fmtWidth f || vd.toNat % n != 0 then formatTrap src else pure ()
    (if tagGrp src != 0 && !sideOk f.toNat (groupCount f (tagGrp src)) x.side then formatTrap src else pure ())
    let vals := wideVals x
    let wd := fmtWidth fmt
    let per := 2048 / wd
    (if rotate then (do
      (if tagRot src = 0 ∨ block.toNat ≠ tagRot src then formatTrap src else pure ())
      let w := c.sg.getD seed.toNat 0
      (if fingerprint w ≠ tagFp src then
         tagTrap src (mkTag (tagFmt src) (tagGrp src) (tagRot src) (tagSeed src) (fingerprint w)) else pure ())
      shape
      let b := runLen block.toNat
      let rs := (blocksOf b 16 vals).map (inverseBlock fmt block.toNat w)
      fpTrap p (rs.flatMap (·.2))
      writeRun p (blockLat block) (orFlags (rs.flatMap (·.2))) vd.toNat
        ((blocksOf per n (rs.flatMap (·.1))).map (fun l => VVal.mk' (dataOfLanes wd l) (fmtTag fmt))))
     else (do
      (if block ≠ 0 then formatTrap src else pure ())
      shape
      let rs := (vals.zip (x.lanes (fmtWidth f))).map (fun (e : FVal × Nat) => widenLane f fmt e.1 e.2)
      fpTrap p (rs.map (·.2))
      writeRun p (blockLat block) (orFlags (rs.map (·.2))) vd.toNat
        ((blocksOf per n (rs.map (·.1))).map (fun l => VVal.mk' (dataOfLanes wd l)
          (mkTag fmt.toNat 0 (tagRot src) (tagSeed src) (tagFp src))))))) s

/-! ## VROT (R273) -/

def execVrot (p : Pos) (vd va : BitVec 5) (block : BitVec 2) (seed : BitVec 4) (fmt : BitVec 5) (s : State) : Out :=
  finish p (do
    let x ← readV p.bypA va
    let c ← getCtx
    let src := x.tag
    (if !tagOk src || tagRot src != 0 || tagGrp src != 0 || (src != 0 && tagFmt src != fmt.toNat) then
       tagTrap (fmtTag fmt) src else pure ())
    let w := fmtWidth fmt
    let b := runLen block.toNat
    (if 2048 / w < b then formatTrap src else pure ())
    let sd := c.sg.getD seed.toNat 0
    let rs := (blocksOf b 16 ((x.lanes w).map ((ffmt fmt).decode false))).map
      (narrowBlock fmt block.toNat (some sd) false)
    fpTrap p (rs.flatMap (·.2.2))
    writeV p (blockLat block) vd
      (VVal.mk' (dataOfLanes w (rs.flatMap (·.2.1))) (mkTag fmt.toNat 0 block.toNat seed.toNat (fingerprint sd)))
      fullMask (orFlags (rs.flatMap (·.2.2)))) s

/-! ## Setting and reading tags (R274, R275) -/

def execVtag (p : Pos) (vd va : BitVec 5) (rot grp : BitVec 2) (seed : BitVec 4) (fmt : BitVec 5) (s : State) : Out :=
  finish p (do
    let x ← readV p.bypA va
    let c ← getCtx
    let fp := if rot = 0 then 0 else fingerprint (c.sg.getD seed.toNat 0)
    let new := mkTag fmt.toNat grp.toNat rot.toNat seed.toNat fp
    (if !tagOk new then formatTrap new else pure ())
    let n := groupCount fmt grp.toNat
    (if grp != 0 && !sideOk fmt.toNat n x.side then formatTrap new else pure ())
    writeV p 2 vd ⟨x.data, new, if grp = 0 then sideOf [] else sideOf (x.side.toList.take n)⟩) s

def execVtgr (p : Pos) (d a : BitVec 5) (s : State) : Out :=
  finish p (do
    let x ← readV false a
    writeS p 3 d (w64 x.tag.toNat)) s

/-! ## Quantised records (R276, R277) -/

/-- The checks that LDQ and STQ share: alignment, then the expected tag. -/
def recordTag (ea tg : Word) : M (BitVec 24) := do
  alignTo ea.toNat 64 4
  let t := BitVec.ofNat 24 tg.toNat
  (if 2 ^ 24 ≤ tg.toNat || !tagOk t || !(decide (tagFmt t = 15) || decide (tagFmt t = 16)) then formatTrap t else pure t)

/-- The metadata words of a record as sidecar entries; the first invalid one traps at its address. -/
def recordSide (ea : Word) (t : BitVec 24) : Nat → List Word → M (List (BitVec 24))
  | _, [] => pure []
  | j, w :: ws =>
    if bits w 31 24 != 0 || !metaOk (tagFmt t) (bits w 23 16) (bits w 15 0) then
      trapM cFormat (ea + w64 (256 + 4 * j)) (w64 t.toNat)
    else do
      let r ← recordSide ea t (j + 1) ws
      pure (sideEntry (bits w 23 16) (bits w 15 0) :: r)

/-- The 32-bit words of a list of bytes. -/
def words32 : Nat → List Byte → List Word
  | 0, _ => []
  | n + 1, bs => w64 (natOfBytes (bs.take 4)) :: words32 n (bs.drop 4)

/-- The metadata words of a record one by one, from word j on, up to the first that cannot be read: an invalid one traps (R277). -/
def recordPrefix (ea : Word) (t : BitVec 24) (pol : Policy) : Nat → Nat → M Unit
  | 0, _ => pure ()
  | n + 1, j => fun s => match loadFrom 8 (ea.toNat + 256 + 4 * j) 4 4 2 pol false 6 9 s with
    | .ok ((bs, _), s') => (do
        let _ ← recordSide ea t j (words32 1 bs)
        recordPrefix ea t pol n (j + 1) : M Unit) s'
    | .error _ => .ok ((), s)

/-- The metadata words of a record, read and checked (R61): an invalid one comes before every fault of the codes, since its
code is the smaller (R93), and before those of later words; where a word before it cannot be read, the whole record's access decides
which fault is taken. -/
def recordMeta (ea : Word) (t : BitVec 24) (n : Nat) (pol : Policy) : M (List (BitVec 24) × Nat) := fun s =>
  match loadFrom 8 (ea.toNat + 256) (4 * n) 4 2 pol false 6 9 s with
  | .ok ((bs, lat), s) => (do
      let side ← recordSide ea t 0 (words32 n bs)
      pure (side, lat) : M (List (BitVec 24) × Nat)) s
  | .error (.wait k) => .error (.wait k)
  | .error (.send k f) => .error (.send k f)
  | .error e => (do
      recordPrefix ea t pol n 0
      let _ ← loadM ea.toNat (256 + 4 * n) 64 4 pol false 6 9
      (fun _ => .error e) : M (List (BitVec 24) × Nat)) s

def execLdq (p : Pos) (d a b : BitVec 5) (pol : BitVec 3) (s : State) : Out :=
  finish p (do
    let ea ← readS p 6 p.bypA a
    let tg ← readS p 6 p.bypB b
    let c ← getCtx
    let t ← recordTag ea tg
    let n := groupCount (tagF t) (tagGrp t)
    let fp := fingerprint (c.sg.getD (tagSeed t) 0)
    (if tagRot t ≠ 0 ∧ fp ≠ tagFp t then
       tagTrap t (mkTag (tagFmt t) (tagGrp t) (tagRot t) (tagSeed t) fp) else pure ())
    let (side, lat) ← recordMeta ea t n (policyOf pol)
    let (bs, lat') ← loadM ea.toNat 256 64 4 (policyOf pol) false 6 9
    writeV p (Nat.max lat lat') d ⟨dataOfBytes bs, t, sideOf side⟩) s

def execStq (p : Pos) (d a b : BitVec 5) (pol : BitVec 3) (s : State) : Out :=
  finish p (do
    let ea ← readS p 1 p.bypA a
    let tg ← readS p 1 p.bypB b
    let v ← readV false d
    let t ← recordTag ea tg
    (if v.tag ≠ t then tagTrap t v.tag else pure ())
    let n := groupCount (tagF t) (tagGrp t)
    let words := (List.range 16).flatMap (fun j =>
      bytesOfNat 4 (if j < n then (v.side.getD j 0).toNat else 0))
    storeM ea.toNat 64 4 (policyOf pol) false (v.bytes ++ words)) s

end Sys2Proof.Machine
end

