-- ==== Sys2Proof/Machine/Matrix.lean ====
section
/-! DEFINITION. The matrix array and the accumulator store (spec/15 R281 to R300; spec/04 R77): the array mode, edge
latches, descriptors, beats, drains and fills, and the rows that land later. -/

namespace Sys2Proof.Machine

/-! ## Elements -/

/-- The elements of width w (4, 8 or 16) of a list of bytes, ascending (R57). -/
def elemsOf (w : Nat) (bs : List Byte) : List Nat :=
  if w = 4 then bs.flatMap (fun b => [b.toNat % 16, b.toNat / 16])
  else if w = 8 then bs.map (·.toNat)
  else (halvesOfBytes (bs.length / 2) bs).map (·.toNat)

/-- Bytes of a latch row of elements of width w. -/
def rowBytes (w : Nat) : Nat := 24 * w

/-- Row k of a latch as bytes of elements of width w; a row never written reads as zero (R283). -/
def Latch.row (l : Latch) (w k : Nat) : List Byte :=
  match l.rows.find? (fun e => e.1 == k) with
  | none => List.replicate (rowBytes w) 0
  | some e => if e.2.length = rowBytes w then e.2 else (List.range (rowBytes w)).map (Config.staleByte e.2 w)

/-- The per-column metadata of group j (R283). -/
def Latch.meta_ (l : Latch) (j : Nat) : List (BitVec 24) := look l.cols j (List.replicate 192 0)

/-- A latch write takes effect (R289). -/
def Latch.write (l : Latch) (x : LatchWrite) : Latch :=
  match x.tag with
  | some t =>
    let old := l.row (fmtWidth (tagF t)) x.row
    { l with tag := t, rows := put l.rows x.row (old.take x.keep ++ x.bytes ++ old.drop (x.keep + x.bytes.length)) }
  | none => { l with cols := put l.cols x.row x.cols }

/-- A tile's row of 192 words (R284). -/
def Tile.row (t : Tile) (i : Nat) : List (BitVec 32) := look t.rows i (List.replicate 192 0)

/-! ## The sums of a beat (R77, R290) -/

/-- Add one row's terms to a list of columns. -/
def addTerms (a : Int) (row : List Int) (acc : List Int) : List Int := List.zipWith (fun s b => s + a * b) acc row

/-- The integer sums Σ a(k) · B(k, n) of every column. -/
def intSums (as_ : List Int) (rows : List (List Int)) : List Int :=
  (as_.zip rows).foldl (fun acc (e : Int × List Int) => addTerms e.1 e.2 acc) (List.replicate 192 0)

/-- An exact product in a beat: a NaN of either kind, and 0 × ∞, set NV (R290). -/
def beatProd (a b : FVal) : FVal × BitVec 5 :=
  let r := a.mul b
  (r.1, if r.1.isNan then fNV else r.2)

/-- The exact sums of products of every column, with NV. -/
def floatSums (as_ : List FVal) (rows : List (List FVal)) : List (FVal × BitVec 5) :=
  let first := fun (e : FVal × List FVal) => e.2.map (beatProd e.1)
  match as_.zip rows with
  | [] => []
  | e :: t => t.foldl (fun acc (e : FVal × List FVal) =>
      List.zipWith (fun (s x : FVal × BitVec 5) =>
        let r := s.1.add 0 x.1
        (r.1, s.2 ||| x.2 ||| r.2)) acc (first e)) (first e)

/-- The f32 element that a floating-point beat leaves, and its flags. -/
def floatElem (acc : BitVec 32) (sum : FVal × BitVec 5) : BitVec 32 × BitVec 5 :=
  let r := (f32.decode false acc.toNat).add 0 sum.1
  let d := f32.deliver 0 false r.1
  (BitVec.ofNat 32 d.1, sum.2 ||| r.2 ||| d.2)

/-- One group's addition to an element (R77): RNE(acc + RNE(d · sA · sB)). The model chooses (log 114, DESIGN CHOICE): a NaN
group sets no flag of its own. -/
def groupElem (sa : Nat) (acc : BitVec 32) (d : Int) (mb : BitVec 24) : BitVec 32 × BitVec 5 :=
  match f16.decode false sa, f16.decode false (sideScale mb) with
  | .num _ ma ea, .num _ mb eb =>
    let t := f32.deliver 0 false (fixedVal (d * (ma : Int) * (mb : Int)) (ea + eb))
    let r := (f32.decode false acc.toNat).add 0 (f32.decode false t.1)
    let x := f32.deliver 0 false r.1
    (BitVec.ofNat 32 x.1, t.2 ||| r.2 ||| x.2)
  | _, _ => (BitVec.ofNat 32 f32.nanCode, (f32.decode false acc.toNat).nv)

/-- The grouped additions, group by group. -/
def groupSums (g : Nat) (codes : List Nat) (rows : List (List Nat)) (latch : Latch) :
    Nat → List (BitVec 24) → List (BitVec 32 × BitVec 5) → List (BitVec 32 × BitVec 5)
  | _, [], acc => acc
  | j, ma :: ms, acc =>
    let as_ := ((codes.drop (j * g)).take g).map (fun (c : Nat) => (c : Int) - (sideZp ma : Int))
    let mb := latch.meta_ j
    let zbs := mb.map (fun m => (sideZp m : Int))
    let bs := ((rows.drop (j * g)).take g).map (fun (r : List Nat) =>
      List.zipWith (fun (c : Nat) (z : Int) => (c : Int) - z) r zbs)
    let ds := intSums as_ bs
    let next := List.zipWith (fun (x : BitVec 32 × BitVec 5) (e : Int × BitVec 24) =>
      let r := groupElem (sideScale ma) x.1 e.1 e.2
      (r.1, x.2 ||| r.2)) acc (ds.zip mb)
    groupSums g codes rows latch (j + 1) ms next

/-- The row that a beat leaves, and its flags (R290). -/
def beatRow (m : ArrayMode) (rowA : List Byte) (metaA : List (BitVec 24)) (latch : Latch) (acc : List (BitVec 32)) :
    List (BitVec 32) × BitVec 5 :=
  let w := fmtWidth m.fb
  let as_ := elemsOf w rowA
  let rows := (List.range (1024 / w)).map (fun k => elemsOf w (latch.row w k))
  if m.grp != 0 then
    let r := groupSums (runLen m.grp.toNat) as_ rows latch 0 metaA (acc.map (fun x => (x, 0)))
    (r.map (·.1), orFlags (r.map (·.2)))
  else if isFloat m.fa then
    let sums := floatSums (as_.map ((ffmt m.fa).decode false)) (rows.map (fun r => r.map ((ffmt m.fb).decode false)))
    let r := List.zipWith floatElem acc sums
    (r.map (·.1), orFlags (r.map (·.2)))
  else
    let sums := intSums (as_.map (fun c => intVal m.fa c - m.zA)) (rows.map (fun r => r.map (fun c => intVal m.fb c - m.zB)))
    (List.zipWith (fun x s => x + BitVec.ofInt 32 s) acc sums, 0)

/-- A row write lands in its tile: the row, and the flags it raises (R284, R290, R292 to R294). -/
def Tile.land (t : Tile) (b : Beat) : Tile × BitVec 5 :=
  let old := t.row b.row
  match b.kind with
  | .feed ovw m rowA metaA latch =>
    let r := beatRow m rowA metaA latch (if ovw then List.replicate 192 0 else old)
    ({ t with rows := put t.rows b.row r.1 }, r.2)
  | .words col ws =>
    ({ t with rows := put t.rows b.row (old.take col ++ ws ++ old.drop (col + ws.length)) }, 0)

/-- The row writes that are due land, in issue order; their flags enter `fpflags` (R71, R287, R296). -/
def State.landRows (s : State) : State :=
  let clk := s.ctx.clk
  let due := s.core.beats.filter (fun b => decide (b.due ≤ clk))
  let s := { s with core := { s.core with beats := s.core.beats.filter (fun b => decide (clk < b.due)) } }
  due.foldl (fun s (b : Beat) =>
    let r := (s.core.tiles.getD b.tile ⟨0, []⟩).land b
    { s with core := { s.core with tiles := s.core.tiles.setIfInBounds b.tile r.1 },
             ctx := { s.ctx with fpflags := s.ctx.fpflags ||| r.2 } }) s

/-- The latch writes that are due take effect (R289, R295). -/
def State.landLatches (s : State) : State :=
  let clk := s.ctx.clk
  let due := s.core.latchW.filter (fun b => decide (b.due ≤ clk))
  let s := { s with core := { s.core with latchW := s.core.latchW.filter (fun b => decide (clk < b.due)) } }
  due.foldl (fun s (x : LatchWrite) =>
    { s with core := { s.core with el := s.core.el.setIfInBounds x.latch ((s.core.el.getD x.latch Latch.zero).write x) } })
    s

/-! ## Descriptors (R285, R286) -/

/-- A descriptor pair as read at issue. -/
structure Desc where
  reg  : Nat
  w0   : Word
  w1   : Word
  deriving DecidableEq, Repr

/-- dw.base. -/
def Desc.base (d : Desc) : Nat := bits d.w0 63 32
/-- dw.tag. -/
def Desc.tag (d : Desc) : BitVec 24 := BitVec.ofNat 24 (bits d.w1 44 21)
/-- dw.bank. -/
def Desc.bank (d : Desc) : Nat := bits d.w1 20 17
/-- dw.rows. -/
def Desc.rows (d : Desc) : Nat := bits d.w1 16 1
/-- dw.auto. -/
def Desc.auto (d : Desc) : Bool := bitAt d.w1 0

/-- The pair named, its words as they stand. -/
def Ctx.desc (c : Ctx) (reg : BitVec 5) : Desc := ⟨reg.toNat, c.scalar reg.toNat, c.scalar (reg.toNat + 1)⟩

/-- Read and check a pair (R285, R298). -/
def readDesc (reg : BitVec 5) : M Desc := do
  let c ← getCtx
  let d := c.desc reg
  trapIf (bits d.w1 63 45 != 0 || !tagOk d.tag || (d.auto && d.rows == 0)) cFormat 0 (w64 d.tag.toNat)
  alignTo d.base 64 4
  trapIf (decide (2 ^ 24 ≤ d.base)) cProtect (w64 d.base) 4
  pure d

/-- The addresses of the logical chunks 0 to m − 1 (R286). -/
def Desc.chunks (d : Desc) (m : Nat) : List Nat :=
  (List.range m).map (fun q => (d.base + 64 * ((q + d.bank * (d.rows % 32)) % m)) % 2 ^ 32)

/-- The core and offset that a chunk's address names (R12, R286). -/
def chunkSpot (own a : Nat) : Nat × Nat := (8 * (own / 8) + a / 2 ^ 21 % 8, a % 2 ^ 21)

/-- Check and read the chunks of a descriptor read, `n` bytes from the first address on: the scratchpad as it stands, without the
slot-1 stores on their way to it (R192). -/
def readChunks : Nat → List Nat → M (List Byte)
  | _, [] => pure []
  | n, a :: rest => do
    let c ← getCtx
    let k := Nat.min 64 n
    let (core, off) := chunkSpot c.core a
    fun (s : State) =>
      if 2 ^ 24 ≤ a ∨ !s.inGranules c.launch core off k then .error (.trap (protTrap a 4))
      else if s.closedCore core then .error (.wait .phase)
      else (do
        let t ← readChunks (n - k) rest
        pure (s.scrRead core off k ++ t) : M (List Byte)) s

/-- The lowest chunk address that holds a poisoned word among the chunks read (R206). -/
def State.chunkPoison (s : State) (as_ : List Nat) (n : Nat) : Option Nat :=
  let bad := as_.zipIdx.filterMap (fun (e : Nat × Nat) =>
    let (core, off) := chunkSpot s.ctx.core e.1
    (s.scrPoisoned core off (Nat.min 64 (n - 64 * e.2))).map (fun key => e.1 - off + (key - scrKey core 0)))
  bad.foldl (fun (m : Option Nat) a => match m with
    | none => some a
    | some b => some (Nat.min a b)) none

/-- Read n bytes through a descriptor (R286). -/
def descRead (d : Desc) (n : Nat) : M (List Byte) := do
  let as_ := d.chunks ((n + 63) / 64)
  let bs ← readChunks n as_
  fun (s : State) => match s.chunkPoison as_ n with
    | some a => .error (.trap ⟨cPoison, w64 a, 0⟩)
    | none => .ok (bs, s)

/-- The advance of an auto-incrementing pair: both registers land at t + 1 and enter no latch (R286). -/
def descAdvance (p : Pos) (d : Desc) : M Unit := fun s =>
  if d.auto then
    let step := if 1 < d.rows then bits d.w0 31 16 else bits d.w0 15 0
    let w0 := w64 ((d.base + 64 * step) % 2 ^ 32 * 2 ^ 32 + bits d.w0 31 0)
    let w1 := (d.w1 &&& ~~~(0x1FFFE : Word)) ||| w64 ((d.rows - 1) * 2)
    let s := s.push p 1 (.scalar (s.ctx.phys d.reg)) (.word w0) 0 true false
    Except.ok ((), s.push p 1 (.scalar (s.ctx.phys (d.reg + 1))) (.word w1) 0 true false)
  else .ok ((), s)

/-! ## Tiles and rows in flight (R82, R296) -/

/-- The physical tile of a name. -/
def Ctx.tile (c : Ctx) (k : Nat) : Option Nat := c.tiles[k]?

/-- The tile named, or the protection trap (R82). -/
def tileOf (tile : BitVec 3) : M Nat := do
  let c ← getCtx
  match c.tile tile.toNat with
  | some k => pure k
  | none => trapM cProtect 0 0

/-- The tile's present contents. -/
def getTile (k : Nat) : M Tile := fun s => .ok (s.core.tiles.getD k ⟨0, []⟩, s)

/-- Set a tile's tag, in the issue cycle (R284). -/
def setTileTag (k : Nat) (t : BitVec 24) : M Unit :=
  modCore (fun c => { c with tiles := c.tiles.setIfInBounds k { c.tiles.getD k ⟨0, []⟩ with tag := t } })

/-- Whether a beat to a row of a tile has not landed. -/
def Beat.flying (b : Beat) (tile row clk : Nat) : Bool :=
  b.tile == tile && b.row == row && decide (clk < b.due) && (match b.kind with
    | .feed .. => true
    | _ => false)

/-- The accumulator hazard (R296): rows first … first + n − 1 of a tile that are in flight trap in exposed mode and are
waited for in interlocked mode. -/
def hazard (tile : BitVec 3) (first n : Nat) : M Unit := fun s =>
  match s.ctx.tile tile.toNat with
  | none => .ok ((), s)
  | some k =>
    match ((List.range n).map (first + ·)).find? (fun r => s.core.beats.any (fun b => b.flying k r s.ctx.clk)) with
    | none => .ok ((), s)
    | some r =>
      if s.ctx.exposed then .error (.trap ⟨cHazard, 0, w64 (tile.toNat + 8 * r)⟩)
      else .error (.wait .interlock)

/-- A row write leaves for its tile. -/
def pushBeat (lat tile row : Nat) (k : BeatKind) : M Unit := fun s =>
  .ok ((), { s with core := { s.core with beats := s.core.beats ++ [⟨s.ctx.clk + lat, s.ctx.seq, tile, row, k⟩] } })

/-! ## MSET (R288) -/

/-- A zero point byte read as i8 or n8. -/
def zeroPoint (f : BitVec 5) (b : Nat) : Int := if isSigned f then sval 8 b else (b : Int)

def execMset (p : Pos) (fa fb : BitVec 5) (grp : BitVec 2) (zp : Bool) (reg : BitVec 5) (s : State) : Out :=
  finish p (do
    let z ← (if zp then readS p 1 false reg else pure 0)
    trapIf (bits z 63 16 != 0) cFormat 0 0
    let m : ArrayMode := ⟨fa, fb, grp, if zp then zeroPoint fa (bits z 7 0) else 0,
      if zp then zeroPoint fb (bits z 15 8) else 0⟩
    pushState p 1 .mode (.mode m)) s

/-! ## MLOAD (R289) -/

/-- A latch write leaves for its latch. In interlocked mode it does not pass an earlier one to that latch (R295). -/
def pushLatch (lat : Nat) (latch : BitVec 2) (row : Nat) (tag : Option (BitVec 24)) (keep : Nat) (bytes : List Byte)
    (cols : List (BitVec 24)) : M Unit := fun s =>
  let due := s.ctx.clk + lat
  if !s.ctx.exposed && s.core.latchW.any (fun x => x.latch == latch.toNat && decide (due < x.due)) then
    .error (.wait .interlock)
  else
    Except.ok ((), { s with core := { s.core with
      latchW := s.core.latchW ++ [⟨due, latch.toNat, row, tag, keep, bytes, cols⟩] } })

/-- Whether a metadata word is valid for a format (R61, R63). -/
def metaWordOk (f : BitVec 5) (w : Word) : Bool :=
  bits w 31 24 == 0 && metaOk f.toNat (bits w 23 16) (bits w 15 0)

/-- The sidecar entry of a metadata word. -/
def metaEntry (w : Word) : BitVec 24 := sideEntry (bits w 23 16) (bits w 15 0)

/-- The first invalid one of the `n` metadata words that stand from byte `first` of a span of chunks, among those that can be
read; the format fault of one comes before the protection and poison of another chunk (R93). -/
def State.metaFault (s : State) (f : BitVec 5) (as_ : List Nat) (first n : Nat) : Option Nat :=
  (List.range n).findSome? (fun j =>
    let a := as_.getD ((first + 4 * j) / 64) 0 + (first + 4 * j) % 64
    let (core, off) := chunkSpot s.ctx.core a
    if decide (2 ^ 24 ≤ a) || !s.inGranules s.ctx.launch core off 4 || s.closedCore core
        || (s.scrPoisoned core off 4).isSome || (words32 1 (s.scrRead core off 4)).all (metaWordOk f) then none
    else some a)

/-- The format fault of an invalid metadata word, at its address. -/
def checkMeta (d : Desc) (f : BitVec 5) (as_ : List Nat) (first n : Nat) : M Unit := fun s =>
  match s.metaFault f as_ first n with
  | some a => .error (.trap ⟨cFormat, w64 a, w64 d.tag.toNat⟩)
  | none => .ok ((), s)

def execMload (p : Pos) (latch : BitVec 2) (desc meta_ : Bool) (row : BitVec 8) (half : Bool) (reg fmt : BitVec 5)
    (s : State) : Out :=
  finish p (
    if meta_ then (do
      let d ← readDesc reg
      checkMeta d fmt (d.chunks 12) 0 192
      let bs ← descRead d 768
      pushLatch 12 latch row.toNat none 0 [] ((words32 192 bs).map metaEntry)
      descAdvance p d)
    else if desc then (do
      let c ← getCtx
      let t := (c.desc reg).tag
      (if tagFmt t ≠ fmt.toNat then tagTrap (fmtTag fmt) t else pure ())
      let d ← readDesc reg
      let bs ← descRead d (rowBytes (fmtWidth fmt))
      pushLatch 12 latch row.toNat (some d.tag) 0 bs []
      descAdvance p d)
    else (do
      let v ← readV p.bypA reg
      (if (v.tag ≠ 0 ∧ tagFmt v.tag ≠ fmt.toNat) ∨ tagGrp v.tag ≠ 0 ∨ tagRot v.tag ≠ 0 ∨ !tagOk v.tag then
         tagTrap (fmtTag fmt) v.tag else pure ())
      let n := if fmtWidth fmt = 16 then (if half then 128 else 256) else 192
      pushLatch 2 latch row.toNat (some (fmtTag fmt)) (if half then 256 else 0) (v.bytes.take n) [])) s

/-! ## MFEED (R290) -/

/-- The tag check of one operand against the mode. -/
def feedTag (f : BitVec 5) (grp : BitVec 2) (t : BitVec 24) : M Unit :=
  if (tagFmt t ≠ 0 ∧ tagFmt t ≠ f.toNat) ∨ (grp ≠ 0 ∧ (tagFmt t = 0 ∨ tagGrp t ≠ grp.toNat)) then
    tagTrap (mkTag f.toNat grp.toNat 0 0 0) t
  else pure ()


/-- The array mode and a latch, as they stand. -/
def getArray (latch : BitVec 2) : M (Option ArrayMode × Latch) := fun s =>
  .ok ((s.core.mode, s.core.el.getD latch.toNat Latch.zero), s)

/-- In interlocked mode a beat waits for the loads of its latch (R295, R296). -/
def latchReady (latch : BitVec 2) : M Unit := fun s =>
  if !s.ctx.exposed && s.core.latchW.any (fun x => x.latch == latch.toNat) then .error (.wait .interlock)
  else .ok ((), s)

/-- The beat's A row from a vector register: its bytes and metadata entries, each valid (R61, R63). -/
def feedVec (f : BitVec 5) (v : VVal) (half : Bool) (groups : Nat) : M (List Byte × List (BitVec 24)) :=
  let h := if half then 1 else 0
  let ws := (List.range groups).map (fun j => w64 (v.side.getD (h * groups + j) 0).toNat)
  if ws.all (metaWordOk f) then pure ((v.bytes.drop (128 * h)).take 128, ws.map metaEntry) else formatTrap v.tag

/-- The beat's A row through a descriptor: 128 bytes and the metadata words behind them (R286). -/
def feedDesc (p : Pos) (d : Desc) (groups : Nat) : M (List Byte × List (BitVec 24)) := do
  let bs ← descRead d (128 + 4 * groups)
  descAdvance p d
  pure (bs.take 128, (words32 groups (bs.drop 128)).map metaEntry)

/-- The tags of a beat: of its operands, and the tile's against the result's where the beat accumulates (R290). -/
def feedTags (m : ArrayMode) (ta tb : BitVec 24) (tile : Option (BitVec 24)) : M (BitVec 24) := do
  feedTag m.fa m.grp ta
  feedTag m.fb m.grp tb
  (if tagRot ta ≠ tagRot tb ∨ (tagRot ta ≠ 0 ∧ tagFp ta ≠ tagFp tb) then tagTrap ta tb else pure ())
  let res := mkTag (if isFloat m.fa || m.grp != 0 then 10 else 3) (tagRot ta) 0 (tagSeed ta) (tagFp ta)
  match tile with
  | some t => if t != 0 && (t ^^^ res) &&& ~~~(0x1E00 : BitVec 24) != 0 then tagTrap t res else pure res
  | none => pure res

/-- The tag of a named tile, where the tile is allotted. -/
def State.tileTag (s : State) (tile : BitVec 3) : Option (BitVec 24) :=
  (s.ctx.tile tile.toNat).map (fun k => (s.core.tiles.getD k ⟨0, []⟩).tag)

def execMfeed (p : Pos) (latch : BitVec 2) (tile : BitVec 3) (row : BitVec 7) (ovw desc half : Bool) (reg : BitVec 5)
    (s : State) : Out :=
  finish p (do
    (if ovw then hazard tile row.toNat 1 else pure ())
    let (mode, e) ← getArray latch
    match mode with
    | none => trapM cFormat 0 0
    | some m => do
      latchReady latch
      let c ← getCtx
      let groups := if m.grp = 0 then 0 else 1024 / fmtWidth m.fa / runLen m.grp.toNat
      let told ← (fun s => .ok (if ovw then none else s.tileTag tile, s) : M (Option (BitVec 24)))
      if desc then (do
        let res ← feedTags m (c.desc reg).tag e.tag told
        let d ← readDesc reg
        checkMeta d m.fa (d.chunks ((128 + 4 * groups + 63) / 64)) 128 groups
        let k ← tileOf tile
        let (rowA, metaA) ← feedDesc p d groups
        setTileTag k res
        pushBeat 24 k row.toNat (.feed ovw m rowA metaA e))
      else (do
        let v ← readV p.bypA reg
        (if !tagOk v.tag then tagTrap (mkTag m.fa.toNat m.grp.toNat 0 0 0) v.tag else pure ())
        let res ← feedTags m v.tag e.tag told
        let (rowA, metaA) ← feedVec m.fa v half groups
        let k ← tileOf tile
        setTileTag k res
        pushBeat 24 k row.toNat (.feed ovw m rowA metaA e))) s

/-! ## MDRAIN, MFILL, MZERO (R292 to R294) -/

/-- One element drained: b = 2^lb is the tile's pending factor (R292). -/
def drainElem (fmt : BitVec 5) (rm : BitVec 2) (i32 : Bool) (lb : Nat) (x : BitVec 32) : Nat × BitVec 5 :=
  if fmt.toNat = 0 then (x.toNat, 0)
  else if fmt.toNat ≤ 3 then (intCode fmt true x.toInt, 0)
  else if i32 then (ffmt fmt).round rm false false (decide (x.toInt < 0)) x.toInt.natAbs (-(lb : Int)) false
  else match f32.decode false x.toNat with
    | .num n m e => (ffmt fmt).round rm true false n m (e - (lb : Int)) false
    | _ => convert 10 fmt rm false x.toNat

def execMdrain (p : Pos) (vd : BitVec 5) (tile : BitVec 3) (row : BitVec 7) (seg : BitVec 2) (zero : Bool)
    (rm : BitVec 2) (fmt : BitVec 5) (s : State) : Out :=
  finish p (do
    let w := if fmt.toNat = 0 then 32 else fmtWidth fmt
    let n := 32 / w
    hazard tile row.toNat n
    let k ← tileOf tile
    let t ← getTile k
    let lb := if tagGrp t.tag = 0 then 0 else logBlock (tagGrp t.tag)
    (if fmt.toNat = 0 ∧ lb ≠ 0 then formatTrap t.tag else pure ())
    (if 1 ≤ fmt.toNat ∧ fmt.toNat ≤ 3 ∧ tagFmt t.tag = 10 then tagTrap (fmtTag 3) t.tag else pure ())
    let xs := (List.range n).flatMap (fun j => ((t.row (row.toNat + j)).drop (64 * seg.toNat)).take 64)
    let rs := xs.map (drainElem fmt rm (tagFmt t.tag == 3) lb)
    writeV p 6 vd (VVal.mk' (dataOfLanes w (rs.map (·.1))) (fmtTag fmt)) fullMask (orFlags (rs.map (·.2)))
    (if zero then
      (List.range n).forM (fun j => pushBeat 1 k (row.toNat + j) (.words (64 * seg.toNat) (List.replicate 64 0)))
     else pure ())) s

def execMfill (p : Pos) (va : BitVec 5) (tile : BitVec 3) (row : BitVec 7) (seg : BitVec 2) (fmt : BitVec 5)
    (s : State) : Out :=
  finish p (do
    hazard tile row.toNat 1
    let v ← readV p.bypA va
    (if (v.tag ≠ 0 ∧ tagFmt v.tag ≠ fmt.toNat) ∨ tagGrp v.tag ≠ 0 ∨ tagRot v.tag ≠ 0 ∨ !tagOk v.tag then
       tagTrap (fmtTag fmt) v.tag else pure ())
    let k ← tileOf tile
    let t ← getTile k
    (if fmt ≠ 0 ∧ t.tag ≠ 0 ∧ t.tag ≠ fmtTag fmt then tagTrap (fmtTag fmt) t.tag else pure ())
    (if fmt ≠ 0 then setTileTag k (fmtTag fmt) else pure ())
    pushBeat 1 k row.toNat (.words (64 * seg.toNat) ((v.lanes 32).map (BitVec.ofNat 32)))) s

def execMzero (p : Pos) (tile : BitVec 3) (row : BitVec 7) (cnt : BitVec 8) (clear : Bool) (s : State) : Out :=
  finish p (do
    let n := cnt.toNat + 1
    hazard tile row.toNat n
    let k ← tileOf tile
    (if clear then setTileTag k 0 else pure ())
    (List.range n).forM (fun j => pushBeat 1 k (row.toNat + j) (.words 0 (List.replicate 192 0)))) s

end Sys2Proof.Machine
end

