-- ==== Sys2Proof/Machine/Fabric.lean ====
section
/-! DEFINITION. The fabric agent and the transit router (spec/17 R303 to R329): routes, links, requests and their
responses, ports, multicast, collectives. -/

namespace Sys2Proof.Machine

/-! ## Positions and routes (R303, R304) -/

/-- The position of a device number: that of its package or of its host node. -/
def posOf (d : Nat) : Nat := d % 512

/-- Coordinate `i` (0 x, 1 y, 2 z) of a position. -/
def coord (p i : Nat) : Nat := p / 8 ^ i % 8

/-- The size of dimension `i`. -/
def dimOf (dims : Nat × Nat × Nat) (i : Nat) : Nat := if i = 0 then dims.1 else if i = 1 then dims.2.1 else dims.2.2

/-- The way round a ring of n positions from a to b: none when they are equal, true for the positive way. -/
def ringWay (n a b : Nat) : Option Bool :=
  if a = b then none else some (decide (2 * ((b + n - a) % n) ≤ n))

/-- The link of the next hop from one position to another, in dimension order. -/
def hop (dims : Nat × Nat × Nat) (a b : Nat) : Option Nat :=
  ([0, 1, 2].findSome? (fun i => (ringWay (dimOf dims i) (coord a i) (coord b i)).map
    (fun up => if up then 2 * i else 2 * i + 1)))

/-- The neighbour of a position along a link. -/
def neighbour (dims : Nat × Nat × Nat) (a l : Nat) : Nat :=
  let i := l / 2
  let n := dimOf dims i
  let c := coord a i
  let c' := if l % 2 = 0 then (c + 1) % n else (c + n - 1) % n
  a - c * 8 ^ i + c' * 8 ^ i

/-- The positions passed from a to b with the link each leaves by. -/
def pathFrom (dims : Nat × Nat × Nat) : Nat → Nat → Nat → List (Nat × Nat)
  | 0, _, _ => []
  | fuel + 1, a, b => match hop dims a b with
    | none => []
    | some l => (a, l) :: pathFrom dims fuel (neighbour dims a l) b

/-- The link by which this router's tree from `src` reaches a member, if the tree passes here on its way (R326). -/
def Fabric.treeLink (f : Fabric) (src m : Nat) : Option Nat :=
  ((pathFrom f.dims 12 (posOf src) (posOf m)).find? (fun e => e.1 == posOf f.dev)).map (·.2)

/-- The links that the dimension-ordered tree from `src` to the members leaves this router by (R326). -/
def Fabric.treeLinks (f : Fabric) (src : Nat) (members : List Nat) : List Nat :=
  ((members.filter (fun m => m != f.dev && m != src)).filterMap (f.treeLink src)).foldl insertNat []

/-- The link towards a destination: the route table's, else dimension order (R304, R310). -/
def Fabric.nextLink (f : Fabric) (dst : Nat) : Option Nat :=
  match f.routes.find? (fun e => e.1 == dst) with
  | some e => some e.2
  | none => hop f.dims (posOf f.dev) (posOf dst)

/-- The link to a neighbouring router of a collective's tree: the tree's own, unless the route table names that router (R310, R326). -/
def Fabric.linkTo (f : Fabric) (dev l : Nat) : Nat := look f.routes dev l

/-- The copies of a multicast request that leave this router, each with the members it serves: along dimension order a member's
path is the tree's, and a loaded route takes its place (R310, R323, R329). -/
def Fabric.copies (f : Fabric) (serves : List (Nat × Nat)) : List (Nat × List (Nat × Nat)) :=
  (List.range 6).filterMap (fun l =>
    let ms := serves.filter (fun m => f.nextLink m.1 == some l)
    if ms.isEmpty then none else some (l, ms))

/-- Whether the link towards a destination is up. -/
def Fabric.reaches (f : Fabric) (dst : Nat) : Bool := match f.nextLink dst with
  | some l => (f.links.getD l Link.reset).lstate != 0
  | none => true

/-- Whether a device number is populated (R303). -/
def Fabric.populated (f : Fabric) (d : Nat) : Bool := f.devices.contains d

/-! ## Links (R306 to R310) -/

/-- The flits of a packet: its route flit, and 256 bytes of data in each further one. -/
def pktFlits (k : Pkt) : Nat := match k.body with
  | .mcast _ _ _ bs _ _ => 1 + (bs.length + 255) / 256
  | .row _ _ _ _ _ bs _ => 1 + (bs.length + 255) / 256
  | .chunk _ bs _ => 1 + (bs.length + 255) / 256
  | _ => 1

/-- The payload bytes of a packet, as the accounting block counts them (R424). -/
def pktBytes (k : Pkt) : Nat := match k.body with
  | .read _ _ _ => 0
  | .write _ bs _ => bs.length
  | .amo _ _ n _ _ _ => n
  | .reduce _ _ _ bs => bs.length
  | .port ws => 8 * ws.length
  | .mcast _ _ _ bs _ _ => bs.length
  | .collUp _ _ _ _ => 8
  | .collDown _ _ _ => 8
  | .row _ _ _ _ _ bs _ => bs.length
  | .chunk _ bs _ => bs.length
  | .response _ bs _ => bs.length
  | .other ws => 8 * ws.length

/-- The virtual channel of a flit: the data flits of a multicast request travel on VC2 (R306, R323). -/
def flitVc (k : Pkt) (idx : Nat) : Nat := match k.body with
  | .mcast .. => if idx = 0 then k.vc else 2
  | _ => k.vc

/-- Whether a packet from `src` takes the upper buffer class behind link l of this router: it has crossed the wraparound link of
the ring that it travels (R306). -/
def Fabric.upper (f : Fabric) (src l : Nat) : Bool :=
  let a := coord (posOf src) (l / 2)
  let b := coord (neighbour f.dims (posOf f.dev) l) (l / 2)
  if l % 2 = 0 then decide (b < a) else decide (a < b)

/-- The flits of a packet that leaves by link l. -/
def Fabric.flits (f : Fabric) (l : Nat) (k : Pkt) : List Flit :=
  (List.range (pktFlits k)).map (fun i => ⟨k, i, f.upper k.src l, none, false⟩)

/-- Whether a link may carry a flit now (R306, R308). A counter that would reach 2^48 waits for the next key (log 118, DESIGN
CHOICE); a flit that is sent again keeps its IV. -/
def Link.carries (l : Link) (f : Flit) : Bool :=
  let vc := flitVc f.pkt f.idx
  l.en && (l.lstate == 3 || (l.lstate == 2 && vc == 6)) && !l.stop.getLsbD vc
    && (f.iv.isSome || decide (l.txCount.getD vc 0 + 1 < 2 ^ 48))

/-- A flit as it is sent (R308): on a keyed link under the IV cat(salt, vc, 0x00, counter), in clear where its channel is
integrity-only and the link does not cross an enclosure boundary. -/
def Link.sealed (l : Link) (f : Flit) : Flit :=
  let vc := flitVc f.pkt f.idx
  if f.iv.isSome || l.lstate != 3 then f
  else { f with iv := some (l.salt ++ BitVec.ofNat 8 vc ++ (0 : BitVec 8) ++ BitVec.ofNat 64 (l.txCount.getD vc 0)),
                clear := !l.encl && l.ioNow.getLsbD vc }

/-- Send a flit, or let it wait; the last 128 flits stay in the replay buffer (R310). -/
def Link.sendFlit (l : Link) (f : Flit) : Link :=
  if l.carries f then
    let sent := l.replay ++ [l.sealed f]
    let vc := flitVc f.pkt f.idx
    { l with replay := sent.drop (sent.length - 128), sentNum := l.sentNum + 1,
             txCount := if f.iv.isSome then l.txCount else l.txCount.setIfInBounds vc (l.txCount.getD vc 0 + 1) }
  else { l with waiting := l.waiting ++ [f] }

/-- Send what waits and may go, in order. -/
def Link.flush (l : Link) : Link := l.waiting.foldl Link.sendFlit { l with waiting := [] }

/-- Change a link of this package. -/
def State.modLink (s : State) (l : Nat) (f : Link → Link) : State :=
  { s with fab := { s.fab with links := s.fab.links.setIfInBounds l (f (s.fab.links.getD l Link.reset)) } }

/-- Put a packet on a link. -/
def State.onLink (s : State) (l : Nat) (k : Pkt) : State :=
  (s.account k.agency 5 (pktBytes k)).modLink l (fun x => ({ x with waiting := x.waiting ++ s.fab.flits l k }).flush)

/-- A packet reaches this router: from a link, or 6 from the package itself. -/
def State.arrives (s : State) (l : Nat) (k : Pkt) : State :=
  { s with fab := { s.fab with loop := s.fab.loop ++ [(l, k)] } }

/-- A packet that has been handled leaves the router. -/
def State.taken (s : State) (k : Pkt) : State :=
  { s with fab := { s.fab with loop := s.fab.loop.eraseP (fun e => e.2 == k) } }

/-- Send a packet towards its destination. -/
def State.sendPkt (s : State) (k : Pkt) : State :=
  if posOf k.dst = posOf s.fab.dev ∧ k.dst = s.fab.dev then s.arrives 6 k
  else match s.fab.nextLink k.dst with
    | some l => s.onLink l k
    | none => s.arrives 6 k

/-- A link that goes down: its key, its replay buffer and the flits of incomplete packets are gone. -/
def Link.down (x : Link) : Link :=
  { x with lstate := 0, key := none, oldKey := none, replay := [], fails := 0, rxGot := [] }

/-- A link goes down after 16 failures in a row (R310). -/
def State.linkDown (s : State) (l : Nat) : State :=
  (s.modLink l Link.down).report 2 (w64 l)

/-- A flit has passed its checks: it counts, and the older key's time is over with the first flit under the new one (R308, R329). -/
def Link.took (x : Link) (oldKey : Bool) (vc : Nat) : Link :=
  { x with fails := 0, oldKey := if oldKey then x.oldKey else none, rxNum := x.rxNum + 1,
           rxCount := x.rxCount.setIfInBounds vc (x.rxCount.getD vc 0 + 1) }

/-- Whether every flit of a packet but flit `idx` is here. -/
def Link.completes (x : Link) (idx : Nat) (k : Pkt) : Bool :=
  (List.range (pktFlits k)).all (fun i => i == idx || x.rxGot.contains (i, k))

/-- FLIT_RECEIVE: a flit of a packet, and whether it passed its checks, under the older key. The packet has arrived with its last
flit; for a failed flit replay is requested from it on (R310). -/
def execFlitReceive (l : Nat) (passed oldKey : Bool) (f : FlitIn) (s : State) : Out :=
  let k := f.pkt
  let idx := f.idx
  if 6 ≤ l ∨ pktFlits k ≤ idx then .refused .noSuchEvent
  else
    let x := s.fab.links.getD l Link.reset
    let vc := flitVc k idx
    if x.lstate = 0 ∨ x.lstate = 1 ∨ !x.en ∨ (x.lstate = 2 ∧ vc ≠ 6) then .next s
    else if passed && (!oldKey || x.oldKey.isSome) then
      if x.completes idx k then
        .next (((s.account k.agency 4 (pktBytes k)).modLink l (fun x =>
          { x.took oldKey vc with rxGot := x.rxGot.filter (fun e => e.2 != k) })).arrives l k)
      else .next (s.modLink l (fun x => { x.took oldKey vc with rxGot := x.rxGot ++ [(idx, k)] }))
    else if 15 ≤ x.fails then .next (s.linkDown l)
    else
      let s := s.modLink l (fun x => { x with fails := x.fails + 1 })
      .next { s with answers := s.answers ++ [.replayRequest l x.rxNum] }

def execTransitForward (k : Pkt) (s : State) : Out :=
  match s.fab.nextLink k.dst with
  | some l => .next ((s.taken k).onLink l k)
  | none => .next (s.taken k)

def execRouteTableLoad (table : List (Nat × Nat)) (s : State) : Out :=
  .next { s with fab := { s.fab with routes := table } }

/-- A write of a link mode register (R309): lm.io counts from the next key on, lm.en trains the link or takes it down. -/
def State.linkMode (s : State) (l : Nat) (w : Word) : State :=
  s.modLink l (fun x =>
    let x := { x with io := BitVec.ofNat 8 (bits w 15 8), encl := bitAt w 7, en := bitAt w 0 }
    if bitAt w 0 then (if x.lstate = 0 then { x with lstate := 1 } else x) else x.down)

/-- A link mode register as it reads (R309). -/
def Link.word (x : Link) : Word :=
  w64 (x.io.toNat * 2 ^ 8 + (if x.encl then 2 ^ 7 else 0) + x.lstate.toNat * 4 + (if x.en then 1 else 0))

def execLinkModeWrite (l : Nat) (w : Word) (s : State) : Out :=
  if 6 ≤ l then .refused .noSuchEvent else .next (s.linkMode l w)

/-- A key is installed on a link (R308, R309, R329, R423): its flit counters start again, lm.io takes effect, and the
other channels may go. -/
def Link.install (x : Link) (key : BitVec 256) (salt : BitVec 16) : Link :=
  if (x.lstate = 2 ∨ x.lstate = 3) ∧ x.barred = false then
    ({ x with oldKey := x.key, key := some key, salt := salt, txCount := Vector.replicate 8 0,
              rxCount := Vector.replicate 8 0, ioNow := if x.encl then 0 else x.io, lstate := 3 }).flush
  else x

/-- A session of a link has failed (R423): the link is unkeyed, and if it was the authentication, it is never keyed. -/
def Link.sessionFailed (x : Link) (auth : Bool) : Link :=
  { x with lstate := if x.lstate = 3 then 2 else x.lstate, key := none, oldKey := none, barred := x.barred || auth }

/-- Whether a link's session stands (R423). -/
def State.sessionStands (s : State) (l : Nat) : Bool := s.plat.spdm.any (fun x => x.peer == l && x.keyed)

/-- LINK_KEY_INSTALL: the session of a link that stands installs its key and salt (R308, R423). -/
def execLinkKeyInstall (l : Nat) (key : BitVec 256) (salt : BitVec 16) (s : State) : Out :=
  if 6 ≤ l then .refused .noSuchEvent
  else if s.sessionStands l then .next (s.modLink l (fun x => x.install key salt)) else .next s

def execLinkStopGo (l vc : Nat) (stop : Bool) (s : State) : Out :=
  if 6 ≤ l ∨ 8 ≤ vc then .refused .noSuchEvent
  else
    let b : BitVec 8 := BitVec.ofNat 8 (2 ^ vc)
    .next (s.modLink l (fun x => ({ x with stop := if stop then x.stop ||| b else x.stop &&& ~~~b }).flush))

/-- Resend from flit `first` on, if the buffer still holds it: the flits keep their places and IVs (R310). -/
def Link.rewind (x : Link) (first : Nat) : Link :=
  let base := x.sentNum - x.replay.length
  if first < base ∨ x.sentNum ≤ first then x
  else ({ x with replay := x.replay.take (first - base), waiting := x.replay.drop (first - base) ++ x.waiting,
                 sentNum := first }).flush

def execReplayRequest (l first : Nat) (s : State) : Out :=
  if 6 ≤ l then .refused .noSuchEvent else .next (s.modLink l (fun x => x.rewind first))

/-! ## Response words (R314) -/

/-- A unicast response word: 0 for success, else the cause of the refusal. -/
def unicastWord (cause : Nat) : Word :=
  if cause = 0 then w64 (2 ^ 54) else w64 (2 ^ 44 + cause * 2 ^ 40)

/-- The number that names a request under way here: a multicast request's and a contribution's also name the group (logs 19 and
119, DESIGN CHOICE). -/
def pktStream (k : Pkt) : Nat := match k.body with
  | .mcast g _ _ _ _ _ => 8192 * (1 + g) + k.stream
  | .collUp g _ _ _ => 8192 * (4097 + g) + k.stream
  | _ => k.stream

/-- The response packet to a request. -/
def pktReply (k : Pkt) (dev : Nat) (w : Word) (bs : List Byte) (busy : Bool) : Pkt :=
  { vc := 1, src := dev, dst := k.src, stream := pktStream k, num := k.num, agency := k.agency,
    body := .response w bs busy }

/-! ## Performing a request of another package (R312 to R315) -/

/-- Whether the admission mask of the region at pa admits an agency (R315). -/
def State.admits (s : State) (pa agency : Nat) : Bool :=
  decide (agency < 64) && bitAt (look s.ctl (0x2010000 + 8 * (pa / 2 ^ 30)) 0) agency

/-- The level at which a request of another package is performed (R205). -/
def levelOf (policy : Nat) : Level := if policy = 3 then .far else if policy = 2 then .str else .l2

/-- The bytes of memory a request is about. -/
def loadSpan : Load → Option (Nat × Nat)
  | .read pa n _ => some (pa, n)
  | .write pa bs _ => some (pa, bs.length)
  | .amo pa _ size _ _ _ => some (pa, size)
  | .reduce pa _ _ bs => some (pa, bs.length)
  | .row _ _ _ _ _ _ _ => none
  | .chunk pa bs _ => some (pa, bs.length)
  | .other ws => some ((ws.getD 1 0).toNat, 32)
  | _ => none

/-- Whether a request consumes poison (R206): a write does not. -/
def loadReads : Load → Bool
  | .write _ _ _ => false
  | .chunk _ _ _ => false
  | _ => true

/-- The sectors that poisoned parts of a row fall on (R345): each part is 64 · offset + length. -/
def badSectors (pa : Nat) (bad : List Nat) : List Nat := bad.flatMap (fun b => sectorsOf (pa + b / 64) (b % 64))

/-- A write of another package's request, performed here: at the level of its policy, one into the notify area as `.l2` (R205,
R418). -/
def State.writeHere (s : State) (pa : Nat) (bs : List Byte) (policy agency : Nat) : State :=
  let lv := if (s.notifySector pa).isSome then .l2 else levelOf policy
  (s.homeWrite pa bs lv agency).joinFar lv pa bs.length .other

/-- The effect of an admitted request at this package's memory: the bytes it answers with. -/
def State.perform (s : State) (k : Pkt) : List Byte × State :=
  match k.body with
  | .read pa n pol => let r := s.homeRead pa n (levelOf pol) k.agency; (r.1, r.2.joinFar (levelOf pol) pa n .other)
  | .write pa bs pol => ([], s.writeHere pa bs pol k.agency)
  | .amo pa op size far y e =>
    let r := s.amoMem pa size op y.toNat e.toNat far k.agency
    (bytesOfNat size r.1, r.2.joinFar (amoLevel far) pa size .other)
  | .reduce pa red fmt bs => ([], (s.redAt pa red fmt bs k.agency).joinFar .l2 pa bs.length .other)
  | .chunk pa bs bad => ([], ((s.homeWrite pa bs .l2 k.agency).addPoison (badSectors pa bad)).joinFar .l2 pa bs.length .other)
  | .other ws =>
    let op := match (ws.getD 0 0).toNat with
      | 1 => SoOp.acqX
      | 2 => SoOp.acqS
      | _ => SoOp.rel
    let r := s.soAttempt op (ws.getD 2 0).toNat (ws.getD 1 0).toNat k.agency
    (bytesOfWords r.1, r.2.joinFar .l2 (ws.getD 1 0).toNat 32 .other)
  | _ => ([], s)

/-- Perform a request: its response word and bytes (R314, R315). A home that refuses performs nothing. -/
def State.answer (s : State) (k : Pkt) : Word × List Byte × State :=
  match loadSpan k.body with
  | none => (unicastWord 1, [], s)
  | some (pa, n) =>
    if !isHbm pa then (unicastWord 1, [], s)
    else if !s.admits pa k.agency then (unicastWord 2, [], s)
    else match (if loadReads k.body then s.poisoned pa n else none) with
      | some sec => (unicastWord 7, [], s.consumed sec (consumer 255 0 k.agency))
      | none =>
        let r := s.perform k
        (unicastWord 0, r.1, r.2)

/-! ## Sequence order and the response cache (R312) -/

/-- The stream whose numbers order a request at its receiver: the packet's own, a contribution's for each group (log 119, DESIGN
CHOICE). -/
def rxStream (k : Pkt) : Nat := match k.body with
  | .mcast .. => k.stream
  | _ => pktStream k

/-- The sequence number that a request has for a device: a multicast request has one for each member (R311, log 19, DESIGN
CHOICE). -/
def rxNum (dev : Nat) (k : Pkt) : Nat := match k.body with
  | .mcast _ _ _ _ _ serves => look serves dev k.num
  | _ => k.num

/-- The record of a source and stream. -/
def State.rxOf (s : State) (src stream : Nat) : Option RxStream :=
  s.fab.rx.find? (fun r => r.src == src && r.stream == stream)

/-- Replace a record. -/
def State.setRx (s : State) (r : RxStream) : State :=
  { s with fab := { s.fab with rx := r :: s.fab.rx.filter (fun x => !(x.src == r.src && x.stream == r.stream)) } }

/-- A fresh record that expects number `next`. -/
def RxStream.fresh (src stream next : Nat) : RxStream :=
  { src := src, stream := stream, next := next, high := next, cache := [], held := [] }

/-- Where a number stands relative to the next one to be performed. -/
inductive RxPlace where
  | now | later | cached (b : Load) | below
  deriving DecidableEq, Repr

/-- Whether number a comes before number b; numbers are 32 bits wide. -/
def seqBefore (a b : Nat) : Bool := decide (0 < (b + 2 ^ 32 - a) % 2 ^ 32) && decide ((b + 2 ^ 32 - a) % 2 ^ 32 < 2 ^ 31)

/-- Number n has been seen: the window is the 4,096 numbers below the highest one seen, and a lower number that was never
performed is waited for no longer (R312). -/
def RxStream.saw (r : RxStream) (n : Nat) : RxStream :=
  let high := if seqBefore r.high n then n else r.high
  let low := (high + 2 ^ 32 - 4096) % 2 ^ 32
  { r with high := high, next := if seqBefore r.next low then low else r.next }

/-- The place of number n (R312). -/
def RxStream.place (r0 : RxStream) (n : Nat) : RxPlace :=
  let r := r0.saw n
  if seqBefore n ((r.high + 2 ^ 32 - 4096) % 2 ^ 32) then .below
  else if n = r.next then .now
  else if seqBefore r.next n then .later
  else match r.cache.find? (fun e => e.1 == n) with
    | some e => .cached e.2
    | none => .below

/-- Number n has been performed with a response. -/
def RxStream.done (r : RxStream) (n : Nat) (b : Load) : RxStream :=
  { r.saw n with next := (n + 1) % 2 ^ 32, cache := ((n, b) :: r.cache).take 4097 }

/-- A request of number n that came by link l waits for lower numbers. -/
def RxStream.hold (r : RxStream) (n l : Nat) (k : Pkt) : RxStream :=
  if r.held.any (fun e => e.2 == k) then r.saw n else { r.saw n with held := r.held ++ [(l, k)] }

/-- The record for a packet: one that is new starts at 0, that of a group's contributions at the first number it sees (log 119,
DESIGN CHOICE). -/
def State.rxFor (s : State) (k : Pkt) : RxStream :=
  (s.rxOf k.src (rxStream k)).getD (RxStream.fresh k.src (rxStream k) (match k.body with
    | .collUp .. => k.num
    | _ => 0))

/-- Requests that waited and may now be performed come up again, by the links they came by. -/
def State.release (s : State) (k : Pkt) : State :=
  match s.rxOf k.src (rxStream k) with
  | none => s
  | some r =>
    let ready := fun (e : Nat × Pkt) => rxNum s.fab.dev e.2 == r.next
    (r.held.filter ready).foldl (fun s e => s.arrives e.1 e.2) (s.setRx { r with held := r.held.filter (fun e => !ready e) })

/-- Handle a request in sequence order: answer it from the cache, let it wait, discard it, or perform it by `f` and
remember the response. -/
def State.inOrder (s : State) (k : Pkt) (f : State → Word × List Byte × State) : State :=
  let s := s.taken k
  let r := s.rxFor k
  match r.place k.num with
  | .cached b => let p := pktReply k s.fab.dev 0 [] false
                 s.sendPkt { p with body := b }
  | .below => s
  | .later => (s.setRx (r.hold k.num 6 k)).release k
  | .now =>
    let (w, bs, s) := f s
    let s := s.setRx ((s.rxFor k).done k.num (.response w bs false))
    (s.sendPkt (pktReply k s.fab.dev w bs false)).release k

def execFabricRequestArrival (k : Pkt) (s : State) : Out := .next (s.inOrder k (fun s => s.answer k))

/-! ## Sending requests (R311, R314) -/

/-- The response timer of R311: 20 µs. -/
def resendTime : Nat := 30000

/-- The record of a request. -/
def State.outAt (s : State) (dst stream num : Nat) : Option Outstanding :=
  s.fab.out.find? (fun o => o.pkt.dst == dst && o.pkt.stream == stream && o.pkt.num == num)

/-- Change the record of a request. -/
def State.modOut (s : State) (k : Pkt) (f : Outstanding → Outstanding) : State :=
  { s with fab := { s.fab with out := s.fab.out.map (fun o => if o.pkt = k then f o else o) } }

/-- Remove the record of a request. -/
def State.dropOut (s : State) (k : Pkt) : State :=
  { s with fab := { s.fab with out := s.fab.out.filter (fun o => o.pkt != k) } }

/-- Take a response: the first one counts (R313). -/
def State.answered (s : State) (k : Pkt) (w : Word) (bs : List Byte) : State :=
  let s := s.modOut k (fun o => { o with answer := o.answer.or (some (w, bs)) })
  { s with fab := { s.fab with out := s.fab.out.filter (fun o => !(o.core == orphanCore && o.answer.isSome)) } }

/-! ### Multicast (R322 to R325) -/

/-- An ordinal as the bytes of a merged response. -/
def ordBytes (o : Option Nat) : List Byte := match o with
  | some n => bytesOfNat 2 n
  | none => []

/-- The ordinal in a merged response. -/
def ordOf (bs : List Byte) : Option Nat := if bs.isEmpty then none else some (natOfBytes bs)

/-- Add two counts of responders, saturating. -/
def satCount (a b : Nat) : Nat := Nat.min (a + b) 1023

/-- Merge two response words with the ordinals of their causes; the lower ordinal's cause stands, the first's when they
are equal (R324, R325). -/
def mergeWords (a : Word) (oa : Option Nat) (b : Word) (ob : Option Nat) : Word × Option Nat :=
  let second := match oa, ob with
    | _, none => false
    | none, some _ => true
    | some x, some y => decide (y < x)
  let cause := if second then bits b 43 40 else bits a 43 40
  (w64 (satCount (bits a 63 54) (bits b 63 54) * 2 ^ 54 + satCount (bits a 53 44) (bits b 53 44) * 2 ^ 44
      + cause * 2 ^ 40 + (bits a 31 0 ||| bits b 31 0)), if second then ob else oa)

/-- A negative answer of the member of an ordinal. -/
def negWord (cause ord : Nat) : Word :=
  w64 (2 ^ 44 + cause * 2 ^ 40 + (if ord < 32 then 2 ^ ord else 0))

/-- The ordinal of a device in a member set (R324). -/
def ordinal (members : List Nat) (d : Nat) : Nat := (members.filter (fun m => decide (m < d))).length

/-- This member's own answer to a multicast request (R324). -/
def State.mcastAnswer (s : State) (g off : Nat) (members : List Nat) (bs : List Byte) (policy agency : Nat) :
    Word × Option Nat × State :=
  let o := ordinal members s.fab.dev
  let neg := fun (c : Nat) => (negWord c o, some o, s)
  let base := bits (s.mgWord g 0) 47 16 * 2 ^ 16
  if !(s.mgValid g && bitAt (s.mgWord g 0) 62) then neg 3
  else if s.mgAgency g != agency then neg 4
  else if bits (s.mgWord g 1) 12 0 * 2 ^ 16 < off + bs.length then neg 5
  else if !(isHbm (base + off) && isHbm (base + off + bs.length - 1)) then neg 1
  else (unicastWord 0, none, s.writeHere (base + off) bs policy agency)

/-- The acknowledgement word of a context takes a merged response (R325). -/
def Ctx.ackMerge (c : Ctx) (w : Word) (ord : Option Nat) : Ctx :=
  let r := mergeWords c.ack c.ackOrd w ord
  { c with ack := r.1, ackOrd := r.2, mcOut := c.mcOut - 1 }

/-- ACK_WORD_MERGE for the context of a launch on a core; the word is kept across pre-emption. -/
def State.ackMerge (s : State) (core launch : Nat) (w : Word) (ord : Option Nat) : State :=
  let s := s.mapCtx (fun c => c.core == core && c.launch == launch && c.status != .free) (fun c => c.ackMerge w ord)
  { s with saved := s.saved.map (fun v =>
      if v.ctx.core = core ∧ v.ctx.launch = launch then { v with ctx := v.ctx.ackMerge w ord } else v) }

def execAckWordMerge (core launch : Nat) (word : Word) (ord : Option Nat) (s : State) : Out :=
  .next (s.ackMerge core launch word ord)

/-- The merge of a request at this router. -/
def State.mergeAt (s : State) (src stream num : Nat) : Option Merge :=
  s.fab.merges.find? (fun m => m.src == src && m.stream == stream && m.num == num)

/-- Replace the merge of a request. -/
def State.setMerge (s : State) (m : Merge) : State :=
  { s with fab := { s.fab with merges := m :: s.fab.merges.filter (fun x =>
      !(x.src == m.src && x.stream == m.stream && x.num == m.num)) } }

/-- What a merge knows so far, with what its links have told: word, ordinal, members (R324). -/
def Merge.sofar (m : Merge) : Word × Option Nat × List Nat :=
  m.parts.foldl (fun a p =>
    let r := mergeWords a.1 a.2.1 p.word p.ord
    (r.1, r.2, a.2.2 ++ p.devs)) (m.word, m.ord, m.devs)

/-- The bytes of an answer that is not complete: the ordinal's own bytes with their number before them, then the members that
have answered (log 21, DEDUCED). -/
def toldBytes (ord : Option Nat) (devs : List Nat) : List Byte :=
  bytesOfNat 1 (ordBytes ord).length ++ ordBytes ord ++ devs.flatMap (fun d => bytesOfNat 2 d)

/-- The ordinal and the members of such bytes. -/
def toldOf (bs : List Byte) : Option Nat × List Nat :=
  let n := natOfBytes (bs.take 1)
  let t := bs.drop (1 + n)
  (ordOf ((bs.drop 1).take n), (List.range (t.length / 2)).map (fun i => natOfBytes ((t.drop (2 * i)).take 2)))

/-- The answer of a merge on its way up the tree, by link l. -/
def Merge.answer (m : Merge) (dev : Nat) : Pkt :=
  if m.awaited.isEmpty then ⟨1, dev, m.src, m.stream, m.num, m.agency, .response m.word (ordBytes m.ord) false⟩
  else
    let r := m.sofar
    ⟨1, dev, m.src, m.stream, m.num, m.agency, .response r.1 (toldBytes r.2.1 r.2.2) true⟩

/-- A merge that awaits nothing more sends its word up the tree, or into the sender's acknowledgement word; one that awaits more
tells what it knows, so that a request that is given up counts only the members that did not answer (R324, R329; log 21,
DEDUCED). -/
def State.mergeDone (s : State) (m : Merge) : State :=
  if !m.awaited.isEmpty then
    (match m.from_ with
     | some l => if m.sofar.2.2.isEmpty then s.setMerge m else (s.setMerge m).onLink l (m.answer s.fab.dev)
     | none => s.setMerge m)
  else
    let s := { s with fab := { s.fab with merges := s.fab.merges.filter (fun x =>
      !(x.src == m.src && x.stream == m.stream && x.num == m.num)) } }
    match m.from_ with
    | some l => s.onLink l (m.answer s.fab.dev)
    | none =>
      match s.fab.out.find? (fun o => pktStream o.pkt == m.stream && o.pkt.num == m.num) with
      | some o => (s.dropOut o.pkt).ackMerge o.core o.launch m.word m.ord
      | none => s

/-- A multicast request for the members that a copy serves. -/
def mcastFor (k : Pkt) (serves : List (Nat × Nat)) : Pkt := match k.body with
  | .mcast g off members bs policy _ => { k with body := .mcast g off members bs policy serves }
  | _ => k

/-- The members that a multicast request serves. -/
def mcastServes (k : Pkt) : List (Nat × Nat) := match k.body with
  | .mcast _ _ _ _ _ serves => serves
  | _ => []

/-- Forward a multicast request along the tree to the members that it serves, and merge what is known here; `own` is this member's
answer, when it has one. A copy that comes again finds what its links have told before (R329). -/
def State.mcastSpread (s : State) (k : Pkt) (from_ : Option Nat) (serves : List (Nat × Nat))
    (own : Option (Word × Option Nat)) : State :=
  let cs := s.fab.copies (serves.filter (fun m => m.1 != s.fab.dev))
  let told := (s.mergeAt k.src (pktStream k) k.num).elim [] (·.parts)
  let s := cs.foldl (fun s c => s.onLink c.1 (mcastFor k c.2)) s
  s.mergeDone { src := k.src, stream := pktStream k, num := k.num, agency := k.agency, from_ := from_, awaited := cs.map (·.1),
                word := own.elim 0 (·.1), ord := own.bind (·.2), devs := if own.isSome then [s.fab.dev] else [],
                parts := told.filter (fun p => cs.any (fun c => c.1 == p.link)) }

def execMulticastMemberArrival (l : Nat) (k : Pkt) (s : State) : Out :=
  match k.body with
  | .mcast g off members bs policy serves =>
    let s := s.taken k
    let from_ := some l
    if serves.all (fun m => m.1 != s.fab.dev) then .next (s.mcastSpread k from_ serves none)
    else
      let r := s.rxFor k
      let n := rxNum s.fab.dev k
      match r.place n with
      | .cached (.response w b _) => .next (s.mcastSpread k from_ serves (some (w, ordOf b)))
      | .cached _ => .next s
      | .below => .next s
      | .later => .next ((s.setRx (r.hold n l k)).release k)
      | .now =>
        let (w, o, s) := s.mcastAnswer g off members bs policy k.agency
        let s := s.setRx ((s.rxFor k).done n (.response w (ordBytes o) false))
        .next ((s.mcastSpread k from_ serves (some (w, o))).release k)
  | _ => .refused .noSuchEvent

/-- MULTICAST_MERGE: the answer of a link is merged (R324). -/
def execMulticastMerge (l src stream num : Nat) (word : Word) (ord : Option Nat) (s : State) : Out :=
  match s.mergeAt src stream num with
  | none => .next s
  | some m =>
    if !m.awaited.contains l then .next s
    else
      let r := mergeWords m.word m.ord word ord
      .next (s.mergeDone { m with awaited := m.awaited.erase l, word := r.1, ord := r.2,
                                  parts := m.parts.filter (fun p => p.link != l) })

/-- A link tells what it knows so far of the members behind it (log 21, DEDUCED). -/
def State.mergeTold (s : State) (l src stream num : Nat) (word : Word) (bs : List Byte) : State :=
  match s.mergeAt src stream num with
  | none => s
  | some m =>
    if !m.awaited.contains l then s
    else
      let (o, ds) := toldOf bs
      s.mergeDone { m with parts := ⟨l, word, o, ds⟩ :: m.parts.filter (fun p => p.link != l) }

def execAckWordRead (d : BitVec 5) (s : State) : Out :=
  finish (Pos.plain 1) (do
    let w ← takeAck
    writeS (Pos.plain 1) 6 d w) s

/-- A multicast request is given up: the members that have not answered are counted with cause 6 (R324, R329; log 21, DEDUCED). -/
def State.mcastGiveUp (s : State) (k : Pkt) : State :=
  match k.body, s.mergeAt k.src (pktStream k) k.num with
  | .mcast _ _ members _ _ serves, some m =>
    let (w, o, devs) := m.sofar
    let lost := (serves.map (·.1)).filter (fun d => d != s.fab.dev && !devs.contains d && (match s.fab.nextLink d with
       | some l => m.awaited.contains l
       | none => true))
    let r := lost.foldl (fun (a : Word × Option Nat) d =>
      let o := ordinal members d
      mergeWords a.1 a.2 (negWord 6 o) (some o)) (w, o)
    s.mergeDone { m with awaited := [], word := r.1, ord := r.2, parts := [] }
  | _, _ => s

/-! ### Requests leave (R311, R314) -/

/-- A request leaves: its timer runs. A device that is not populated answers here with cause 1 (R303). -/
def State.sendRequest (s : State) (k : Pkt) : State :=
  let s := s.modOut k (fun o => { o with due := s.now + resendTime })
  match k.body with
  | .mcast _ _ _ _ _ serves => s.mcastSpread k none serves none
  | _ => if s.fab.populated k.dst then s.sendPkt k else s.answered k (unicastWord 1) []

def execMappedRequestSend (k : Pkt) (s : State) : Out := .next (s.sendRequest k)

/-! ## Ports (R316 to R319) -/

/-- The first packet of an outbound queue when all its words have landed. -/
def headPacket (q : List (Word × Bool)) : Option (List Word) :=
  match q with
  | [] => none
  | (h, _) :: _ =>
    let n := 1 + bits h 36 32
    if q.length < n || (q.take n).any (fun e => !e.2) then none else some ((q.take n).map (·.1))

/-- The agency and slot of the context that holds a core's ports (R316): resident, or pre-empted (true). -/
def State.portHolder (s : State) (core : Nat) : Option (Nat × Nat × Bool) :=
  match s.allCtxs.find? (fun c => c.core == core && c.ports && c.status.resident) with
  | some c => some (c.agency, c.slot, false)
  | none => (s.saved.find? (fun v => v.ctx.core == core && v.ctx.ports)).map (fun v => (v.ctx.agency, v.ctx.slot, true))

/-- The first packet of a port's queue goes. -/
def Core.portShift (k : Core) (port n : Nat) : Core :=
  { k with outq := k.outq.setIfInBounds port ((k.outq.getD port []).drop n),
           outBy := k.outBy.setIfInBounds port ((k.outBy.getD port []).drop n),
           outGone := k.outGone.setIfInBounds port (k.outGone.getD port 0 + n),
           outSent := k.outSent.setIfInBounds port false }

/-- A tagged send is no longer outstanding. -/
def State.untag (s : State) (header : Word) : State :=
  let h := bits header 23 0
  if h = 0 then s else s.tagLanded (h % 256) (h / 256)

/-- The root of a group: its lowest member (R326). -/
def State.collRoot (s : State) (g : Nat) : Nat := (s.mgMembers g).getD 0 0

/-- The round of a group at this router, or a new one. -/
def State.collOf (s : State) (g op : Nat) : Coll :=
  (s.fab.colls.find? (fun c => c.group == g)).getD { group := g, op := op, core := none, port := 0, pkts := [], sent := false }

/-- Replace the round of a group. -/
def State.setColl (s : State) (c : Coll) : State :=
  { s with fab := { s.fab with colls := c :: s.fab.colls.filter (fun x => x.group != c.group) } }

/-- A packet leaves this package for the first time: its timer runs. -/
def State.launchPkt (s : State) (o : Outstanding) : State := { s with fab := { s.fab with out := s.fab.out ++ [o] } }

/-- Send the complete packets of an outbound queue in order, while nothing of this port is under way (R318, R319); `fuel` bounds
their number. A contribution waits for the result of the package's round in progress (R328). The agency and context of a packet are
those that pushed its header. -/
def State.portPumpN : Nat → State → Nat → Nat → State
  | 0, s, _, _ => s
  | fuel + 1, s, core, port =>
    let k := s.coreAt core
    if k.outSent.getD port false then s
    else match headPacket (k.outq.getD port []) with
      | none => s
      | some ws =>
        let h := ws.getD 0 0
        let (agency, slot, launch) := (k.outBy.getD port []).headD (0, 0, 0)
        let stream := 8 * (4 * core + slot) + 1 + port
        if bits h 42 40 = 1 then
          let g := bits h 63 52
          if s.fab.colls.any (fun c => c.group == g && c.core.isSome) then s
          else
            let s := (s.setCore (k.portShift port ws.length)).setColl
              { s.collOf g (bits h 31 24) with core := some core, port := port }
            let (num, s) := s.seqNum (8192 * (4097 + g) + stream) (s.collRoot g)
            let p : Pkt := ⟨3, s.fab.dev, s.collRoot g, stream, num, agency, .collUp g (bits h 31 24) s.fab.dev (ws.getD 1 0)⟩
            ((s.launchPkt ⟨p, s.now + resendTime, 0, port, core, slot, none, launch⟩).arrives 6 p).portPumpN fuel core port
        else
          let dst := bits h 63 54
          if !s.fab.populated dst then
            (((s.setCore (k.portShift port ws.length)).untag h).report 9 h).portPumpN fuel core port
          else
            let s := s.setCore { k with outSent := k.outSent.setIfInBounds port true }
            let (num, s) := s.seqNum stream dst
            let p : Pkt := ⟨0, s.fab.dev, dst, stream, num, agency, .port ws⟩
            (s.launchPkt ⟨p, s.now + resendTime, 0, port, core, slot, none, launch⟩).sendPkt p

/-- Send what an outbound queue holds (R316: at most 64 words). -/
def State.portPump (s : State) (core port : Nat) : State := s.portPumpN 64 core port

/-- A packet is accepted when its last word has landed: a tagged send is counted (R175, R318). `i` is the place of the word
that has landed. -/
def acceptedAt : Nat → Nat → List (Word × Bool) → Option Word
  | 0, _, _ => none
  | _, _, [] => none
  | fuel + 1, i, (h, b) :: t =>
    let n := 1 + bits h 36 32
    if i < n then
      (if t.length + 1 < n || ((((h, b) :: t).take n).any (fun e => !e.2)) then none else some h)
    else acceptedAt fuel (i - n) (t.drop (n - 1))

/-- After word `ticket` of a port has landed (R135, R318). -/
def State.portAccept (s : State) (port ticket : Nat) : State :=
  let i := ticket - s.core.outGone.getD port 0
  match acceptedAt 64 i (s.core.outq.getD port []) with
  | some h =>
    let s := if bits h 42 40 = 0 then s.tagSent (w64 (bits h 23 0)) else s
    s.portPump s.core.id port
  | none => s

/-- A popper's header (R317): source device, core and port in place of the destination's. -/
def popHeader (k : Pkt) (h : Word) : Word :=
  w64 (k.src * 2 ^ 54 + k.stream / 32 * 2 ^ 46 + (k.stream % 8 - 1) * 2 ^ 43 + bits h 42 0)

def execPortPacketArrival (k : Pkt) (s : State) : Out :=
  match k.body with
  | .port ws =>
    let h := ws.getD 0 0
    let core := bits h 53 46
    let port := bits h 45 43
    let full := decide (8 ≤ ((s.coreAt core).inq.getD port []).length)
    let holder := s.portHolder core
    let busy := match holder with
      | some (a, _, away) => a == k.agency && (away || full)
      | none => false
    if busy && (s.rxFor k).place k.num == .now then
      .next ((s.taken k).sendPkt (pktReply k s.fab.dev 0 [] true))
    else
      .next (s.inOrder k (fun s =>
        let ok := match holder with
          | some (a, _, _) => a == k.agency
          | none => false
        if ok then
          let c := s.coreAt core
          let q := c.inq.getD port []
          (unicastWord 0, [], s.setCore { c with inq := c.inq.setIfInBounds port (q ++ [popHeader k h :: ws.drop 1]) })
        else (unicastWord 2, [], s)))
  | _ => .refused .noSuchEvent

/-- A landing response reaches the sender: the packet goes, and a refusal is logged (R319). -/
def State.portLandingResponse (s : State) (o : Outstanding) (w : Word) : State :=
  match o.pkt.body with
  | .port ws =>
    let h := ws.getD 0 0
    let s := (s.dropOut o.pkt).setCore ((s.coreAt o.core).portShift o.step ws.length)
    let s := s.untag h
    let s := if bits w 53 44 = 0 then s else s.report 9 h
    s.portPump o.core o.step
  | _ => s

/-- An incomplete outbound packet is discarded and logged at END (R319): the words after the last complete packet. -/
def completeWords : Nat → List (Word × Bool) → List (Word × Bool)
  | 0, _ => []
  | _, [] => []
  | fuel + 1, (h, b) :: t =>
    let n := 1 + bits h 36 32
    if t.length + 1 < n then [] else ((h, b) :: t).take n ++ completeWords fuel (t.drop (n - 1))

/-- Discard the incomplete packets of a core's ports. -/
def State.portsEnd (s : State) (core : Nat) : State :=
  (List.range 6).foldl (fun s p =>
    let k := s.coreAt core
    let q := k.outq.getD p []
    let q' := completeWords 64 q
    if q'.length = q.length then s
    else (s.setCore { k with outq := k.outq.setIfInBounds p q',
                             outBy := k.outBy.setIfInBounds p ((k.outBy.getD p []).take q'.length) }).report 9
      (w64 (core * 8 + p))) s

/-! ## Responses (R311, R313, R314) -/

def execFabricResponseArrival (k : Pkt) (s : State) : Out :=
  let s := s.taken k
  match k.body, s.fab.out.find? (fun o => o.pkt.dst == k.src && o.pkt.stream == k.stream && o.pkt.num == k.num) with
  | .response w bs busy, some o =>
    (match o.pkt.body with
     | .port _ => if busy then .next (s.modOut o.pkt (fun o => { o with resends := 0 })) else .next (s.portLandingResponse o w)
     | _ => .next (s.answered o.pkt w bs))
  | _, _ => .next s

/-! ## Collectives (R326 to R328) -/

/-- A combining operation (R327). -/
def collOp (op : Nat) (x y : Word) : Word :=
  let fmin := fun (isMax : Bool) =>
    if (f64.decode false x.toNat).isNan || (f64.decode false y.toNat).isNan then w64 f64.nanCode
    else if decide (f64.key false x.toNat ≤ f64.key false y.toNat) == isMax then y else x
  match op with
  | 0 => x + y
  | 1 => w64 (f64.deliver 0 false ((f64.decode false x.toNat).add 0 (f64.decode false y.toNat)).1).1
  | 2 => if x.sle y then x else y
  | 3 => if x.sle y then y else x
  | 4 => if x.ule y then x else y
  | 5 => if x.ule y then y else x
  | 6 => fmin false
  | 7 => fmin true
  | 8 => x &&& y
  | 9 => x ||| y
  | _ => x ^^^ y

/-- The lowest device numbers of the parts this router combines: its own, and one for each subtree below it. -/
def State.collParts (s : State) (g : Nat) : List Nat :=
  let ms := s.mgMembers g
  let root := s.collRoot g
  let subs := (s.fab.treeLinks root ms).map (fun l =>
    ((ms.filter (fun m => m != s.fab.dev && s.fab.treeLink root m == some l)).getD 0 0))
  (if ms.contains s.fab.dev then [s.fab.dev] else []) ++ subs

/-- The router above this one in the tree, and the link to it: back along the last hop from the root, or as the route table says (R310,
R326). -/
def State.collParent (s : State) (g : Nat) : Option (Nat × Nat) :=
  ((pathFrom s.fab.dims 12 (posOf (s.collRoot g)) (posOf s.fab.dev)).getLast?).map (fun e =>
    (e.1, s.fab.linkTo e.1 (e.2 ^^^ 1)))

/-- Combine parts in ascending order of their lowest device numbers. -/
def combineParts (op : Nat) (ps : List (Nat × Word)) : Word :=
  match ps with
  | [] => 0
  | e :: t => t.foldl (fun acc x => collOp op acc x.2) e.2

/-- The lowest device number of a part. -/
def partLow (k : Pkt) : Nat := match k.body with
  | .collUp _ _ low _ => low
  | _ => 0

/-- The parts of a round, by the lowest device number of each, ascending. -/
def Coll.parts (c : Coll) : List (Nat × Word) :=
  c.pkts.foldl (fun l k => match k.body with
    | .collUp _ _ low w => put l low w
    | _ => l) []

/-- The packet of the part with the lowest device number: the combined part goes up under its triple. -/
def Coll.lowest (c : Coll) : Option Pkt :=
  c.pkts.find? (fun k => c.pkts.all (fun x => decide (partLow k ≤ partLow x)))

/-- A part joins its round; one that is there already is a duplicate. -/
def Coll.join (c : Coll) (k : Pkt) : Coll :=
  if c.pkts.any (fun x => partLow x == partLow k) then c else { c with pkts := c.pkts ++ [k] }

/-- The result on its way to the part that a packet brought: it answers that packet's triple. -/
def resultFor (k : Pkt) (op : Nat) (w : Word) : Pkt := match k.body with
  | .collUp g _ low _ => ⟨3, k.dst, low, k.stream, k.num, k.agency, .collDown g op w⟩
  | _ => k

/-- Send a result down to the router of the subtree that a part came from, along the tree or as the route table says (R310, R326), or to
this package's own contribution. -/
def State.sendDown (s : State) (g : Nat) (k : Pkt) : State :=
  if k.dst = s.fab.dev then s.arrives 6 k
  else match s.fab.treeLink (s.collRoot g) k.dst with
    | some l =>
      let child := neighbour s.fab.dims (posOf s.fab.dev) l
      s.onLink (s.fab.linkTo child l) { k with dst := child }
    | none => s

/-- The combined part of a complete round goes up the tree, or, at the root, its result starts on its way down (R326). -/
def State.collUpward (s : State) (c : Coll) : State :=
  match c.lowest with
  | none => s
  | some k =>
    let r := combineParts c.op c.parts
    if s.collRoot c.group = s.fab.dev then
      (if c.sent then s else s.arrives 6 (resultFor { k with dst := s.fab.dev } c.op r))
    else match s.collParent c.group with
      | some (d, l) => s.onLink l { k with dst := d, body := .collUp c.group c.op (partLow k) r }
      | none => s

/-- Whether a packet brings the part of a group's round with the lowest device number `low`. -/
def isPart (group op low : Nat) (k : Pkt) : Bool := match k.body with
  | .collUp g o d _ => g == group && o == op && d == low
  | _ => false

/-- COLLECTIVE_COMBINE (R326; log 119, DESIGN CHOICE): a part joins its round; with the last one the combined part goes up,
and again with each duplicate of a part. A part whose round is over is answered with its result. -/
def execCollectiveCombine (group op low : Nat) (k : Pkt) (s : State) : Out :=
  if !isPart group op low k then .refused .noSuchEvent
  else
    let s := s.taken k
    match (s.rxFor k).place k.num with
    | .cached (.collDown _ o w) => .next (s.sendDown group (resultFor k o w))
    | .cached _ => .next s
    | .below => .next s
    | _ =>
      let c := (s.collOf group op).join k
      let full := (s.collParts group).all (fun d => c.pkts.any (fun x => partLow x == d))
      if full then .next ((s.setColl { c with sent := true }).collUpward c) else .next (s.setColl c)

/-- Whether a result can be placed: the contributor's inbound queue has room. -/
def State.collRoom (s : State) (g : Nat) : Bool :=
  match s.fab.colls.find? (fun c => c.group == g) with
  | some c => match c.core with
    | some n => decide (((s.coreAt n).inq.getD c.port []).length < 8)
    | none => true
  | none => true

/-- Try every port of the package again: contributions that were held may go (R328). -/
def State.pumpAll (s : State) : State :=
  (s.core :: s.cores).foldl (fun s k => (List.range 6).foldl (fun s p => s.portPump k.id p) s) s

/-- The result of a round reaches this router: it goes down to the subtrees, the parts' packets are answered, the package's own
contribution takes it from the port it was pushed to. -/
def State.collEnd (s : State) (c : Coll) (op : Nat) (word : Word) : State :=
  let s := { s with fab := { s.fab with colls := s.fab.colls.filter (fun x => x.group != c.group) } }
  let s := c.pkts.foldl (fun (s : State) p =>
    let s := s.setRx ((s.rxFor p).done p.num (.collDown c.group op word))
    if partLow p = s.fab.dev then s.dropOut p else s.sendDown c.group (resultFor p op word)) s
  match c.core with
  | none => s
  | some n =>
    let k := s.coreAt n
    let h := w64 (c.group * 2 ^ 52 + 2 ^ 40 + 2 ^ 32 + op * 2 ^ 24)
    (s.setCore { k with inq := k.inq.setIfInBounds c.port (k.inq.getD c.port [] ++ [[h, word]]) }).pumpAll

/-- COLLECTIVE_RESULT (R326): a result that answers the part sent up ends the round here; a second one is discarded (R313). -/
def execCollectiveResult (group op : Nat) (k : Pkt) (s : State) : Out :=
  match k.body with
  | .collDown g o word =>
    if g ≠ group ∨ o ≠ op then .refused .noSuchEvent
    else if !s.collRoom group then .next s
    else
      let s := s.taken k
      match s.fab.colls.find? (fun c => c.group == group) with
      | none => .next s
      | some c => match c.lowest with
        | none => .next s
        | some p => if c.sent && p.stream == k.stream && p.num == k.num then .next (s.collEnd c op word) else .next s
  | _ => .refused .noSuchEvent

end Sys2Proof.Machine
end

