-- ==== Sys2Proof/Machine/Keccak.lean ====
section
/-! DEFINITION. The hash function that spec/19 R338 and spec/25 R420 name, from FIPS 202 (log 20, PRESUMED): SHAKE256 over
Keccak-f[1600]. -/

namespace Sys2Proof.Machine

/-- The lanes of a Keccak state, lane (x, y) at x + 5y. -/
abbrev Lanes := Vector (BitVec 64) 25

/-- Lane (x, y), coordinates modulo 5. -/
def lane (a : Lanes) (x y : Nat) : BitVec 64 := a.getD (x % 5 + 5 * (y % 5)) 0

/-- The walk that gives the rotation offsets: from lane (1, 0), step t rotates by the t-th triangular number and goes on to
(y, 2x + 3y). -/
def rhoWalk : Nat → Nat → Nat → Nat → List (Nat × Nat)
  | 0, _, _, _ => []
  | n + 1, t, x, y => (x + 5 * y, (t + 1) * (t + 2) / 2 % 64) :: rhoWalk n (t + 1) y ((2 * x + 3 * y) % 5)

/-- The rotation offset of each lane; lane 0 is not on the walk. -/
def rhoOffsets : List Nat :=
  let w := rhoWalk 24 0 1 0
  (List.range 25).map (fun i => look w i 0)

/-- The bits that a shift register over x⁸ + x⁶ + x⁵ + x⁴ + 1 puts out from a state. -/
def lfsrBits : Nat → Nat → List Bool
  | 0, _ => []
  | n + 1, r =>
    let d := 2 * r
    (r % 2 == 1) :: lfsrBits n (if 256 ≤ d then (d - 256) ^^^ 0x71 else d)

/-- The round constants: bit 2^j − 1 of the i-th is output 7i + j of the register. -/
def roundConstants : List (BitVec 64) :=
  let out := lfsrBits 168 1
  (List.range 24).map (fun i =>
    w64 ((List.range 7).foldl (fun c j => if out.getD (7 * i + j) false then c + 2 ^ (2 ^ j - 1) else c) 0))

/-- The parity of a column. -/
def columnParity (a : Lanes) (x : Nat) : BitVec 64 := (List.range 5).foldl (fun p y => p ^^^ lane a x y) 0

/-- Theta: each lane takes the parities of the two columns beside it, one of them rotated. -/
def theta (a : Lanes) : Lanes :=
  let ps := (List.range 5).map (columnParity a)
  let side := fun (x : Nat) => ps.getD ((x + 4) % 5) 0 ^^^ (ps.getD ((x + 1) % 5) 0).rotateLeft 1
  Vector.ofFn (fun i : Fin 25 => side (i.val % 5) ^^^ a[i])

/-- Rho and pi: the lane that comes to (x, y) is the rotated one from (x + 3y, x). -/
def rhoPi (a : Lanes) : Lanes :=
  let os := rhoOffsets
  Vector.ofFn (fun i : Fin 25 =>
    let x := i.val % 5
    let y := i.val / 5
    (lane a (x + 3 * y) x).rotateLeft (os.getD ((x + 3 * y) % 5 + 5 * x) 0))

/-- Chi, row by row. -/
def chi (b : Lanes) : Lanes :=
  Vector.ofFn (fun i : Fin 25 =>
    let at_ := fun (k : Nat) => lane b (i.val % 5 + k) (i.val / 5)
    (at_ 2 &&& ~~~(at_ 1)) ^^^ at_ 0)

/-- One round. -/
def keccakRound (a : Lanes) (rc : BitVec 64) : Lanes :=
  let b := chi (rhoPi (theta a))
  b.setIfInBounds 0 (b.getD 0 0 ^^^ rc)

/-- The permutation. -/
def keccakF (a : Lanes) : Lanes := roundConstants.foldl keccakRound a

/-- Absorb blocks of `rate` bytes. -/
def absorb (rate : Nat) : Nat → Lanes → List Byte → Lanes
  | 0, a, _ => a
  | n + 1, a, bs =>
    let ws := wordsOfBytes (rate / 8) (bs.take rate)
    absorb rate n (keccakF (Vector.ofFn (fun i : Fin 25 => a[i] ^^^ ws.getD i.val 0))) (bs.drop rate)

/-- A sponge's first block of output: `suffix` is the domain byte. -/
def sponge (rate : Nat) (suffix : Byte) (msg : List Byte) : List Byte :=
  let n := msg.length / rate + 1
  let pad := n * rate - msg.length
  let tail := if pad = 1 then [suffix ||| 0x80] else [suffix] ++ List.replicate (pad - 2) 0 ++ [0x80]
  bytesOfWords ((absorb rate n (Vector.replicate 25 0) (msg ++ tail)).toList.take (rate / 8))

/-- The first n bytes of SHAKE256, n at most 136. -/
def shake256 (n : Nat) (msg : List Byte) : List Byte := (sponge 136 0x1F msg).take n

end Sys2Proof.Machine
end

