-- ==== Sys2Proof/Machine/Flowstone.lean ====
section
/-! DEFINITION. Flowstone (spec/19 R333 to R348): layouts, plans and their rows, the progress record, runs, checkpoints. -/

namespace Sys2Proof.Machine

/-! ## Layout records (R333, R334) -/

/-- A layout record as read. -/
structure Layout where
  tag   : BitVec 24
  rank  : Nat
  axes  : List Nat
  shape : List Nat
  blk   : List Nat
  mesh  : List Nat
  table : Nat
  base  : Nat
  str   : List Nat
  deriving DecidableEq, Repr

/-- Element width in bits; 8 for raw. -/
def Layout.w (l : Layout) : Nat := fmtWidth (tagF l.tag)

/-- The fields of a record of 16 dwords. -/
def layoutOf (d : List Word) : Layout :=
  let dw := fun (k : Nat) => d.getD k 0
  let w0 := dw 0
  let half := fun (b k : Nat) => bits (dw (b + k / 2)) (32 * (k % 2) + 31) (32 * (k % 2))
  let mr := bits w0 29 27
  { tag := BitVec.ofNat 24 w0.toNat, rank := bits w0 26 24,
    axes := (List.range 6).map (fun k => bits w0 (35 + 4 * k) (32 + 4 * k)),
    shape := (List.range 6).map (half 1), blk := (List.range 6).map (half 5),
    mesh := (List.range 4).map (fun j => if j < mr then bits (dw 4) (16 * j + 15) (16 * j) else 1),
    table := (dw 8).toNat, base := (dw 9).toNat, str := (List.range 6).map (fun k => (dw (10 + k)).toNat) }

/-- Device-table entries of a layout: Π S_j. -/
def Layout.devices (l : Layout) : Nat := l.mesh.foldl (· * ·) 1

/-- Whether a list has no repeats. -/
def noRepeats : List Nat → Bool
  | [] => true
  | x :: t => !t.contains x && noRepeats t

/-- The invalid dwords of a layout record, ascending (R334). -/
def layoutBad (d : List Word) : List Nat :=
  let l := layoutOf d
  let w0 := d.getD 0 0
  let mr := bits w0 29 27
  let used := (l.axes.take l.rank).filter (fun a => a != 15)
  let bad0 := bits w0 63 56 != 0 || bits w0 31 30 != 0 || !tagOk l.tag || l.rank == 0 || l.rank == 7 || mr == 0
    || decide (4 < mr) || used.any (fun a => decide (mr ≤ a)) || !noRepeats used || (l.axes.drop l.rank).any (fun a => a != 0)
  let dim := fun (k : Nat) => decide (k < l.rank)
  let part := fun (k : Nat) => dim k && l.axes.getD k 0 != 15
  let badX := fun (k : Nat) => (l.shape.getD k 0 != 0) != dim k
  let badB := fun (k : Nat) => (l.blk.getD k 0 != 0) != part k
  let bad4 := (List.range 4).any (fun j => let x := bits (d.getD 4 0) (16 * j + 15) (16 * j)
    if j < mr then x == 0 || decide (512 < x) else x != 0) || decide (512 < l.devices)
  let badS := fun (k : Nat) => let x := l.str.getD k 0
    if k + 1 < l.rank then decide (2 ^ 48 ≤ x) else x != 0
  (List.range 16).filter (fun i =>
    if i = 0 then bad0
    else if i ≤ 3 then badX (2 * (i - 1)) || badX (2 * (i - 1) + 1)
    else if i = 4 then bad4
    else if i ≤ 7 then badB (2 * (i - 5)) || badB (2 * (i - 5) + 1)
    else if i = 8 then decide (2 ^ 57 ≤ l.table) || l.table % 2 != 0
    else if i = 9 then decide (2 ^ 57 ≤ l.base) || l.base % 64 != 0
    else badS (i - 10))

/-- Mesh coordinates of a mesh index (R333). -/
def Layout.coords (l : Layout) (mi : Nat) : List Nat :=
  let s := fun (j : Nat) => l.mesh.getD j 1
  [mi / (s 1 * s 2 * s 3), mi / (s 2 * s 3) % s 1, mi / s 3 % s 2, mi % s 3]

/-- The runs of global indices that a coordinate holds along dimension k, ascending. -/
def Layout.owned (l : Layout) (k : Nat) (c : List Nat) : List (Nat × Nat) :=
  let a := l.axes.getD k 0
  let x := l.shape.getD k 0
  if a = 15 then [(0, x)]
  else
    let b := l.blk.getD k 1
    let s := l.mesh.getD a 1
    let q0 := c.getD a 0
    ((List.range ((x + b - 1) / b)).filter (fun q => q % s == q0)).map (fun q => (q * b, Nat.min (q * b + b) x))

/-- The local index of a global index along dimension k. -/
def Layout.local_ (l : Layout) (k g : Nat) : Nat :=
  let a := l.axes.getD k 0
  if a = 15 then g
  else
    let b := l.blk.getD k 1
    (g / b / l.mesh.getD a 1) * b + g % b

/-- The local address of an element (R334). -/
def Layout.addr (l : Layout) (g : List Nat) : Nat :=
  let r := l.rank
  let outer := (List.range (r - 1)).foldl (fun acc k => acc + l.local_ k (g.getD k 0) * l.str.getD k 0) l.base
  outer + l.local_ (r - 1) (g.getD (r - 1) 0) * l.w / 8

/-! ## Boxes and rows (R337) -/

/-- Join runs that touch. -/
def joinRuns : List (Nat × Nat) → List (Nat × Nat)
  | [] => []
  | (a, b) :: t => match joinRuns t with
    | (c, d) :: u => if b = c then (a, d) :: u else (a, b) :: (c, d) :: u
    | [] => [(a, b)]

/-- The maximal runs of the intersection of two ascending lists of runs. -/
def meetRuns (xs ys : List (Nat × Nat)) : List (Nat × Nat) :=
  joinRuns (xs.flatMap (fun x => ys.filterMap (fun y =>
    let lo := Nat.max x.1 y.1
    let hi := Nat.min x.2 y.2
    if lo < hi then some (lo, hi) else none)))

/-- Every choice of one element from each list, the last varying fastest. -/
def choices {α : Type} : List (List α) → List (List α)
  | [] => [[]]
  | l :: t => l.flatMap (fun x => (choices t).map (fun c => x :: c))

/-- A row or chunk to send: its cursor, the destination device, the source pieces (address and bytes), the destination
address, its bytes. -/
structure RowItem where
  shard : Nat
  box   : Nat
  row   : Nat
  dev   : Nat
  src   : List (Nat × Nat)
  dst   : Nat
  bytes : Nat
  deriving DecidableEq, Repr

/-- The rows that the device at a source mesh index sends, in cursor order (R337). -/
def planRows (ls ld : Layout) (tabD : List Nat) (smi : Nat) : List RowItem :=
  let cs := ls.coords smi
  let idle := (List.range 4).any (fun j => cs.getD j 0 != 0 && !((ls.axes.take ls.rank).contains j))
  if idle then []
  else tabD.zipIdx.flatMap (fun (e : Nat × Nat) =>
    let cd := ld.coords e.2
    let runs := (List.range ls.rank).map (fun k => meetRuns (ls.owned k cs) (ld.owned k cd))
    (choices runs).zipIdx.flatMap (fun (bx : List (Nat × Nat) × Nat) =>
      let inner := bx.1.getD (ls.rank - 1) (0, 0)
      let outer := (bx.1.take (ls.rank - 1)).map (fun r => (List.range (r.2 - r.1)).map (fun i => r.1 + i))
      (choices outer).zipIdx.map (fun (g : List Nat × Nat) =>
        let idx := g.1 ++ [inner.1]
        let n := (inner.2 - inner.1) * ls.w / 8
        { shard := e.2, box := bx.2, row := g.2, dev := e.1, src := [(ls.addr idx, n)], dst := ld.addr idx, bytes := n })))

/-- The chunks of a manifest, in order (R346). -/
def chunkItems (m : List Word) : List RowItem :=
  let n := bits (m.getD 0 0) 15 0
  let nend := bits (m.getD 0 0) 18 16
  let ents := (List.range n).map (fun i => ((m.getD (8 + 2 * i) 0).toNat, (m.getD (9 + 2 * i) 0).toNat))
  let starts := ents.foldl (fun (acc : List (Nat × Nat × Nat × Nat) × Nat) e =>
    (acc.1 ++ [(acc.1.length, acc.2, e.1, e.2)], acc.2 + e.2)) ([], 0)
  let total := starts.2
  (List.range ((total + 2 ^ 20 - 1) / 2 ^ 20)).map (fun c =>
    let c0 := c * 2 ^ 20
    let c1 := Nat.min (c0 + 2 ^ 20) total
    let parts := starts.1.filterMap (fun e =>
      let lo := Nat.max c0 e.2.1
      let hi := Nat.min c1 (e.2.1 + e.2.2.2)
      if lo < hi then some (e.1, lo - e.2.1, e.2.2.1 + (lo - e.2.1), hi - lo) else none)
    let first := parts.headD (0, 0, 0, 0)
    let ep := m.getD (1 + c % nend) 0
    { shard := 0, box := first.1, row := first.2.1, dev := bits ep 57 48, src := parts.map (fun q => (q.2.2.1, q.2.2.2)),
      dst := bits ep 47 0 + (c / nend) * 2 ^ 20, bytes := c1 - c0 })

/-- What a run of this package sends. -/
def Run.items (r : Run) (dev : Nat) : List RowItem :=
  if r.ckpt then chunkItems r.source
  else match r.tabS.findIdx? (· == dev) with
    | some i => planRows (layoutOf r.source) (layoutOf r.target) r.tabD i
    | none => []

/-- The bytes that a plan sends to a device (R342). -/
def Run.expects (r : Run) (dev : Nat) : Nat :=
  if r.ckpt then 0
  else (List.range r.tabS.length).foldl (fun acc i =>
    (planRows (layoutOf r.source) (layoutOf r.target) r.tabD i).foldl
      (fun a it => if it.dev = dev then a + it.bytes else a) acc) 0

/-- The order of cursors. -/
def cursorLt (a b : Nat × Nat × Nat) : Bool :=
  decide (a.1 < b.1) || (a.1 == b.1 && (decide (a.2.1 < b.2.1) || (a.2.1 == b.2.1 && decide (a.2.2 < b.2.2))))

/-- The cursor of an item. -/
def RowItem.key (i : RowItem) : Nat × Nat × Nat := (i.shard, i.box, i.row)

/-! ## Plans (R335, R336, R347) -/

/-- The unit that no shard boundary may split. -/
def planUnit (t : BitVec 24) : Nat :=
  let g := if tagGrp t = 0 then 0 else runLen (tagGrp t)
  let r := if tagRot t = 0 then 0 else runLen (tagRot t)
  Nat.max g r

/-- The plan fault of the lowest cause: cause, record, dword. -/
def planFault (f : Fabric) (ls ld : Layout) (ts td : List Nat) : Option (Nat × Nat × Nat) :=
  let r := ls.rank - 1
  let u := planUnit ls.tag
  let badTab := fun (t : List Nat) => t.any (fun d => decide (512 ≤ d) || !f.populated d) || !noRepeats t
  let inner := fun (l : Layout) => l.axes.getD r 0 != 15 && l.blk.getD r 0 % u != 0
  if ls.tag != ld.tag then some (1, 0, 0)
  else if ls.rank != ld.rank then some (2, 0, 0)
  else match (List.range ls.rank).find? (fun k => ls.shape.getD k 0 != ld.shape.getD k 0) with
    | some k => some (2, 0, 1 + k / 2)
    | none =>
      if u != 0 && ls.shape.getD r 0 % u != 0 then some (3, 0, 1 + r / 2)
      else if u != 0 && inner ls then some (3, 0, 5 + r / 2)
      else if u != 0 && inner ld then some (3, 1, 5 + r / 2)
      else if badTab ts then some (4, 0, 8)
      else if badTab td then some (4, 1, 8)
      else if !ts.contains f.dev && !td.contains f.dev then some (5, 0, 8)
      else none

/-! ## The progress record (R339) -/

/-- The invalid dwords of a progress record, ascending. -/
def progressBad (ckpt : Bool) (d : List Word) : List Nat :=
  let dw := fun (k : Nat) => d.getD k 0
  let f := bits (dw 1) 15 8
  (if bits (dw 1) 63 40 != 0 || bits (dw 1) 7 4 != 0 || decide (5 < bits (dw 1) 3 0)
      || !(f == 0 || f == 9 || f == 10 || f == 12 || f == 13) then [1] else [])
  ++ (if bits (dw 2) 31 10 != 0 || decide (511 < bits (dw 2) 9 0) then [2] else [])
  ++ (if bits (dw 3) 63 48 != 0 then [3] else [])
  ++ (if (dw 6).toNat % 32 != 0 then [6] else [])
  ++ (if !ckpt && (dw 7).toNat % 128 != 0 then [7] else [])

/-- Dword 1 of a run's live copy. -/
def Run.word1 (r : Run) : Word :=
  w64 (r.rstate + r.fcause * 2 ^ 8 + r.fdet * 2 ^ 16 + Nat.min r.poison 65535 * 2 ^ 24)

/-- The cursor of a run: the first row not acknowledged, or the place after the last row (R340). -/
def Run.cursor (r : Run) (dev : Nat) : Nat × Nat × Nat :=
  let its := r.items dev
  let i := match r.rows with
    | x :: _ => x.index
    | [] => r.next
  match its[i]? with
  | some it => it.key
  | none => match its.getLast? with
    | some it =>
      if r.ckpt then
        let n := bits (r.source.getD 0 0) 15 0
        (0, n - 1, (r.source.getD (7 + 2 * n) 0).toNat)
      else (it.shard, it.box, it.row + 1)
    | none => (0, 0, 0)

/-- Drop the acknowledged rows at the front. -/
def Run.settle (r : Run) : Run := { r with rows := r.rows.dropWhile (fun x => x.st == 1) }

/-! ## Runs by number -/

/-- The run of a slot. -/
def State.flow (s : State) (n : Nat) : Option Run := s.flows.find? (fun r => r.slot == n)

/-- Replace a run. -/
def State.setFlow (s : State) (r : Run) : State := { s with flows := r :: s.flows.filter (fun x => x.slot != r.slot) }

/-- Free a run's slot. -/
def State.dropFlow (s : State) (n : Nat) : State := { s with flows := s.flows.filter (fun x => x.slot != n) }

/-- Who makes a run's accesses (R122). -/
def Run.who (r : Run) : Who :=
  { core := none, key := 48 + r.slot, stream := 6912 + r.slot, launch := r.launch, agency := r.agency }

/-- Who writes a run's record and receive table (R347). -/
def Run.recWho (r : Run) : Who := { r.who with key := 80 + r.slot, sup := r.sup }

/-- Who takes and releases a run's completion object. -/
def Run.soWho (r : Run) : Who := { r.who with key := 88 + r.slot, sup := r.sup }

/-- Read bytes that may cross pages. -/
def engReadAll (w : Who) : Nat → List (Nat × Nat) → E (List Byte)
  | _, [] => pure []
  | k, (va, n) :: t => do
    let bs ← engRead w k va n
    let r ← engReadAll w (k + 1) t
    pure (bs ++ r)

/-- Write bytes that may cross pages. -/
def engWriteAll (w : Who) : Nat → List (Nat × Nat) → List Byte → E Unit
  | _, [], _ => pure ()
  | k, (va, n) :: t, bs => do
    engWrite w k va (bs.take n)
    engWriteAll w (k + 1) t (bs.drop n)

/-! ## Committing (R340) -/

/-- A commit begins, unless one is under way: it gives the live copy as it stands now. -/
def Run.begun (r : Run) (dev : Nat) : Run :=
  if r.commit.isSome then r
  else
    let c := r.cursor dev
    { r with
      commit := some
        { entries := r.changed.map (fun d => (d, look r.entries d (0, 0, 0)))
          words := [r.word1, w64 (c.2.1 * 2 ^ 32 + c.1), w64 (c.2.2 % 2 ^ 48), w64 r.sent, w64 r.recv]
          counted := r.counted, sent := r.sent, recv := r.recv }
      counted := [], changed := [], dirty := false }

/-- Write receive-table entries of some source devices. -/
def commitEntries (r : Run) : Nat → List (Nat × (Nat × Nat × Nat)) → E Unit
  | _, [] => pure ()
  | k, (d, e) :: t => do
    engWrite r.recWho k (r.rtab + 16 * d) (bytesOfWords [w64 e.2.1, w64 (e.2.2 % 2 ^ 48 + e.1 * 2 ^ 48 + 2 ^ 63)])
    commitEntries r (k + 1) t

/-- What a new run writes before its first commit (R341): pr.hash and a zero receive table. -/
def firstE (r : Run) : E Unit := do
  engWrite r.recWho 12 r.recVa (bytesOfWords [r.hash])
  if r.ckpt then pure () else engWriteAll r.recWho 1000 (pagesOf r.rtab 8192) (List.replicate 8192 0)

/-- The writes of a commit: the receive table's changed entries, then dwords 1 to 5 of the record. -/
def commitE (r : Run) (c : FlowCommit) : E Unit := do
  if r.first then firstE r else pure ()
  commitEntries r 16 c.entries
  engWrite r.recWho 15 (r.recVa + 8) (bytesOfWords c.words)

/-- Acknowledge the rows that the commit covers. -/
def State.ackCounted (s : State) (l : List CountedRow) : State :=
  l.foldl (fun s c => s.sendPkt ⟨1, s.fab.dev, c.src, c.stream, c.num, 0, .response (unicastWord 0) [] false⟩) s

/-- A commit has been performed: its rows are acknowledged; a STOPPED run leaves its slot (R344). -/
def State.flowEnd (s : State) (r : Run) (c : FlowCommit) : State :=
  let s := s.engForget r.recWho
  let r' := { r with commit := none, first := false, sentC := c.sent, recvC := c.recv }
  (if r.rstate = 3 ∧ r.dirty = false then s.dropFlow r.slot else s.setFlow r').ackCounted c.counted

/-- pr.fdet of a fault (R339). -/
def TrapReq.fdet (e : TrapReq) : Nat := if e.cause = cFabric then bits e.detail 43 40 else e.detail.toNat % 256

/-- A run stops for a fault: PAUSED, a commit owed, reported (R345). -/
def State.pauseRun (s : State) (r : Run) (cause detail : Nat) : State :=
  (s.setFlow { r with rstate := 2, fcause := cause, fdet := detail % 256, wait := none, blocked := false,
                      dirty := true }).report 7 (w64 r.recVa)

/-- A run offers a page fault to the firmware (R100, R345). -/
def State.offerRun (s : State) (r : Run) (e : TrapReq) : State :=
  (s.setFlow { r with wait := some ⟨false, e.taddr.toNat, e.detail.toNat, false⟩ }).report 11 e.taddr

/-- A commit meets a fault (R345): what it held is to be committed yet. A page fault is first offered to the firmware, a running
plan pauses, a STOPPED run leaves its slot, a PAUSED one stays as it is (log 116, DESIGN CHOICE). -/
def State.commitFault (s : State) (r : Run) (c : FlowCommit) (e : TrapReq) : State :=
  let r := { r with commit := none, counted := c.counted ++ r.counted,
                    changed := c.entries.foldl (fun l x => insertNat l x.1) r.changed }
  if r.rstate = 3 then (s.dropFlow r.slot).report 7 (w64 r.recVa)
  else if r.rstate = 1 ∨ r.rstate = 4 then
    (if e.cause = cPage then
      (if r.wait.isNone then s.offerRun { r with dirty := true, blocked := true } e
       else s.setFlow { r with dirty := true, blocked := true })
    else s.pauseRun r e.cause.toNat e.fdet)
  else s.setFlow { r with dirty := false }

/-- FLOWSTONE_COMMIT: the record follows the live copy; a commit to another package is finished when the answers are here. -/
def State.flowCommit (s : State) (n : Nat) : State :=
  match s.flow n with
  | none => s
  | some r0 =>
    let r := r0.begun s.fab.dev
    match r.commit with
    | none => s
    | some c =>
      match commitE r c s with
      | .ok (_, s) => s.flowEnd r c
      | .error (.pend f) => (f s).setFlow r
      | .error (.fault e log) => (((log s).engForget r.recWho).commitFault r c e)

/-- A running plan stops for a fault: PAUSED, committed, reported (R345). So does one that is done and cannot commit its end or release its
object. -/
def State.flowPause (s : State) (n cause detail : Nat) : State :=
  match s.flow n with
  | none => s
  | some r => if r.rstate = 1 ∨ r.rstate = 4 then (s.pauseRun r cause detail).flowCommit n else s

/-- The runs of a launch are FAULTED: an image of it was refused at a restore (R345). Such a run keeps its slot and its object as a
PAUSED one does (log 131, DESIGN CHOICE). -/
def State.flowsFaulted (s : State) (launch : Nat) : State :=
  (s.flows.filter (fun r => r.launch == launch && (r.rstate == 1 || r.rstate == 2))).foldl (fun (s : State) r =>
    ((s.setFlow { r with rstate := 5, wait := none, blocked := false, dirty := true }).report 7 (w64 r.recVa)).flowCommit r.slot) s

/-- A fault of a run's local access: a page fault is first offered to the firmware (R100, R345). -/
def State.flowFault (s : State) (n : Nat) (e : TrapReq) : State :=
  match s.flow n with
  | none => s
  | some r =>
    if e.cause = cPage && r.wait.isNone then s.offerRun r e
    else s.flowPause n e.cause.toNat e.fdet

/-! ## The completion object (R341, R342) -/

/-- An attempt on a sync object on the engine's behalf. -/
def engSo (w : Who) (op : SoOp) (va : Nat) : E (List Word) := do
  let sp ← engLocate w va true
  fun s =>
    let me := ownerOf s.fab.dev 255 0
    match sp with
    | .mem pa _ => let r := s.soAttempt op me pa w.agency; .ok (r.1, r.2.joinFar .l2 pa 32 w.agent)
    | .remote dev pa =>
      (do
        let (_, bs) ← engMapped w 14 dev va (fabAddr dev pa) (.other [w64 op.code, w64 pa, w64 me])
        pure (wordsOfBytes 4 bs) : E (List Word)) s
    | _ => .error (.fault (protTrap va 1) id)

/-- FLOWSTONE_SO_GRANTED: an attempt to take the object; a resumed run may hold it already. An object that is no valid one is never
granted, and the run waits: R345 and R347 list no fault for it (log 132, DESIGN CHOICE). -/
def State.flowGrant (s : State) (n : Nat) : State :=
  match s.flow n with
  | none => s
  | some r =>
    if r.soHeld || r.rstate != 1 then s
    else if r.so = 0 then s.setFlow { r with soHeld := true }
    else match engSo r.soWho .acqX r.so s with
      | .ok (ws, s) =>
        let s := s.engForget r.soWho
        let l := ws.getD 0 0
        let ours := r.soOurs && bitAt l 63 && ownerBits l == ownerOf s.fab.dev 255 0
        if soValid ws && (soGranted .acqX l || ours) then s.setFlow { r with soHeld := true, soOurs := true } else s
      | .error (.pend f) => f s
      | .error (.fault e log) => (log s).flowFault n e

/-- Whether the object may be granted: its lock word is free, or the engine holds it, or it lies elsewhere. -/
def State.flowGrantable (s : State) (r : Run) : Bool :=
  r.rstate == 1 && !r.soHeld && r.wait.isNone &&
    (r.so == 0 || match engLocate r.soWho r.so true s with
      | .ok (.mem pa _, _) =>
        let ws := wordsOfBytes 4 (memGetN s.mem pa 32)
        let l := ws.getD 0 0
        soValid ws && (soGranted .acqX l || (r.soOurs && ownerBits l == ownerOf s.fab.dev 255 0))
      | _ => true)

/-- Whether everything of a run is committed. -/
def Run.quiet (r : Run) : Bool := r.commit.isNone && !r.dirty

/-- Whether a run is done (R342). -/
def State.flowDone (s : State) (r : Run) : Bool :=
  r.rstate == 1 && r.soHeld && decide ((r.items s.fab.dev).length ≤ r.next) && r.rows.all (fun x => x.st == 1)
    && r.recv == r.expects s.fab.dev

/-- Once DONE is committed the completion object is released, and the slot is free (R342). -/
def State.flowRelease (s : State) (n : Nat) : State :=
  match s.flow n with
  | none => s
  | some r =>
    if r.rstate ≠ 4 ∨ r.quiet = false ∨ r.wait.isSome then s
    else if r.so = 0 then s.dropFlow n
    else match engSo r.soWho .rel r.so s with
      | .ok (_, s) => (s.engForget r.soWho).dropFlow n
      | .error (.pend f) => f s
      | .error (.fault e log) => (log s).flowFault n e

/-- FLOWSTONE_RUN_DONE: DONE is committed, then the object is released, and the slot is free. -/
def State.flowFinish (s : State) (n : Nat) : State :=
  match s.flow n with
  | none => s
  | some r =>
    if r.rstate = 4 then s.flowRelease n
    else ((s.setFlow { r with rstate := 4, dirty := true }).flowCommit n).flowRelease n

/-! ## Sending (R337, R345, R346) -/

/-- Read source bytes; poisoned sectors are carried and named (R345): 64 · offset + length of each part. -/
def rowRead (w : Who) : Nat → Nat → List (Nat × Nat) → E (List Byte × List Nat)
  | _, _, [] => pure ([], [])
  | k, off, (va, n) :: t => do
    let sp ← engLocate w va false
    let bs ← (match sp with
      | .mem pa _ => (fun (s : State) => .ok (s.homeRead pa n .l2 w.agency) : E (List Byte))
      | _ => engRead w k va n)
    let bad ← (fun (s : State) => .ok (match sp with
      | .mem pa _ => ((sectorsOf pa n).filter s.sectorBad).map (fun x =>
          let lo := Nat.max pa (32 * x)
          64 * (off + lo - pa) + (Nat.min (pa + n) (32 * x + 32) - lo))
      | _ => [], s) : E (List Nat))
    let r ← rowRead w (k + 1) (off + n) t
    pure (bs ++ r.1, bad ++ r.2)

/-- The place in the plan of the next row to send: one to be sent again, or a new one. -/
def Run.pickRow (r : Run) : Nat := match r.rows.find? (fun x => x.st == 2) with
  | some x => x.index
  | none => r.next

/-- Note a row as sent. -/
def Run.noteSent (r : Run) (i num : Nat) : Run :=
  if r.rows.any (fun x => x.index == i) then
    { r with rows := r.rows.map (fun x => if x.index = i then ⟨i, num, 0⟩ else x) }
  else { r with rows := r.rows ++ [⟨i, num, 0⟩], next := i + 1 }

/-- FLOWSTONE_ROW_SEND and CKPT_CHUNK_SEND: read and send the row at the cursor. -/
def State.flowSend (s : State) (n : Nat) : State :=
  match s.flow n with
  | none => s
  | some r =>
    match (r.items s.fab.dev)[r.pickRow]? with
    | none => s
    | some it =>
      match rowRead r.who 1000 0 (it.src.flatMap (fun q => pagesOf q.1 q.2)) s with
      | .error (.pend f) => f s
      | .error (.fault e log) => (log s).flowFault n e
      | .ok ((bs, bad), s) =>
        let s := (s.engForget r.who).account r.agency 7 bs.length
        let (num, s) := s.seqNum (6912 + n) it.dev
        let body := if r.ckpt then Load.chunk it.dst bs bad
          else .row r.hash it.shard it.box it.row it.dst bs bad
        let k : Pkt := ⟨if r.ckpt then 5 else 4, s.fab.dev, it.dev, 6912 + n, num, r.agency, body⟩
        let o : Outstanding := ⟨k, s.now + resendTime, 0, r.pickRow, 254, n, none, r.launch⟩
        let s := s.setFlow { (r.noteSent r.pickRow num) with poison := r.poison + bad.length }
        ({ s with fab := { s.fab with out := s.fab.out ++ [o] } } : State).sendPkt k

/-- Whether a run may send now (R311, R341); a lost link is waited for (R345). -/
def State.flowSends (s : State) (r : Run) : Bool :=
  r.rstate == 1 && r.soHeld && r.wait.isNone && decide (s.outstanding (6912 + r.slot) < 4096)
    && (match (r.items s.fab.dev)[r.pickRow]? with
        | some it => s.fab.reaches it.dev
        | none => false)

/-! ## Acknowledgements (R340, R343, R345) -/

/-- FLOWSTONE_ROW_ACK: the answer to row `num` of a run; a busy one is resent by its timer without being counted. -/
def State.flowAck (s : State) (n : Nat) (k : Pkt) : State :=
  let s := s.taken k
  match s.fab.out.find? (fun o => o.pkt.dst == k.src && o.pkt.stream == k.stream && o.pkt.num == k.num) with
  | none => s
  | some o =>
    match k.body with
    | .response w _ busy =>
      if busy then s.modOut o.pkt (fun o => { o with resends := 0 })
      else
        let s := s.dropOut o.pkt
        match s.flow n with
        | none => s
        | some r =>
          match r.rows.find? (fun x => x.index == o.step && x.num == k.num && x.st == 0) with
          | none => s
          | some x =>
            let mark := fun (st : Nat) => r.rows.map (fun y => if y = x then { y with st := st } else y)
            if bits w 53 44 = 0 then
              let it := (r.items s.fab.dev).getD x.index ⟨0, 0, 0, 0, [], 0, 0⟩
              s.setFlow ({ r with rows := mark 1, sent := r.sent + it.bytes }).settle
            else (s.setFlow { r with rows := mark 2 }).flowPause n 0x0D (bits w 43 40)
    | _ => s

/-! ## Receiving (R343) -/

/-- The pages of a row at its destination: physical places, or the answer's cause (1, 2), or a page fault to offer. -/
inductive RowPlace where
  | at (ps : List (Nat × Nat))
  | neg (cause : Nat)
  | offer (va detail : Nat)
  deriving DecidableEq, Repr

/-- Where a row's bytes go, in the launch of the run and for the agency of the sender (R315, R343). -/
def rowPlace (w : Who) (s : State) (own : Bool) (refused : Option Nat) : List (Nat × Nat) → RowPlace
  | [] => .at []
  | (va, n) :: t =>
    match engLocate w va true s with
    | .ok (.mem pa _, _) =>
      if !own && !s.admits pa w.agency then .neg 2
      else match rowPlace w s own refused t with
        | .at ps => .at ((pa, n) :: ps)
        | r => r
    | .ok _ => .neg 1
    | .error (.fault e _) =>
      if e.cause = cPage && refused != some va then .offer va e.detail.toNat else .neg 1
    | .error (.pend _) => .neg 1

/-- The rows performed here that are not acknowledged yet. -/
def Run.unacked (r : Run) : List CountedRow := r.counted ++ (r.commit.map (·.counted)).getD []

/-- The run that takes a row: RUNNING under its hash. -/
def State.flowFor (s : State) (h : Word) : Option Run := s.flows.find? (fun r => !r.ckpt && r.hash == h && r.rstate == 1)

/-- Whether a row can be handled now: its run has its object, and no page fault of it is with the firmware. -/
def State.rowReady (s : State) (h : Word) : Bool := match s.flowFor h with
  | some r => r.soHeld && (match r.wait with
    | some x => x.refused
    | none => true)
  | none => true

/-- A row written and counted. -/
def State.rowWrite (s : State) (r : Run) (k : Pkt) (key : Nat × Nat × Nat) (ps : List (Nat × Nat)) (bs : List Byte)
    (bad : List Nat) : State :=
  let s := (ps.foldl (fun (a : State × List Byte × Nat) q =>
    let st := a.1.homeWrite q.1 (a.2.1.take q.2) .l2 r.agency
    let here := bad.filterMap (fun b =>
      if a.2.2 ≤ b / 64 ∧ b / 64 < a.2.2 + q.2 then some (64 * (b / 64 - a.2.2) + b % 64) else none)
    (st.addPoison (badSectors q.1 here), a.2.1.drop q.2, a.2.2 + q.2)) (s, bs, 0)).1
  let old := r.entries.find? (fun e => e.1 == k.src)
  let after := match old with
    | some e => cursorLt (e.2.1, e.2.2.1, e.2.2.2) key
    | none => true
  let r := { r with counted := r.counted ++ [⟨k.src, k.stream, k.num, s.now⟩], wait := none, blocked := false }
  s.setFlow (if after then { r with entries := put r.entries k.src key, changed := insertNat r.changed k.src,
                                    recv := r.recv + bs.length } else r)

/-- FLOWSTONE_ROW_RECEIVE. -/
def State.rowReceive (s : State) (k : Pkt) : State :=
  match k.body with
  | .row h shard box row va bs bad =>
    if !s.rowReady h then s
    else
      let x := s.rxFor k
      match x.place k.num with
      | .cached b =>
        let s := s.taken k
        if s.flows.any (fun r => r.unacked.any (fun c => c.src == k.src && c.stream == k.stream && c.num == k.num)) then s
        else let p := pktReply k s.fab.dev 0 [] false
             s.sendPkt { p with body := b }
      | .below => s.taken k
      | .later => (s.taken k).setRx (x.hold k.num 6 k)
      | .now =>
        match s.flowFor h with
        | none => (s.taken k).sendPkt (pktReply k s.fab.dev 0 [] true)
        | some r =>
          let refused := r.wait.bind (fun w => if w.recv && w.refused then some w.va else none)
          match rowPlace { r.who with agency := k.agency } s (k.src == s.fab.dev) refused (pagesOf va bs.length) with
          | .offer fva d => (s.setFlow { r with wait := some ⟨true, fva, d, false⟩ }).report 11 (w64 fva)
          | .neg c =>
            let s := (s.taken k).setFlow { r with wait := none, blocked := false }
            let s := s.setRx (x.done k.num (.response (unicastWord c) [] false))
            (s.sendPkt (pktReply k s.fab.dev (unicastWord c) [] false)).release k
          | .at ps =>
            let s := (s.taken k).rowWrite r k (shard, box, row) ps bs bad
            (s.setRx (x.done k.num (.response (unicastWord 0) [] false))).release k
  | _ => s

/-- Whether a commit is due (R340). -/
def State.flowCommits (s : State) (r : Run) : Bool :=
  !r.blocked && (!r.quiet
    || (r.rstate == 1 && (decide (r.sentC + 65536 ≤ r.sent) || decide (r.recvC + 65536 ≤ r.recv)
      || (decide (r.recvC < r.recv) && r.recv == r.expects s.fab.dev)
      || r.counted.any (fun c => decide (c.at_ + 4096 ≤ s.now)))))

/-! ## Starting a run (R341, R346, R347) -/

/-- The format fault of a record: dword, record (0 source, 1 destination, 2 progress, 3 manifest), plan cause. -/
def recordFault {α : Type} (va dword rec_ : Nat) (plan : Option Nat) : E α :=
  faultE ⟨cFormat, w64 va, w64 (dword + 16 * rec_ + (match plan with
    | some c => 64 + 256 * c
    | none => 0))⟩

/-- Fault when a list of invalid dwords is not empty. -/
def recordOk (va rec_ : Nat) (bad : List Nat) : E Unit := match bad with
  | [] => pure ()
  | d :: _ => recordFault va d rec_ none

/-- Alignment of a record. -/
def recordAlign (va align code : Nat) : E Unit :=
  if va % align = 0 then pure () else faultE ⟨cAlign, w64 va, w64 code⟩

/-- The fabric address that names a record. -/
def recordId (w : Who) (va : Nat) (write : Bool) : E Nat := do
  let sp ← engLocate w va write
  fun s => match sp with
    | .mem pa _ => .ok (fabAddr s.fab.dev pa, s)
    | .remote dev pa => .ok (fabAddr dev pa, s)
    | _ => .error (.fault (protTrap va (wbit write)) id)

/-- The device table of a layout record; an invalid record, which ends in the format fault, has none to read (R341, R347). -/
def deviceTable (w : Who) (k : Nat) (d : List Word) : E (List Nat × List Byte) :=
  if !(layoutBad d).isEmpty then pure ([], [])
  else do
    let l := layoutOf d
    let bs ← engReadAll w k (pagesOf l.table (2 * l.devices))
    pure ((halvesOfBytes l.devices bs).map (·.toNat), bs)

/-- An instruction or packet enters a run, or a new state of one, and waits for its commit (R341, R344). A fault of the commit at
its first try is that of the instruction. -/
def enterRun (r : Run) : E Unit := fun s =>
  let r := { r with dirty := true }
  let later := Except.error (EStop.pend (fun s => (s.setFlow r).flowCommit r.slot))
  if r.commit.isSome then later
  else
    let r := r.begun s.fab.dev
    match r.commit with
    | none => .ok ((), s)
    | some c =>
      match commitE r c s with
      | .ok (_, s) => .ok ((), s.flowEnd { r with waited := none } c)
      | .error (.fault e log) => .error (.fault e log)
      | .error (.pend _) => later

/-- The entries of a receive table in memory. -/
def tableEntries (bs : List Byte) : List (Nat × (Nat × Nat × Nat)) :=
  let ws := wordsOfBytes 1024 bs
  (List.range 512).filterMap (fun d =>
    let e := ws.getD (2 * d + 1) 0
    if bitAt e 63 then some (d, (bits e 57 48, (ws.getD (2 * d) 0).toNat, bits e 47 0)) else none)

/-- A run that no engine slot holds resumes at the committed cursor. -/
def Run.resumed (r : Run) (dev : Nat) (P : List Word) : Run :=
  let cur := (bits (P.getD 2 0) 9 0, bits (P.getD 2 0) 63 32, bits (P.getD 3 0) 47 0)
  { r with poison := bits (P.getD 1 0) 39 24,
           next := ((r.items dev).filter (fun i => cursorLt i.key cur)).length, sent := (P.getD 4 0).toNat,
           recv := (P.getD 5 0).toNat, soOurs := true }

/-- Start or resume a run, as the state in its record says (R341): false when the record is DONE. A new run on a record whose run
is not RUNNING takes that run's slot, and its hold of the object. -/
def startRun (w : Who) (fresh : Run) (P : List Word) : E Bool := fun s =>
  let st := bits (P.getD 1 0) 3 0
  let live := s.flows.find? (fun r => r.recId == fresh.recId)
  let me := some (w.coreKey, w.key)
  let go := fun (r : Run) => (do
    enterRun r
    pure true : E Bool)
  match live with
  | some r =>
    if r.rstate = 1 then .error (.fault ⟨cProtect, w64 fresh.recVa, 0x80⟩ id)
    else if st = 4 then .ok (false, s)
    else if st = 0 then
      go { fresh with slot := r.slot, first := true, waited := me, soOurs := r.soOurs || r.soHeld, soHeld := fresh.so == 0 } s
    else go { r with rstate := 1, uid := fresh.uid, waited := me } s
  | none =>
    match (List.range 8).find? (fun n => (s.flow n).isNone) with
    | none => .error (.pend id)
    | some n =>
      let r := { fresh with slot := n, waited := me, soHeld := fresh.so == 0 }
      if st = 4 then .ok (false, s)
      else if st = 0 then go { r with first := true } s
      else if r.ckpt then go (r.resumed s.fab.dev P) s
      else (do
        let bs ← engReadAll w 100 (pagesOf r.rtab 8192)
        go { r.resumed s.fab.dev P with entries := tableEntries bs } : E Bool) s

/-- Whether a run was entered by this instruction or packet before, and its commit is waited for: some true when it is over. -/
def waitRun (w : Who) (p : Nat) : E (Option Unit) := fun s =>
  match s.flows.find? (fun r => r.waited == some (w.coreKey, w.key) && r.recVa == p) with
  | none => .ok (none, s)
  | some r =>
    if r.quiet || r.rstate != 1 then .ok (some (), s.setFlow { r with waited := none }) else .error (.pend id)

/-- A run not yet entered; the last fault that its record names stays there (R341). -/
def Run.blank (w : Who) (ckpt : Bool) (p id_ : Nat) (P : List Word) (uid : Option Nat) : Run :=
  { slot := 0, ckpt := ckpt, recVa := p, recId := id_, launch := w.launch, agency := w.agency, source := [], target := [],
    tabS := [], tabD := [], hash := 0, rstate := 1, fcause := bits (P.getD 1 0) 15 8,
    fdet := bits (P.getD 1 0) 23 16, poison := 0, next := 0, sent := 0, recv := 0,
    sentC := 0, recvC := 0, so := (P.getD 6 0).toNat, soHeld := false, soOurs := false, rtab := (P.getD 7 0).toNat,
    rows := [], counted := [], entries := [], changed := [], dirty := false, wait := none, uid := uid, sup := w.sup }

/-- The start of a run whose records have been read and checked: the hash, then the state (R341). -/
def hashedRun (w : Who) (r : Run) (P : List Word) : E Bool :=
  if bits (P.getD 1 0) 3 0 != 0 && P.getD 0 0 != r.hash then recordFault r.recVa 0 2 none else startRun w r P

/-- RSGO's or a RESHARD packet's reads and checks (R341): true when the run starts, false when its record is DONE already. -/
def reshardNew (w : Who) (p sa da : Nat) (uid : Option Nat) : E Bool := do
  recordAlign sa 128 8
  recordAlign da 128 8
  recordAlign p 64 4
  let sb ← engRead w 1 sa 128
  let db ← engRead w 2 da 128
  let pb ← engRead w 3 p 64
  let S := wordsOfBytes 16 sb
  let D := wordsOfBytes 16 db
  let P := wordsOfBytes 8 pb
  let (ts, tsb) ← deviceTable w 4 S
  let (td, tdb) ← deviceTable w 8 D
  recordOk sa 0 (layoutBad S)
  recordOk da 1 (layoutBad D)
  recordOk p 2 (progressBad false P)
  let id_ ← recordId w p false
  let h := w64 (natOfBytes (shake256 8 (sb ++ db ++ tsb ++ tdb)))
  fun s =>
    match planFault s.fab (layoutOf S) (layoutOf D) ts td with
    | some (c, rec_, dword) => recordFault (if rec_ = 0 then sa else da) dword rec_ (some c) s
    | none => hashedRun w { Run.blank w false p id_ P uid with source := S, target := D, tabS := ts, tabD := td, hash := h } P s

/-- RSGO or a RESHARD packet: the run starts, and its commit is waited for (R341). -/
def reshardE (w : Who) (p sa da : Nat) (uid : Option Nat) : E Bool := do
  match ← waitRun w p with
  | some _ => pure true
  | none => reshardNew w p sa da uid

/-- The invalid dwords of a manifest header and its entries (R346). -/
def manifestBad (f : Fabric) (m : List Word) : List Nat :=
  let n := bits (m.getD 0 0) 15 0
  let nend := bits (m.getD 0 0) 18 16
  let bad0 := bits (m.getD 0 0) 63 19 != 0 || n == 0 || decide (4096 < n) || nend == 0 || nend == 7
  let ep := fun (j : Nat) => let x := m.getD (1 + j) 0
    if j < nend then bits x 63 58 != 0 || bits x 47 0 % 2 ^ 20 != 0 || !f.populated (bits x 57 48) || bits x 57 48 == f.dev
    else x != 0
  let ent := fun (i : Nat) =>
    let va := m.getD (8 + 2 * i) 0
    let len := m.getD (9 + 2 * i) 0
    (if bits va 63 57 != 0 || va.toNat % 128 != 0 then [8 + 2 * i] else [])
    ++ (if bits len 63 48 != 0 || len.toNat % 128 != 0 || len == 0 then [9 + 2 * i] else [])
  (if bad0 then [0] else [])
  ++ ((List.range 6).filter ep).map (1 + ·)
  ++ (if m.getD 7 0 != 0 then [7] else [])
  ++ (if bad0 then [] else (List.range n).flatMap ent)

/-- The reads and checks of CKPT or a checkpoint packet (R346). -/
def ckptNew (w : Who) (ma p : Nat) (uid : Option Nat) : E Bool := do
  recordAlign ma 64 4
  recordAlign p 64 4
  let hb ← engRead w 1 ma 64
  let n := bits ((wordsOfBytes 8 hb).getD 0 0) 15 0
  let pb ← engRead w 3 p 64
  let P := wordsOfBytes 8 pb
  let eb ← engReadAll w 4 (pagesOf (ma + 64) (16 * Nat.min n 4096))
  let m := wordsOfBytes (8 + 2 * Nat.min n 4096) (hb ++ eb)
  let id_ ← recordId w p false
  let h := w64 (natOfBytes (shake256 8 (hb ++ eb)))
  fun s =>
    match manifestBad s.fab m, progressBad true P with
    | d :: _, _ => recordFault ma (d % 16) 3 none s
    | [], d :: _ => recordFault p d 2 none s
    | [], [] => hashedRun w { Run.blank w true p id_ P uid with source := m, hash := h } P s

/-- CKPT or a checkpoint packet (R346): as RSGO. -/
def ckptE (w : Who) (ma p : Nat) (uid : Option Nat) : E Bool := do
  match ← waitRun w p with
  | some _ => pure true
  | none => ckptNew w ma p uid

/-! ## The instructions -/

/-- An engine's access as part of an instruction: its fault is the instruction's, and the core freezes for its answers. -/
def liftE {α : Type} (k : WaitKind) (m : E α) : M α := fun s =>
  match m s with
  | .ok r => .ok r
  | .error (.fault r log) => .error (.trapLog r log)
  | .error (.pend f) => .error (.send k f)

/-- Who a context is to the engine that acts for it at once. -/
def Ctx.who (c : Ctx) (key : Nat) : Who :=
  { core := some c.core, key := key + c.slot, stream := c.stream, launch := c.launch, agency := c.agency, slot := c.slot,
    agent := c.agent, sup := c.sv }

/-- The answered requests of an instruction's engine accesses are done with. -/
def forgetE (key : Nat) : M Unit := fun s => .ok ((), s.engForget (s.ctx.who key))

def execRsgo (p : Pos) (d a b : BitVec 5) (s : State) : Out :=
  finish p (do
    settle false
    let pr ← readS p 1 false d
    let sa ← readS p 1 p.bypA a
    let da ← readS p 1 p.bypB b
    let c ← getCtx
    let _ ← liftE .access (reshardE (c.who 64) pr.toNat sa.toNat da.toNat none)
    forgetE 64) s

def execCkpt (p : Pos) (a b : BitVec 5) (s : State) : Out :=
  finish p (do
    settle false
    let ma ← readS p 1 p.bypA a
    let pr ← readS p 1 p.bypB b
    let c ← getCtx
    let _ ← liftE .access (ckptE (c.who 64) ma.toNat pr.toNat none)
    forgetE 64) s

/-- The run that the engine holds on a record. -/
def runOn (w : Who) (va : Nat) : E (Option Run) := do
  recordAlign va 64 4
  let id_ ← recordId w va false
  fun s => .ok (s.flows.find? (fun r => r.recId == id_), s)

/-- RSSTOP of a run (R344): STOPPED is committed, then the slot is free. -/
def stopRun (r : Run) : E Unit := if r.rstate = 3 then (fun _ => .error (.pend id)) else enterRun { r with rstate := 3 }

def execRsstat (p : Pos) (d a : BitVec 5) (s : State) : Out :=
  finish p (do
    let pr ← readS p 1 p.bypA a
    let c ← getCtx
    let w ← liftE .access (do
      let r ← runOn (c.who 64) pr.toNat
      match r with
      | some r => pure r.word1
      | none => do
        let bs ← engRead (c.who 64) 3 pr.toNat 64
        let P := wordsOfBytes 8 bs
        recordOk pr.toNat 2 (progressBad false P)
        pure (P.getD 1 0))
    forgetE 64
    writeS p 1 d w) s

def execRsstop (p : Pos) (a : BitVec 5) (s : State) : Out :=
  finish p (do
    let pr ← readS p 1 p.bypA a
    let c ← getCtx
    liftE .access (do
      match ← runOn (c.who 64) pr.toNat with
      | none => pure ()
      | some r => stopRun r)
    forgetE 64) s

/-! ## The events -/

def execFlowstoneSoGranted (r : Nat) (s : State) : Out := .next (s.flowGrant r)
def execFlowstoneRowSend (r : Nat) (s : State) : Out := .next (s.flowSend r)
def execCkptChunkSend (r : Nat) (s : State) : Out := .next (s.flowSend r)
def execFlowstoneRowReceive (k : Pkt) (s : State) : Out := .next (s.rowReceive k)
def execFlowstoneRowAck (r : Nat) (k : Pkt) (s : State) : Out := .next (s.flowAck r k)
def execFlowstoneCommit (r : Nat) (s : State) : Out := .next (s.flowCommit r)
def execFlowstoneRunDone (r : Nat) (s : State) : Out := .next (s.flowFinish r)
def execFlowstoneFault (r : Nat) (cause detail : Nat) (s : State) : Out := .next (s.flowPause r cause detail)

/-- The firmware's answer to a page fault of a run (R343, R345). -/
def State.flowAnswer (s : State) (n : Nat) (mapped : Bool) : State :=
  match s.flow n with
  | none => s
  | some r =>
    match r.wait with
    | none => s
    | some w =>
      if mapped then s.setFlow { r with wait := none, blocked := false }
      else if w.recv then s.setFlow { r with wait := some { w with refused := true } }
      else s.flowPause n 0x0A w.detail

end Sys2Proof.Machine
end

