-- ==== Sys2Proof/Machine/Rimstone.lean ====
section
/-! DEFINITION. Rimstone (spec/20 R349 to R375): horizons, the sweep, settling, joint sweeps of several packages, the SL
instructions. -/

namespace Sys2Proof.Machine

/-! ## The Horizon Control Block (R350) -/

/-- Whether a post word is invalid (R208, R350). -/
def slPostBad (w : Word) : Bool := bits w 63 29 != 0 || decide (215 < bits w 28 21) || bits w 15 0 == 0

/-- The invalid dwords of an HCB, ascending; an invalid hb.devs counts as dword 8. -/
def hcbBad (f : Fabric) (d : List Word) : List Nat :=
  let z : Horizon := { h := 0, hcbAt := 0, hcb := d, launch := 0, owner := 0, winLo := 0, scs := [], opening := 0,
                       sweeps := [], tries := [], stuck := [], signals := [], parts := [], joints := [],
                       lost := false, told := false, offer := none }
  let w0 := z.dw 0
  let w1 := z.dw 1
  let tol := z.dw 2
  let devs := z.devs
  (if bits w0 63 48 != 0 || bits w0 31 25 != 0 || bits w0 15 2 != 0 || z.cap == 0 || z.win == 0 || decide (256 < z.win)
      || decide (z.count < z.win) || (z.win == 1 && z.count != 1) then [0] else [])
  ++ (if bits w1 63 53 != 0 || z.count == 0 || decide (2 ^ 20 < z.count) || z.len == 0 then [1] else [])
  ++ (if bits tol 62 52 == 0x7FF || (bitAt tol 63 && bits tol 62 0 != 0) then [2] else [])
  ++ (if (z.dw 3).toNat % 128 != 0 then [3] else [])
  ++ (if (z.dw 4).toNat % 128 != 0 || decide ((z.dw 4).toNat < z.len * z.w) then [4] else [])
  ++ (if slPostBad (z.dw 5) then [5] else [])
  ++ (if slPostBad (z.dw 6) then [6] else [])
  ++ (if z.ev % 16 != 0 then [7] else [])
  ++ (if devs.length == 0 || decide (64 < devs.length) || !devs.contains f.dev || devs.any (fun x => !f.populated x)
      then [8] else [])

/-- Who makes a horizon's accesses (R122, R311). -/
def Horizon.who (z : Horizon) (agency : Nat) : Who :=
  { core := none, key := 56 + z.h, stream := 6920 + z.h, launch := z.launch, agency := agency }

/-- Whether several packages share the horizon (R360). -/
def Horizon.shared (z : Horizon) : Bool := decide (1 < z.devs.length)

/-- The context of a slice inside the window: a retired slice has none (R353, R368). -/
def Horizon.live (z : Horizon) (k : Nat) : Option SliceCtx := if z.winLo ≤ k then z.slice k else none

/-- Change an open horizon. -/
def State.modHorizon (s : State) (h : Nat) (f : Horizon → Horizon) : State :=
  { s with rim := s.rim.map (fun x => if x.h = h then f x else x) }

/-- Change a slice's context. -/
def State.modSlice (s : State) (h k : Nat) (f : SliceCtx → SliceCtx) : State :=
  s.modHorizon h (fun z => { z with scs := z.scs.map (fun c => if c.slice = k then f c else c) })

/-! ## Events (R372) -/

/-- Who raises an event (R122, R311). -/
def RimEvent.who (e : RimEvent) (agency : Nat) : Who :=
  { core := none, key := 96 + e.h, stream := 6920 + e.h, launch := e.launch, agency := agency }

/-- A store or an atomic of an event block, answered when the block lies in another package; one that cannot be made is dropped (log 84,
DEDUCED). -/
def evAccess (w : Who) (k va : Nat) (set : Bool) (x : Word) : E Unit := fun s =>
  let m : E Unit := (do
    let sp ← engLocate w va true
    match sp with
    | .mem pa _ => (fun s =>
      let t := if set then (s.amoMem pa 8 6 x.toNat 0 false w.agency).2 else s.homeWrite pa (bytesOfNat 8 x.toNat) .l2 w.agency
      .ok ((), t.joinFar .l2 pa 8 w.agent))
    | .remote dev pa => do
      let _ ← engMapped w k dev va (fabAddr dev pa)
        (if set then .amo pa 6 8 false x 0 else .write pa (bytesOfNat 8 x.toNat) 1)
      pure ()
    | _ => pure ())
  match m s with
  | .error (.fault _ log) => .ok ((), log s)
  | r => r

/-- An event: dword 1 of the block names the slice concerned, then dword 0 takes the bit, then the owner is interrupted; without an
owner the front end logs it. -/
def evMake (e : RimEvent) : E Unit := fun s =>
  let w := e.who (s.agencyOf e.launch)
  (do
    (match e.slice with
     | some k => evAccess w 1 (e.ev + 8) false (w64 k)
     | none => pure ())
    evAccess w 2 e.ev true (w64 (2 ^ e.bit))
    fun s =>
      let (s, there) := (s.engForget w).pend e.launch e.owner 1
      .ok ((), if there then s else s.report 7 (w64 e.ev)) : E Unit) s

/-- Raise event `bit` of a horizon; the events of a horizon are raised one after another. -/
def State.slEvent (s : State) (h bit : Nat) (slice : Option Nat) : State :=
  match s.horizon h with
  | none => s
  | some z =>
    let e : RimEvent := ⟨h, z.launch, z.owner, z.ev, bit, slice⟩
    let later := fun (t : State) => { t with rimEvents := t.rimEvents ++ [e] }
    if s.rimEvents.any (fun x => x.h == h) then later s
    else match evMake e s with
      | .ok (_, t) => t
      | .error (.pend f) => later (f s)
      | .error (.fault _ log) => log s

/-- The oldest event of a horizon that waits for another package's answer goes on. -/
def State.eventNext (s : State) (h : Nat) : State :=
  match s.rimEvents.find? (fun x => x.h == h) with
  | none => s
  | some e => match evMake e s with
    | .ok (_, t) => { t with rimEvents := t.rimEvents.erase e }
    | .error (.pend f) => f s
    | .error (.fault _ log) => log { s with rimEvents := s.rimEvents.erase e }

/-! ## Settling (R358, R359) -/

/-- Whether slice c is to be settled, its predecessor p being settled. -/
def Horizon.settles (z : Horizon) (p c : SliceCtx) : Bool :=
  let tol := match c.tolCap with
    | some x => x
    | none => (z.dw 2, z.cap)
  !c.settled && p.settled && c.corr &&
  match c.jump with
  | none => false
  | some j =>
    (c.genSwF == some p.gen)
    || (!c.capped && bits j 62 52 != 0x7FF && decide (f64.keyEq false j.toNat ≤ f64.keyEq false tol.1.toNat) && decide (c.iter ≤ tol.2))

/-- Evaluate R358 for slices k, k + 1, … in ascending order: a slice that settles with a fault record is promoted
(R371). -/
def State.settleFrom (s : State) (h : Nat) : Nat → Nat → State
  | 0, _ => s
  | n + 1, k =>
    match s.horizon h with
    | none => s
    | some z =>
      let s := match z.live k, z.live (k + 1) with
        | some p, some c =>
          if z.settles p c then
            let prom := c.held.map (fun (r : FaultRec) => { r with prom := true })
            let s := s.modSlice h (k + 1) (fun c => { c with settled := true, held := prom })
            if c.held.isSome then s.slEvent h 0 (some (k + 1)) else s
          else s
        | _, _ => s
      s.settleFrom h n (k + 1)

/-- Evaluate the settling rules of a horizon, and raise ev.done when the prefix reaches hb.count (R358). -/
def State.settle (s : State) (h : Nat) : State :=
  match s.horizon h with
  | none => s
  | some z =>
    let s := s.settleFrom h z.win z.winLo
    match s.horizon h with
    | none => s
    | some z =>
      if z.prefixPtr = z.count ∧ !z.told then
        State.slEvent (s.modHorizon h (fun (x : Horizon) => { x with told := true })) h 2 none
      else s

/-- ev.cap is raised for a slice whose iteration count first exceeds the cap; from then on it settles by the first condition only
(R359). -/
def State.capSlice (s : State) (h k cap : Nat) : State :=
  match (s.horizon h).bind (fun z => z.live k) with
  | some b => if cap < b.iter ∧ !b.capped then
      (s.modSlice h k (fun b => { b with capped := true })).slEvent h 1 (some k) else s
  | none => s

/-- The same for every slice of the window, when SLREFRESH has changed hb.cap. Joint horizons use the cap that came with the combined
jump (R360). -/
def State.capAll (s : State) (h : Nat) : State :=
  match s.horizon h with
  | none => s
  | some z => if z.shared then s
    else ((List.range z.win).map (z.winLo + ·)).foldl (fun s k => s.capSlice h k z.cap) s

/-- A slice that has settled while its fault was not yet recorded has its record promoted (R371, R374). -/
def State.promote (s : State) (h k : Nat) : State :=
  match (s.horizon h).bind (fun z => z.live k) with
  | some c =>
    if c.settled && c.held.any (fun r => !r.prom) then
      ((s.modSlice h k (fun c => { c with held := c.held.map (fun (r : FaultRec) => { r with prom := true }) })).slEvent h 0
        (some k)).settle h
    else s
  | none => s

/-! ## The sweep (R355 to R357) -/

/-- The elements of a buffer, w bytes each. -/
def sliceElems (w : Nat) : Nat → List Byte → List Nat
  | 0, _ => []
  | n + 1, bs => natOfBytes (bs.take w) :: sliceElems w n (bs.drop w)

/-- RNE(a + b) or RNE(a − b) in a format; subnormals are read and written exactly (R356). -/
def rneAdd (f : FFmt) (a b : Nat) : Nat := (f.deliver 0 false ((f.decode false a).add 0 (f.decode false b)).1).1
/-- RNE(a − b). -/
def rneSub (f : FFmt) (a b : Nat) : Nat := (f.deliver 0 false ((f.decode false a).add 0 (f.decode false b).neg).1).1

/-- The new start of a slice, element by element (R356). -/
def sweepStart (f : FFmt) (corr : Bool) : List Nat → List Nat → List Nat → List Nat
  | g :: gs, o :: os, x :: xs => (if corr then rneAdd f x (rneSub f g o) else g) :: sweepStart f corr gs os xs
  | _, _, _ => []

/-- Widen a code to f64 exactly. -/
def widen (f : FFmt) (c : Nat) : Nat := (f64.deliver 0 false (f.decode false c)).1

/-- A package's part of the norm (R357, R360): the largest magnitude, or the sum of squares; a NaN makes it the canonical
NaN. -/
def normPart (l2 : Bool) (ds : List Nat) : Nat :=
  if ds.any (fun c => (f64.decode false c).isNan) then f64.nanCode
  else if l2 then ds.foldl (fun acc c =>
    rneAdd f64 acc (f64.deliver 0 false ((f64.decode false c).mul (f64.decode false c)).1).1) 0
  else ds.foldl (fun acc c => Nat.max acc (c % 2 ^ 63)) 0

/-- Two parts combined (R360). -/
def normJoin (l2 : Bool) (a b : Nat) : Nat :=
  if (f64.decode false a).isNan || (f64.decode false b).isNan then f64.nanCode
  else if l2 then rneAdd f64 a b else Nat.max a b

/-- The jump that a combined part gives. -/
def normEnd (l2 : Bool) (a : Nat) : Nat := if l2 then (f64.sqrt 0 false (f64.decode false a)).1 else a

/-- Check that every page of a buffer can be written. -/
def bufOk (w : Who) : List (Nat × Nat) → E Unit
  | [] => pure ()
  | (va, _) :: t => do
    let _ ← engLocate w va true
    bufOk w t

/-- The buffers' part of a sweep of boundary k: the new start of slice k + 1 is written, G_old takes G_new; the answer is
this package's part of the norm (R356, R357). -/
def sweepBufs (z : Horizon) (agency k : Nat) (corr started : Bool) : E Nat := do
  let w := z.who agency
  let f := if z.is64 then Sys2Proof.Machine.f64 else f32
  let n := z.len * z.w
  let at_ := fun (j b : Nat) => pagesOf (z.buf j b) n
  let gn ← engReadAll w (2 ^ 32) (at_ k 3)
  let ub ← (if started then engReadAll w (2 * 2 ^ 32) (at_ (k + 1) 0) else pure (List.replicate n 0))
  let fb ← (if corr then engReadAll w (3 * 2 ^ 32) (at_ k 1) else pure gn)
  let ob ← (if corr then engReadAll w (4 * 2 ^ 32) (at_ k 2) else pure gn)
  bufOk w (at_ k 2)
  bufOk w (at_ (k + 1) 0)
  let g := sliceElems z.w z.len gn
  let u := sweepStart f corr g (sliceElems z.w z.len ob) (sliceElems z.w z.len fb)
  engWriteAll w (5 * 2 ^ 32) (at_ (k + 1) 0) (u.flatMap (fun c => bytesOfNat z.w c))
  engWriteAll w (6 * 2 ^ 32) (at_ k 2) gn
  let old := sliceElems z.w z.len ub
  pure (if started then normPart z.l2norm ((u.zip old).map (fun e => widen f (rneSub f e.1 e.2)))
        else f64.infCode false)

/-- The conditions of a sweep of boundary k (R355): the contexts of slices k and k + 1. -/
def Horizon.sweepable (z : Horizon) (k : Nat) : Option (SliceCtx × SliceCtx) :=
  match z.live k, z.live (k + 1) with
  | some a, some b =>
    if 0 < a.gen ∧ a.genNew = some a.gen ∧ !a.deferred ∧ k + 1 < z.count ∧ !b.settled ∧ !z.lost then some (a, b) else none
  | _, _ => none

/-- Whether a sweep of a slice's boundary would be corrected (R356). -/
def SliceCtx.corrected (a : SliceCtx) : Bool := a.genF.isSome && a.genF == a.genOld

/-- What a sweep of boundary k does to slices k and k + 1, but for the jump (R356): generations, iteration count, records. -/
def State.swept (s : State) (h k : Nat) : State :=
  match s.horizon h with
  | none => s
  | some z =>
    let s := s.modSlice h k (fun a => { a with genOld := a.genNew })
    let s := s.modSlice h (k + 1) (fun b =>
      { b with gen := b.gen + 1, iter := Nat.min (b.iter + 1) 65535, held := none, sweepRec := none, postedF := false,
               postedG := false })
    (s.account (s.agencyOf z.launch) 6 1).eligibility h

/-- The jump of slice k + 1 is measured: it is recorded, ev.cap is raised when the count first exceeds the cap (R359), the
settling rules are evaluated. `tolCap` are the tolerance and cap of a joint sweep, or of one accepted earlier (R374). -/
def State.jumped (s : State) (h k : Nat) (corr : Bool) (fgen : Option Nat) (jump : Word) (tolCap : Option (Word × Nat)) :
    State :=
  let s := s.modSlice h (k + 1) (fun b => { b with jump := some jump, corr := corr, genSwF := fgen, tolCap := tolCap })
  match s.horizon h with
  | none => s
  | some z =>
    let cap := match tolCap with
      | some x => x.2
      | none => z.cap
    (s.capSlice h (k + 1) cap).settle h

/-- A sweep that was accepted under an earlier tolerance and cap has settled by them; the settling rules are evaluated again with those
that SLREFRESH has brought since (R374). -/
def State.refreshed (s : State) (h k : Nat) : State :=
  (((s.modSlice h (k + 1) (fun b => { b with tolCap := none })).capAll h)).settle h

/-- A sweep that meets a fault (R373): a sweep fault record of slice k + 1, and ev.poison. -/
def State.sweepFault (s : State) (h k : Nat) (r : TrapReq) : State :=
  let x : FaultRec := { cause := r.cause, mask := 0, coarse := false, prom := false, taddr := r.taddr, detail := r.detail,
                        pq0 := 0, pq1 := 0, pq2 := 0 }
  (s.modSlice h (k + 1) (fun b => { b with sweepRec := some x })).slEvent h 3 (some (k + 1))

/-- Run the buffers' part: a page fault is first offered to the firmware (R373), any other fault, or one the firmware has
refused, ends the sweep with its record. -/
def sweepRun (h k : Nat) (z : Horizon) (corr started : Bool) : E (Option Nat) := fun s =>
  let w := z.who (s.agencyOf z.launch)
  match sweepBufs z w.agency k corr started s with
  | .ok (part, s) => .ok (some part, (s.engForget w).modHorizon h (fun z => { z with offer := none }))
  | .error (.pend f) => .error (.pend f)
  | .error (.fault r log) =>
    let refused := match z.offer with
      | some x => x.2 && x.1 == r.taddr.toNat
      | none => false
    if r.cause = cPage ∧ !refused then
      .error (.pend (fun s =>
        if (match z.offer with
            | some x => !x.2
            | none => false) then s
        else (s.modHorizon h (fun z => { z with offer := some (r.taddr.toNat, false) })).report 11 r.taddr))
    else .ok (none, (((log s).engForget w).modHorizon h (fun z => { z with offer := none })).sweepFault h k r)

/-- A sweep on a horizon of this package alone (R356), with the tolerance and cap of its acceptance when it had to wait. -/
def sweepAlone (h k : Nat) (old : Option (Word × Nat)) : E Unit := fun s =>
  match s.horizon h with
  | none => .ok ((), s)
  | some z =>
    match z.sweepable k with
    | none => .ok ((), s)
    | some (a, b) =>
      (do
        let part ← sweepRun h k z a.corrected (decide (0 < b.gen))
        fun s => match part with
          | none => .ok ((), s)
          | some x =>
            let s := (s.swept h k).jumped h k a.corrected a.genF (w64 (if b.gen = 0 then x else normEnd z.l2norm x)) old
            .ok ((), if old.isSome then s.refreshed h k else s) : E Unit) s

/-- An accepted attempt of the sweep of boundary k that cannot be over at once (R355, R364). -/
def State.sweepLater (s : State) (h k : Nat) (task : Option (Nat × Nat)) : State :=
  s.modHorizon h (fun z => { z with sweeps := z.sweeps ++ [⟨k, task, z.dw 2, z.cap⟩] })

/-- The first attempt of a horizon that waits goes on; it is over when it has swept, met a fault or found its conditions unmet. -/
def sweepQueued (h : Nat) : E Unit := fun s =>
  match (s.horizon h).bind (fun z => z.sweeps.head?) with
  | none => .ok ((), s)
  | some e => (do
      sweepAlone h e.k (some (e.tol, e.cap))
      fun s => .ok ((), s.modHorizon h (fun z => { z with sweeps := z.sweeps.tail })) : E Unit) s

/-! ## Joint sweeps (R360) -/

/-- The set of packages that share the horizon, as hb.devs has it. -/
def Horizon.devWords (z : Horizon) : List Word := z.hcb.drop 8

/-- How often this package has opened a horizon for a set of packages. -/
def State.openings (s : State) (h : Nat) (devs : List Word) : Nat :=
  ((s.rimOpens.find? (fun o => o.h == h && o.devs == devs)).map (·.count)).getD 0

/-- A further opening of a horizon is counted. -/
def State.opened (s : State) (h : Nat) (devs : List Word) : State :=
  { s with rimOpens := s.rimOpens.filter (fun o => !(o.h == h && o.devs == devs)) ++ [⟨h, devs, s.openings h devs + 1⟩] }

/-- The words before a message's own: its kind, the opening it belongs to, the set of packages (log 133, DESIGN CHOICE). -/
def Horizon.heading (z : Horizon) (kind : Nat) : List Word := [w64 kind, w64 z.opening] ++ z.devWords

/-- Words of a signal packet. -/
def sigWords (x : SweepSig) : List Word :=
  [w64 x.k, w64 x.gen, w64 x.next, w64 ((if x.corr then 1 else 0) + (if x.fcur then 2 else 0))]

/-- Words of a partial result. -/
def partWords (x : SweepPart) : List Word := [w64 x.k, w64 x.next, x.part, x.tol, w64 x.cap]

/-- A signal of device `dev` from a packet's words. -/
def sigOf (dev : Nat) (ws : List Word) : SweepSig :=
  let f := fun (i : Nat) => (ws.getD (10 + i) 0)
  ⟨(f 0).toNat, (f 1).toNat, (f 2).toNat, dev, bitAt (f 3) 0, bitAt (f 3) 1⟩

/-- A partial result of device `dev` from a packet's words. -/
def partOf (dev : Nat) (ws : List Word) : SweepPart :=
  let f := fun (i : Nat) => (ws.getD (10 + i) 0)
  ⟨(f 0).toNat, (f 1).toNat, dev, f 2, f 3, (f 4).toNat⟩

/-- Whether the horizon's stream has room for one more message to every other package (R311). -/
def State.slRoom (s : State) (z : Horizon) : Bool := decide (s.outstanding (6920 + z.h) + z.devs.length ≤ 4096)

/-- Send a message to the other packages of a horizon on VC3: 32 a signal, 33 a partial result. -/
def State.slSend (s : State) (z : Horizon) (kind : Nat) (ws : List Word) : State :=
  (z.devs.filter (fun d => d != s.fab.dev)).foldl (fun s d =>
    s.request 3 (6920 + z.h) d (s.agencyOf z.launch) 253 z.h 0 (.other (z.heading kind ++ ws))) s

/-- A signal that is still about the generations that slices k and k + 1 have. -/
def Horizon.current (z : Horizon) (x : SweepSig) : Bool :=
  match z.live x.k, z.live (x.k + 1) with
  | some a, some b => x.gen == a.gen && x.next == b.gen && !b.settled
  | _, _ => false

/-- This package's signal for boundary k, if it has one that stands. -/
def Horizon.signalled (z : Horizon) (dev k : Nat) : Bool :=
  z.signals.any (fun x => x.k == k && x.dev == dev && z.current x)

/-- Whether a sweep of boundary k is in flight (R368). -/
def Horizon.inFlight (z : Horizon) (dev k : Nat) : Bool :=
  z.signalled dev k || z.joints.any (fun j => j.k == k) || z.sweeps.any (fun e => e.k == k)

/-- Attempt a joint sweep: signal that the conditions hold; one that has met a fault is attempted again (R373). While an earlier signal of
the boundary stands, or the stream has no room, the attempt is made again later. -/
def State.jointSignal (s : State) (h k : Nat) : State :=
  let s := s.modHorizon h (fun z => { z with stuck := z.stuck.filter (· != k) })
  match s.horizon h with
  | none => s
  | some z =>
    match z.sweepable k with
    | none => s
    | some (a, b) =>
      if z.inFlight s.fab.dev k || !s.slRoom z then s.modHorizon h (fun z => { z with tries := insertNat z.tries k })
      else
        let x : SweepSig := ⟨k, a.gen, b.gen, s.fab.dev, a.corrected, a.genF == some a.gen⟩
        (s.modHorizon h (fun z => { z with signals := z.signals ++ [x] })).slSend z 32 (sigWords x)

/-- Attempt the sweep of boundary k (R355): those accepted before come first. A stream without room freezes its issuer (R311). -/
def sweepAttempt (h k : Nat) : E Unit := fun s =>
  match s.horizon h with
  | none => .ok ((), s)
  | some z =>
    if z.shared then (if s.slRoom z then .ok ((), s.jointSignal h k) else .error (.pend (fun s => s.jointSignal h k)))
    else if z.sweeps.isEmpty then sweepAlone h k none s
    else .error (.pend id)

/-- An attempt of `task` that is not over at once stands at the horizon, until it is. -/
def State.sweepWaits (s : State) (h k : Nat) (task : Option (Nat × Nat)) : State :=
  match s.horizon h with
  | none => s
  | some z => if z.shared then s else s.sweepLater h k task

/-- The lowest boundary whose attempt can be made again now. -/
def State.retrySignal (s : State) (z : Horizon) : Option Nat :=
  if s.slRoom z then z.tries.find? (fun k => !z.inFlight s.fab.dev k) else none

/-- A boundary for which every package has signalled: whether its sweep is corrected, and every F stands on the start. -/
def Horizon.jointReady (z : Horizon) (k : Nat) : Option (Bool × Bool) :=
  let xs := z.signals.filter (fun x => x.k == k && z.current x)
  if z.devs.all (fun d => xs.any (fun x => x.dev == d)) then some (xs.all (·.corr), xs.all (·.fcur)) else none

/-- The boundary whose joint sweep this package performs next on its shard. Joint sweeps come one at a time, on every package in the order
in which the lowest-numbered one performs them: that one takes the boundaries in the order in which it has signalled them, the others
follow its partial results (R355, R360; log 133, DESIGN CHOICE). -/
def Horizon.jointNext (z : Horizon) (dev : Nat) : Option Nat :=
  if !z.shared || z.lost || !z.joints.isEmpty then none
  else match z.sweeps with
    | e :: _ => some e.k
    | [] =>
      let ready := fun (k : Nat) => (z.jointReady k).isSome && !z.stuck.contains k
      if z.devs.head? = some dev then ((z.signals.filter (fun x => x.dev == dev)).map (·.k)).find? ready
      else ((z.parts.filter (fun p => z.devs.head? == some p.dev && (z.live (p.k + 1)).any (fun b => b.gen == p.next))).map
        (·.k)).find? ready

/-- Complete a joint sweep whose parts have all arrived: they are combined in ascending device number, with the tolerance
and cap of the lowest-numbered package; then attempts that had to wait are made. -/
def State.jointFinish (s : State) (h k : Nat) : State :=
  match s.horizon h with
  | none => s
  | some z =>
    match z.joints.find? (fun j => j.k == k) with
    | none => s
    | some j =>
      let ps := z.parts.filter (fun p => p.k == k && p.next == j.next)
      let got := z.devs.filterMap (fun d => ps.find? (fun p => p.dev == d))
      if got.length != z.devs.length then s
      else match got with
        | [] => s
        | p :: rest =>
          let x := rest.foldl (fun acc q => normJoin z.l2norm acc q.part.toNat) p.part.toNat
          let s := s.modHorizon h (fun z =>
            { z with joints := z.joints.filter (fun x => x.k != k),
                     parts := z.parts.filter (fun p => !(p.k == k && decide (p.next ≤ j.next))) })
          let s := s.jumped h k j.corr j.fgen (w64 (normEnd z.l2norm x)) (some (p.tol, p.cap))
          if z.tries.contains k then
            (s.modHorizon h (fun z => { z with tries := z.tries.filter (· != k) })).jointSignal h k
          else s

/-- What this package's shard of a joint sweep of boundary k leaves: its signals are used up, its part is sent, with the tolerance and cap
of the sweep's start (R374). -/
def State.jointSwept (s : State) (h k : Nat) (z : Horizon) (e : SweepTry) (j : JointSweep) (part : Nat) : State :=
  let p : SweepPart := ⟨k, j.next, s.fab.dev, w64 part, e.tol, e.cap⟩
  let s := s.modHorizon h (fun z =>
    { z with signals := z.signals.filter (fun x => !(x.k == k && decide (x.next ≤ j.next))), sweeps := [],
             joints := z.joints ++ [j], parts := z.parts ++ [p] })
  ((s.swept h k).slSend z 33 (partWords p)).jointFinish h k

/-- Perform a joint sweep on this package's shard, once all have signalled. One that meets a fault stands until the next report of slice k
(R373, log 133, DESIGN CHOICE). -/
def jointSweep (h : Nat) : E Unit := fun s =>
  match s.horizon h with
  | none => .ok ((), s)
  | some z =>
    match z.jointNext s.fab.dev, s.retrySignal z with
    | none, none => .ok ((), s)
    | none, some k => .ok ((), (s.modHorizon h (fun z => { z with tries := z.tries.filter (· != k) })).jointSignal h k)
    | some k, _ =>
      match z.live k, z.live (k + 1), z.jointReady k with
      | some a, some b, some (corr, fcur) =>
        let e := z.sweeps.head?.getD ⟨k, none, z.dw 2, z.cap⟩
        (match sweepRun h k z corr (decide (0 < b.gen)) s with
         | .ok (none, s) => .ok ((), s.modHorizon h (fun z => { z with sweeps := [], stuck := insertNat z.stuck k }))
         | .ok (some x, s) => .ok ((), s.jointSwept h k z e ⟨k, b.gen, corr, if fcur then some a.gen else none⟩ x)
         | .error (.pend f) => .error (.pend (fun s => (f s).modHorizon h (fun z => { z with sweeps := [e] })))
         | .error r => .error r)
      | _, _, _ => .ok ((), s.modHorizon h (fun z => { z with sweeps := [] }))

/-- A package of the set has closed, or cannot be reached: ev.lost, and no more sweeps (R369). -/
def State.slLost (s : State) (h : Nat) : State :=
  match s.horizon h with
  | none => s
  | some z => if z.lost then s else (s.modHorizon h (fun z => { z with lost := true })).slEvent h 4 none

/-- The answer to a signal or part that this package sent: a busy one (the other has not opened the horizon) is sent again
by its timer without being counted; a negative one loses the package. -/
def State.slAnswer (s : State) (k : Pkt) : State :=
  let s := s.taken k
  match s.fab.out.find? (fun o => o.pkt.dst == k.src && o.pkt.stream == k.stream && o.pkt.num == k.num), k.body with
  | some o, .response w _ busy =>
    if busy then s.modOut o.pkt (fun o => { o with resends := 0 })
    else
      let s := s.dropOut o.pkt
      if bits w 53 44 = 0 then s else s.slLost (k.stream - 6920)
  | _, _ => s

/-- A signal or part of another package is noted. -/
def State.slNote (s : State) (h dev : Nat) (ws : List Word) : State :=
  if ws.getD 0 0 = 32 then
    let x := sigOf dev ws
    s.modHorizon h (fun z => { z with signals := z.signals.filter (fun y => !(y.k == x.k && y.dev == dev)) ++ [x] })
  else
    let p := partOf dev ws
    (s.modHorizon h (fun z => { z with parts := z.parts.filter (fun q => !(q.k == p.k && q.dev == dev && q.next == p.next)) ++ [p] })
      ).jointFinish h p.k

/-- The answer to a message of another package (R360, R369): it is noted when it belongs to this package's opening; while this package has
not yet opened the horizon as often as the sender it waits, by a busy answer; a package that has closed refuses. -/
def State.slMessage (s : State) (h : Nat) (k : Pkt) (ws : List Word) : State :=
  let devs := (ws.drop 2).take 8
  let n := (ws.getD 1 0).toNat
  let mine := (s.horizon h).any (fun z => z.opening == n && z.devWords == devs && z.devs.contains k.src)
  if mine then s.inOrder k (fun s => (unicastWord 0, [], s.slNote h k.src ws))
  else if bitAt (devs.getD (s.fab.dev / 64) 0) (s.fab.dev % 64) && decide (s.openings h devs < n) then
    (s.taken k).sendPkt (pktReply k s.fab.dev 0 [] true)
  else s.inOrder k (fun s => (unicastWord 1, [], s))

/-- SWEEP_SIGNAL (R360): a signal or a partial result of another package, an answer to one of ours, or (a packet of this
package to itself) the sweep that can go on: a joint one that all packages have signalled, or an attempt that waits. -/
def execSweepSignal (k : Pkt) (s : State) : Out :=
  match k.body with
  | .response _ _ _ => .next (s.slAnswer k)
  | .other ws =>
    let h := k.stream - 6920
    if k.src = s.fab.dev then
      match (if (s.horizon h).any Horizon.shared then jointSweep h s else sweepQueued h s) with
      | .ok (_, s) => .next s
      | .error (.pend f) => .next (f s)
      | .error (.fault _ log) => .next (log s)
    else .next (s.slMessage h k ws)
  | _ => .refused .noSuchEvent

/-- The packet that stands for a sweep this package may go on with now. -/
def State.sweepDue (s : State) (h : Nat) : Option Pkt :=
  match s.horizon h with
  | none => none
  | some z =>
    let free := match z.offer with
      | some x => x.2
      | none => true
    let due := if z.shared then (z.jointNext s.fab.dev).isSome && s.slRoom z || (s.retrySignal z).isSome else !z.sweeps.isEmpty
    if due && free && s.answeredAll (56 + h) then
      some ⟨3, s.fab.dev, s.fab.dev, 6920 + h, 0, s.agencyOf z.launch, .other [32]⟩
    else none

/-- The firmware's answer to a page fault of a sweep (R373). -/
def State.sweepAnswer (s : State) (h : Nat) (mapped : Bool) : State :=
  s.modHorizon h (fun z => { z with offer := z.offer.bind (fun x => if mapped then none else some (x.1, true)) })

/-! ## Opening (R362) -/

/-- Slice contexts that no open horizon holds, ascending. -/
def State.freeSlices (s : State) : List Nat :=
  (List.range 256).filter (fun n => s.rim.all (fun z => z.scs.all (fun c => c.num != n)))

/-- A read of an HCB, whole and at L2, and its check (R350, R351). -/
def hcbRead (w : Who) (o : Nat) : E (List Word) := do
  let bs ← engRead w 1 o 128
  pure (wordsOfBytes 16 bs)

/-- A format fault of an HCB dword (R370). -/
def hcbFault {α : Type} (o dword : Nat) : E α := faultE ⟨cFormat, w64 o, w64 (dword % 16)⟩

/-- SLOPEN, or a HORIZON packet (R362): the status. An open horizon of another launch may not be named (R349, R370),
which comes before the status 1 (log 134, DEDUCED). -/
def openE (w : Who) (h o owner : Nat) : E Nat := do
  recordAlign o 128 8
  fun s => match s.horizon h with
    | some z => if z.launch = w.launch then .ok (1, s) else .error (.fault ⟨cProtect, 0, 0x100⟩ id)
    | none => (do
      let d ← hcbRead w o
      fun s => match hcbBad s.fab d with
        | i :: _ => hcbFault o i s
        | [] =>
          let z : Horizon := { h := h, hcbAt := o, hcb := d, launch := w.launch, owner := owner, winLo := 0, scs := [],
                               opening := 0, sweeps := [], tries := [], stuck := [], signals := [], parts := [], joints := [], lost := false,
                               told := false,
                               offer := none }
          let free := s.freeSlices
          if free.length < z.win then .ok (2, s)
          else
            let scs := (List.range z.win).map (fun i =>
              let c := SliceCtx.fresh (free.getD i 0) i
              if i = 0 then { c with gen := 1, settled := true } else c)
            let s := if z.shared then s.opened h z.devWords else s
            let s := { s with rim := s.rim ++ [{ z with scs := scs, opening := s.openings h z.devWords }] }
            .ok (0, (s.eligibility h).settle h) : E Nat) s

/-! ## Checks of the instructions (R370) -/

/-- The protection trap of R370. -/
def slProtect {α : Type} : M α := trapM cProtect 0 0x100

/-- The horizon an instruction names: open, and of the issuing context's launch (R349). -/
def slNamed (h : BitVec 3) : M Horizon := fun s =>
  match s.horizon h.toNat with
  | some z => if z.launch = s.ctx.launch then .ok (z, s) else slProtect s
  | none => slProtect s

/-- Change the state. -/
def slDo (f : State → State) : M Unit := fun s => .ok ((), f s)

/-- Write back and drop this core's lines of the launch that overlap one of the spans (R363, R367). -/
def slInvalidate (spans : List (Nat × Nat)) : M Unit := do
  needL1
  fun s => .ok ((), s.flushCore s.ctx.core (fun l => l.launch == s.ctx.launch && spans.any (fun r => l.overlaps r.1 r.2)))

/-- The spans of the four buffers of slice k. -/
def Horizon.spans (z : Horizon) (k : Nat) : List (Nat × Nat) :=
  (List.range 4).map (fun b => (z.buf k b, z.buf k b + z.len * z.w))

def execSlopen (p : Pos) (h : BitVec 3) (d a : BitVec 5) (s : State) : Out :=
  finish p (do
    let o ← readS p 1 p.bypA a
    let c ← getCtx
    let st ← liftE .access (openE (c.who 64) h.toNat o.toNat c.core)
    forgetE 64
    writeS p 1 d (w64 st)) s

/-- The slice SLBIND is to bind, if any (R363). -/
def Horizon.pick (z : Horizon) (all coarse : Bool) (k : Nat) : Option SliceCtx :=
  let ok := fun (c : SliceCtx) => if coarse then c.coarseOk z.count else c.fineOk
  let ks := if all then (List.range z.win).map (z.winLo + ·) else [k]
  ((ks.filterMap z.live).filter ok).head?

/-- A promoted slice named to be bound fine loses its record (R363, R371). -/
def State.slRevive (s : State) (h k : Nat) : State :=
  match (s.horizon h).bind (fun z => z.live k) with
  | some c => if c.promoted then (s.modSlice h k (fun c => { c with held := none })).eligibility h else s
  | none => s

/-- Bind the context to a slice. -/
def slBindTo (h : Nat) (coarse : Bool) (c : SliceCtx) : M Unit := fun s =>
  let me := (s.ctx.core, s.ctx.slot)
  let s := { s with ctx := { s.ctx with bind := some ⟨h, c.slice, coarse, c.gen⟩ } }
  .ok ((), (s.modSlice h c.slice (fun c => if coarse then { c with coarse := some me } else { c with fine := some me })).eligibility h)

def execSlbind (p : Pos) (h : BitVec 3) (d a b : BitVec 5) (s : State) : Out :=
  finish p (do
    let x ← readS p 1 p.bypA a
    let r ← readS p 1 p.bypB b
    trapIf (bits r 63 1 != 0) cFormat 0 0
    let z ← slNamed h
    let all := x == BitVec.allOnes 64
    trapIf (!all && decide (z.count ≤ x.toNat)) cFormat 0 0
    let c ← getCtx
    trapIf c.bind.isSome cProtect 0 0x100
    let coarse := bitAt r 0
    slDo (fun s => if !all && !coarse then s.slRevive h.toNat x.toNat else s)
    let z ← slNamed h
    match z.pick all coarse x.toNat with
    | some sc => do
      slBindTo h.toNat coarse sc
      slInvalidate (z.spans sc.slice)
      writeS p 1 d (w64 sc.slice)
    | none => writeS p 1 d (BitVec.allOnes 64)) s

/-- Whether the attempt that a report has made is over, as far as its answer waits for it (R364): the sweep on a horizon of this package
alone, the signal on a joint one. -/
def State.slOver (s : State) (h : Nat) : Bool :=
  match s.horizon h with
  | none => true
  | some z => if z.shared then z.lost || s.slRoom z else z.sweeps.all (fun e => e.task != some (s.ctx.core, s.ctx.slot))

/-- The attempt of a report; when it cannot be over at once, the report stands as accepted and its task waits for the answer (R364). -/
def slSweep (h k : Nat) : M Unit := fun s =>
  match sweepAttempt h k s with
  | .ok r => .ok r
  | .error (.fault r log) => .error (.trapLog r log)
  | .error (.pend f) => .error (.send .sweep (fun _ =>
      let s := (f s).sweepWaits h k (some (s.ctx.core, s.ctx.slot))
      { s with ctx := { s.ctx with slTold := true } }))

/-- The report of a task (R364): write back the buffer, stamp it, end the binding, attempt the sweep. -/
def slReport (h : BitVec 3) (coarse : Bool) : M Unit := do
  settle false
  let z ← slNamed h
  let c ← getCtx
  match c.bind with
  | none => slProtect
  | some b =>
    if b.h != h.toNat || b.coarse != coarse then slProtect
    else do
      let at_ := z.buf b.slice (if coarse then 3 else 1)
      needL1
      slDo (fun s => s.cleanCore s.ctx.core (fun l => l.launch == s.ctx.launch && l.overlaps at_ (at_ + z.len * z.w)))
      modCtx (fun c => { c with bind := none })
      slDo (fun s => (s.modSlice h.toNat b.slice (fun c =>
        if coarse then { c with coarse := none, genNew := some b.gen } else { c with fine := none, genF := some b.gen })).eligibility
          h.toNat)
      slSweep h.toNat b.slice

/-- SLDONE and SLGDONE: the report, or once it is accepted the wait for its answer. -/
def slTell (h : BitVec 3) (coarse : Bool) : M Unit := fun s =>
  if s.ctx.slTold then
    if s.slOver h.toNat then .ok ((), { s with ctx := { s.ctx with slTold := false } }) else .error (.wait .sweep)
  else slReport h coarse s

def execSldone (p : Pos) (h : BitVec 3) (s : State) : Out := finish p (slTell h false) s
def execSlgdone (p : Pos) (h : BitVec 3) (s : State) : Out := finish p (slTell h true) s

/-- The state of a slice (R353): its number. -/
def SliceCtx.stateNum (c : SliceCtx) : Nat :=
  if c.deferred then 6 else if c.settled then 4 else if c.gen = 0 then 0 else if c.fine.isSome then 2
  else if c.genF = some c.gen then 3 else 1

/-- The status word of a slice (R353, R365). -/
def Horizon.status (z : Horizon) (k : Nat) : Word :=
  if k < z.winLo then 5
  else match z.slice k with
    | none => 0x100
    | some c =>
      let b := fun (x : Bool) (i : Nat) => if x then 2 ^ i else 0
      w64 (c.iter * 2 ^ 32 + c.num * 2 ^ 24 + b c.promoted 7 + b (decide (0 < c.gen) && c.genNew == some c.gen) 6
        + b (decide (0 < c.gen) && c.genF == some c.gen) 5 + b c.coarse.isSome 4 + b c.fine.isSome 3 + c.stateNum)

def execSlstat (p : Pos) (h : BitVec 3) (d a : BitVec 5) (s : State) : Out :=
  finish p (do
    let k ← readS p 1 p.bypA a
    let z ← slNamed h
    writeS p 1 d (z.status k.toNat)) s

/-- The last jump of a slice (R365). -/
def Horizon.jumpWord (z : Horizon) (k : Nat) : Word :=
  if k = 0 then 0
  else match z.live k with
    | none => 0
    | some c => c.jump.getD 0x7FF0000000000000

def execSljump (p : Pos) (h : BitVec 3) (d a : BitVec 5) (s : State) : Out :=
  finish p (do
    let k ← readS p 1 p.bypA a
    let z ← slNamed h
    writeS p 1 d (z.jumpWord k.toNat)) s

def execSlpfx (p : Pos) (h : BitVec 3) (d : BitVec 5) (s : State) : Out :=
  finish p (do
    let z ← slNamed h
    writeS p 1 d (w64 z.prefixPtr)) s

/-- The fault word of a record (R366). -/
def FaultRec.word (r : FaultRec) (sweep : Bool) : Word :=
  w64 (r.cause.toNat + r.mask.toNat * 2 ^ 8 + (if r.coarse then 2 ^ 12 else 0) + (if r.prom then 2 ^ 13 else 0) + 2 ^ 14
    + (if sweep then 2 ^ 15 else 0))

/-- The item SLINFO returns (R366). -/
def Horizon.info (z : Horizon) (k sel : Nat) : Word :=
  if sel = 10 then w64 (z.winLo + z.win * 2 ^ 32)
  else match z.live k with
    | none => 0
    | some c =>
      if sel ≤ 3 then w64 (z.buf k sel)
      else match c.held.or c.sweepRec with
        | none => 0
        | some r =>
          match sel with
          | 4 => r.word c.held.isNone
          | 5 => r.taddr
          | 6 => r.detail
          | 7 => r.pq0
          | 8 => r.pq1
          | 9 => r.pq2
          | _ => 0

def execSlinfo (p : Pos) (h : BitVec 3) (d a b : BitVec 5) (s : State) : Out :=
  finish p (do
    let k ← readS p 1 p.bypA a
    let sel ← readS p 1 p.bypB b
    trapIf (decide (11 < sel.toNat)) cFormat 0 0
    let z ← slNamed h
    (if sel = 11 then modCtx (fun c => { c with ipend := c.ipend &&& 1 }) else pure ())
    writeS p 1 d (z.info k.toNat sel.toNat)) s

/-- Whether the context waits in this bundle's SLWAIT for a horizon that has closed since (R367). -/
def Ctx.slFreed (c : Ctx) (h : Nat) : Bool := c.slwaitAt == some (c.q0.addr, h, true)

/-- SLWAIT (R367): a horizon that closed while the context waited completes the wait with no edge, be it open again. -/
def execSlwait (p : Pos) (h : BitVec 3) (a : BitVec 5) (s : State) : Out :=
  finish p (do
    let k ← readS p 1 p.bypA a
    let c ← getCtx
    if c.slFreed h.toNat then modCtx (fun c => { c with slwaitAt := none })
    else do
      let z ← slNamed h
      if Nat.min k.toNat (z.count - 1) < z.prefixPtr then do
        slInvalidate [((z.dw 3).toNat, (z.dw 3).toNat + 4 * z.win * (z.dw 4).toNat)]
        modCtx (fun c => { c with slwaitAt := none })
      else fun _ => .error (.send .slwait (fun s =>
        { s with ctx := { s.ctx with slwaitAt := some (s.ctx.q0.addr, h.toNat, false) } }))) s

/-- Whether the lowest slice of the window may be retired (R368). -/
def Horizon.retirable (z : Horizon) (dev : Nat) : Bool :=
  match z.live z.winLo with
  | none => false
  | some c =>
    c.fine.isNone && c.coarse.isNone && !z.inFlight dev z.winLo
    && (if z.winLo + 1 = z.count then c.settled && c.genF == some c.gen
        else match z.live (z.winLo + 1) with
          | some n => n.settled || n.promoted
          | none => false)

def execSlretire (p : Pos) (h : BitVec 3) (d : BitVec 5) (s : State) : Out :=
  finish p (do
    let z ← slNamed h
    fun s =>
      if z.retirable s.fab.dev then
        (do
          slDo (fun s => s.modHorizon h.toNat (fun z => { z with winLo := z.winLo + 1 }))
          writeS p 1 d (w64 z.winLo) : M Unit) s
      else writeS p 1 d (BitVec.allOnes 64) 0 s) s

/-- The lowest slice of the window without a context (R368). -/
def Horizon.vacant (z : Horizon) : Option Nat :=
  ((List.range z.win).map (z.winLo + ·)).find? (fun k => decide (k < z.count) && (z.slice k).isNone)

/-- Give the freed position to slice k. -/
def Horizon.recycle (z : Horizon) (k : Nat) : Horizon :=
  { z with scs := z.scs.map (fun c => if c.slice % z.win = k % z.win then SliceCtx.fresh c.num k else c) }

/-- The attempt that SLRECYCLE makes; its answer does not wait for a sweep that has to wait (R368; log 133, DESIGN CHOICE). -/
def State.sweepLaunch (s : State) (h k : Nat) : State :=
  match sweepAttempt h k s with
  | .ok (_, t) => t
  | .error (.pend f) => (f s).sweepWaits h k none
  | .error (.fault _ log) => log s

def execSlrecycle (p : Pos) (h : BitVec 3) (d : BitVec 5) (s : State) : Out :=
  finish p (do
    let z ← slNamed h
    match z.vacant with
    | none => writeS p 1 d (BitVec.allOnes 64)
    | some k => do
      slDo (fun s => s.modHorizon h.toNat (fun z => z.recycle k))
      slDo (fun s => s.sweepLaunch h.toNat (k - 1))
      writeS p 1 d (w64 k)) s

/-- The dwords of an HCB that SLREFRESH does not admit to differ from the snapshot (R369). -/
def hcbDiffers (old new : List Word) : List Nat :=
  let cap : Word := 0xFFFF00000000
  (List.range 16).filter (fun i =>
    let x := old.getD i 0
    let y := new.getD i 0
    if i = 0 then x &&& ~~~cap != y &&& ~~~cap
    else if i = 2 ∨ i = 5 ∨ i = 6 ∨ i = 7 then false else x != y)

/-- SLREFRESH's read and check (R369, R370). -/
def refreshE (w : Who) (z : Horizon) (o : Nat) : E (List Word) := do
  let d ← hcbRead w o
  fun s =>
    match hcbDiffers z.hcb d, hcbBad s.fab d with
    | [], [] => .ok (d, s)
    | i :: _, [] => hcbFault o i s
    | [], j :: _ => hcbFault o j s
    | i :: _, j :: _ => hcbFault o (Nat.min i j) s

def execSlrefresh (p : Pos) (h : BitVec 3) (a : BitVec 5) (s : State) : Out :=
  finish p (do
    let o ← readS p 1 p.bypA a
    let c ← getCtx
    (fun s => match s.horizon h.toNat with
      | some z => if z.launch = c.launch then
          (if o.toNat = z.hcbAt then .ok ((), s) else trapM cFormat o 0 s)
        else alignTo o.toNat 128 8 s
      | none => alignTo o.toNat 128 8 s)
    let z ← slNamed h
    let d ← liftE .access (refreshE (c.who 64) z o.toNat)
    forgetE 64
    slDo (fun s => ((s.modHorizon h.toNat (fun z => { z with hcb := d })).capAll h.toNat).settle h.toNat)) s

/-- What the closing of a horizon does to a context: its binding ends (R369), an SLWAIT it waits in is over (R367). -/
def Ctx.slShut (c : Ctx) (h launch : Nat) : Ctx :=
  { c with bind := c.bind.filter (fun b => b.h != h),
           slwaitAt := c.slwaitAt.map (fun w => if w.2.1 == h && c.launch == launch then (w.1, w.2.1, true) else w) }

/-- A horizon closes (R369): its bindings end, its slice contexts are free. -/
def State.slClosed (s : State) (z : Horizon) : State :=
  let s := s.mapCtx (fun _ => true) (fun c => c.slShut z.h z.launch)
  { s with saved := s.saved.map (fun v => { v with ctx := v.ctx.slShut z.h z.launch }),
           rim := s.rim.filter (fun x => x.h != z.h) }

/-- Whether a sweep of a horizon is in flight (R369): one that has been accepted and is not over, a joint one that all have signalled or
that has not completed. -/
def State.sweeping (s : State) (z : Horizon) : Bool :=
  !z.sweeps.isEmpty || (!z.joints.isEmpty && !z.lost) || (z.jointNext s.fab.dev).isSome

/-- SLCLOSE (R369): the sweep in flight comes first. -/
def execSlclose (p : Pos) (h : BitVec 3) (s : State) : Out :=
  finish p (do
    let z ← slNamed h
    (fun s => if s.sweeping z then .error (.wait .channel) else .ok ((), s))
    slDo (fun s => s.slClosed z)) s

/-! ## The timer of requests (R311) -/

/-- The timer of R311 expires for a request: it is sent again, or taken as unreachable after eight resends without a response; a busy
answer begins the count anew (R319, R343, R360). A contribution is resent without limit (R328); a row whose link is lost waits for
the new routes (R345). -/
def execRequestResendTimer (dst stream num : Nat) (s : State) : Out :=
  match s.outAt dst stream num with
  | none => .next s
  | some o =>
    let again := (s.modOut o.pkt (fun o => { o with due := s.now + resendTime, resends := o.resends + 1 }))
    let lostReply : Pkt := ⟨1, dst, s.fab.dev, stream, num, 0, .response (unicastWord 6) [] false⟩
    match o.pkt.body with
    | .port _ => .next (if 8 ≤ o.resends then s.portLandingResponse o (unicastWord 6) else again.sendPkt o.pkt)
    | .collUp .. => .next (again.arrives 6 o.pkt)
    | .mcast _ _ _ _ _ serves =>
      if 8 ≤ o.resends then .next (s.mcastGiveUp o.pkt)
      else .next (again.mcastSpread o.pkt none serves none)
    | .row .. | .chunk .. =>
      if !s.fab.reaches dst then .next (s.modOut o.pkt (fun o => { o with due := s.now + resendTime }))
      else if 8 ≤ o.resends then .next (s.flowAck o.slot lostReply) else .next (again.sendPkt o.pkt)
    | _ =>
      if 8 ≤ o.resends then
        .next (if o.pkt.vc = 3 then s.slAnswer lostReply else s.answered o.pkt (unicastWord 6) [])
      else .next (again.sendPkt o.pkt)

end Sys2Proof.Machine
end

