-- ==== Sys2Proof/Machine/FrontEnd.lean ====
section
/-! DEFINITION. The front end (spec/24 R399 to R418): queues and packets, buffer actions, launches, signals, task graphs, the
packets that act for a launch, the control space. -/

namespace Sys2Proof.Machine

/-! ## Queues (R400 to R402) -/

/-- A word of the control space that the list `ctl` holds, by its offset from 0xF000_0000_0000 (R415). -/
def State.ctlWord (s : State) (off : Nat) : Word := look s.ctl off 0

/-- Set a word of the control space. -/
def State.setCtl (s : State) (off : Nat) (w : Word) : State := { s with ctl := put s.ctl off w }

/-- Dword k of the descriptor of queue q (R401). -/
def State.qd (s : State) (q k : Nat) : Word := s.ctlWord (32 * q + 8 * k)

/-- qd.en. -/
def qdEn (w : Word) : Bool := bitAt w 63
/-- qd.agency. -/
def qdAgency (w : Word) : Nat := bits w 61 56
/-- qd.prio. -/
def qdPrio (w : Word) : Nat := bits w 55 53
/-- qd.lgsz. -/
def qdLg (w : Word) : Nat := bits w 52 48
/-- qd.base. -/
def qdBase (w : Word) : Nat := bits w 47 0

/-- Whether an enabled descriptor is invalid (R401). -/
def qdBad (w : Word) : Bool := qdLg w == 0 || decide (16 < qdLg w) || qdBase w % 256 != 0

/-- A queue fault (R401): the queue is disabled, the code recorded, the fault logged and reported; `back` is the first slot
of the packet that caused it. -/
def State.queueFault (s : State) (q code : Nat) (back : Option Nat) : State :=
  let rd := match back with
    | some i => i
    | none => bits (s.qd q 1) 31 0
  let s := s.setCtl (32 * q) (s.qd q 0 &&& ~~~((2 ^ 63 : Nat) : Word))
  (s.setCtl (32 * q + 8) (w64 (rd + code * 2 ^ 32))).report 6 (w64 (q + 4096 * code))

/-- A trap that an instruction would raise at a bundle, raised for a packet (R405): it is logged with its code. -/
def State.packetTrap (s : State) (r : TrapReq) : State := s.report 12 (w64 (r.cause.toNat + 256 * (r.detail.toNat % 2 ^ 32)))

/-- The queue fault of such a trap: 3 for what cannot be read, else 1. -/
def trapQueueCode (c : BitVec 8) : Nat := if c = cPage ∨ c = cPoison ∨ c = cFabric then 3 else 1

/-! ## Packets (R403) -/

/-- Dword k of a packet. -/
def Packet.dw (p : Packet) (k : Nat) : Word := p.words.getD k 0
/-- pk.type. -/
def Packet.typ (p : Packet) : Nat := bits (p.dw 0) 7 0
/-- pk.post. -/
def Packet.post (p : Packet) : Bool := bitAt (p.dw 0) 10
/-- pk.bar. -/
def Packet.bar (p : Packet) : Bool := bitAt (p.dw 0) 11
/-- pk.nbuf. -/
def Packet.nbuf (p : Packet) : Nat := bits (p.dw 0) 23 16
/-- pk.tgt. -/
def Packet.tgt (p : Packet) : Nat := bits (p.dw 3) 31 0
/-- Dword k of the type's body. -/
def Packet.body (p : Packet) (k : Nat) : Word := p.dw (4 + 2 * p.nbuf + k)
/-- The launch a packet concerns: its own for a LAUNCH. -/
def Packet.concerns (p : Packet) : Nat := if p.typ = 1 then p.launch else p.tgt

/-- The dwords of a type's body (R405). -/
def bodyWords (typ : Nat) : Nat := match typ with
  | 1 => 8
  | 3 => 1
  | 4 => 2
  | 5 => 1
  | 6 => 3
  | 7 => 3
  | 8 => 2
  | 9 => 2
  | _ => 0

/-- Whether a packet is invalid as it stands in its slots (R403, R404, R406). -/
def packetBad (p : Packet) : Bool :=
  let w0 := p.dw 0
  let bufBad := (List.range p.nbuf).any (fun i =>
    bits (p.dw (4 + 2 * i)) 61 57 != 0 || bits (p.dw (5 + 2 * i)) 63 48 != 0)
  let launchBad := bits (p.body 0) 62 48 != 0 || bits (p.body 0) 47 0 % 2 ^ 17 != 0
    || (p.body 1).toNat % 128 != 0 || decide (2 ^ 48 ≤ (p.body 1).toNat)
    || (p.body 2 == 0 && p.body 3 == 0 && p.body 4 == 0) || bits (p.body 5) 63 24 != 0
    || p.body 6 &&& ~~~((0x3FFF0 : Nat) : Word) != 0 || (p.body 7).toNat % 2 ^ 20 != 0
    || (p.post && p.tgt == 0)
  bits w0 63 24 != 0 || bits w0 9 8 != 0 || decide (8 < p.nbuf) || p.typ == 0 || decide (9 < p.typ)
  || (p.dw 1).toNat % 8 != 0 || decide (2 ^ 48 ≤ (p.dw 1).toNat)
  || (p.post && (bits (p.dw 2) 63 29 != 0 || decide (215 < bits (p.dw 2) 28 21)))
  || bits (p.dw 3) 63 32 != 0
  || bufBad
  || decide (32 * (bits w0 15 12 + 1) < 4 + 2 * p.nbuf + bodyWords p.typ)
  || (match p.typ with
      | 1 => launchBad
      | 3 => bits (p.body 0) 63 8 != 0
      | 8 => bits (p.body 1) 63 10 != 0
      | _ => false)

/-- A packet of the list. -/
def State.packet (s : State) (uid : Nat) : Option Packet := s.fe.packets.find? (fun p => p.uid == uid)

/-- Replace a packet. -/
def State.setPacket (s : State) (p : Packet) : State :=
  { s with fe := { s.fe with packets := s.fe.packets.map (fun x => if x.uid = p.uid then p else x) } }

/-- Remove a packet. -/
def State.dropPacket (s : State) (uid : Nat) : State :=
  { s with fe := { s.fe with packets := s.fe.packets.filter (fun x => x.uid != uid) } }

/-- A packet turns out to be at fault (R401, R405, R410): its queue faults; a node stops its replay. -/
def State.packetFault (s : State) (p : Packet) (code : Nat) : State :=
  let s := s.dropPacket p.uid
  match p.node with
  | none => s.queueFault p.queue code (some p.index)
  | some (g, k) =>
    let s := s.queueFault p.queue code none
    { s with fe := { s.fe with replays := s.fe.replays.map (fun r =>
        if r.uid = g then { r with fault := true, ended := insertNat r.ended k } else r) } }

/-- Whether a packet of the queue waits (R402, R405). -/
def State.blocked (s : State) (q : Nat) : Bool :=
  s.fe.packets.any (fun p => p.queue == q && p.node.isNone && p.phase == 0)

/-- The queue the scanner serves next: the lowest pending one at or after its start position, wrapping, that is not blocked
(R402). -/
def State.scanNext (s : State) : Option Nat :=
  let ok := fun (q : Nat) => !s.blocked q
  match s.fe.pending.find? (fun q => decide (s.fe.scan ≤ q) && ok q) with
  | some q => some q
  | none => s.fe.pending.find? ok

/-- Physical addresses of n slots of a ring from an index. -/
def slotAddrs (w : Word) (rd n : Nat) : List Nat := (List.range n).map (fun i => qdBase w + 256 * ((rd + i) % 2 ^ qdLg w))

/-- Whether physical bytes cannot be read (R401: unpopulated or poisoned). -/
def State.unreadable (s : State) (pa n : Nat) : Bool :=
  !isHbm pa || !isHbm (pa + n - 1) || (s.poisoned pa n).isSome

/-- What the front end meets in slots it cannot read is noted as for any access (R233). -/
def State.noteBad (s : State) (as : List Nat) : State := as.foldl (fun (s : State) a => match s.poisoned a 256 with
  | some sec => s.metAt sec
  | none => s) s

/-- Read n slots. -/
def State.readSlots (s : State) (agency : Nat) : List Nat → List Byte × State
  | [] => ([], s)
  | a :: t =>
    let (bs, s) := s.homeRead a 256 .l2 agency
    let (r, s) := s.readSlots agency t
    (bs ++ r, s)

/-- The service of queue q (R402). -/
def State.serve (s : State) (q : Nat) : State :=
  let s := { s with fe := { s.fe with pending := s.fe.pending.filter (· != q), scan := (q + 1) % 4096 } }
  let w := s.qd q 0
  if !qdEn w || !bitAt s.fe.nbase 0 then s
  else if qdBad w then s.queueFault q 1 none
  else
    let at_ := bits s.fe.nbase 47 18 * 2 ^ 18 + 32 * q
    let (wb, s) := s.homeRead at_ 4 .l2 (qdAgency w)
    let wr := natOfBytes wb
    let rd := bits (s.qd q 1) 31 0
    if ((2 ^ qdLg w : Nat) : Int) < sval 32 ((wr + 2 ^ 32 - rd) % 2 ^ 32) then s.queueFault q 2 none
    else if wr = rd then s
    else
      let first := slotAddrs w rd 1
      if first.any (fun a => s.unreadable a 256) then (s.noteBad first).queueFault q 3 none
      else
        let n := bits ((wordsOfBytes 1 (memGetN s.mem (first.headD 0) 8)).headD 0) 15 12 + 1
        let as := slotAddrs w rd n
        if as.any (fun a => s.unreadable a 256) then (s.noteBad as).queueFault q 3 none
        else
          let (bs, s) := s.readSlots (qdAgency w) as
          let p : Packet := { uid := s.fe.nextUid, queue := q, index := rd, agency := qdAgency w, words := wordsOfBytes (32 * n) bs,
                              phase := 0, launch := 0, status := 0, node := none }
          if packetBad p then s.queueFault q 1 none
          else
            let rd' := (rd + n) % 2 ^ 32
            let s := s.setCtl (32 * q + 8) (w64 rd')
            let s := s.homeWrite (at_ + 8) (bytesOfNat 8 rd') .l2 (qdAgency w) true
            let s := { s with fe := { s.fe with packets := s.fe.packets ++ [p], nextUid := s.fe.nextUid + 1 } }
            if wr = rd' then s else { s with fe := { s.fe with pending := insertNat s.fe.pending q } }

def execQueueService (s : State) : Out :=
  match s.scanNext with
  | some q => .next (s.serve q)
  | none => .next s

/-- A report of a sector of the notify area (R400). -/
def execNotifyReport (sector : Nat) (s : State) : Out := if bitAt s.fe.nbase 0 then .next (s.notify sector) else .next s

/-- A write of `fe.nbase` (R400): reserved bits are ignored. -/
def State.setNbase (s : State) (w : Word) : State := { s with fe := { s.fe with nbase := w &&& 0xFFFFFFFC0001 } }

def execNbaseWrite (w : Word) (s : State) : Out := .next (s.setNbase w)

/-- An acknowledge word was written (R409). -/
def execSignalAck (core slot : Nat) (s : State) : Out := .next (s.notify (4096 + 4 * core + slot))

/-! ## Buffer actions (R404) -/

/-- Drop lines of a core's L1 without writing them back. -/
def State.dropCore (s : State) (n : Nat) (which : L1Line → Bool) : State :=
  let k := s.coreAt n
  s.setCore { k with l1 := k.l1.filter (fun l => !which l) }

/-- Every core that is not idle since reset. -/
def State.coreIds (s : State) : List Nat := s.core.id :: s.cores.map (·.id)

/-- Act on every L1 line and read-only sector of a launch that overlaps a range: write back, drop. An empty range overlaps nothing. -/
def State.bufferAct (s : State) (launch lo hi : Nat) (wb drop : Bool) : State :=
  if hi ≤ lo then s
  else
  let which := fun (l : L1Line) => l.launch == launch && l.overlaps lo hi
  let s := s.coreIds.foldl (fun s n =>
    if wb && drop then s.flushCore n which else if wb then s.cleanCore n which
    else if drop then s.dropCore n which else s) s
  if drop then { s with ro := s.ro.filter (fun l =>
      !(l.launch == launch && decide (32 * l.sector < hi) && decide (lo < 32 * l.sector + 32))) } else s

/-- The start actions of a packet's buffers, or its end actions. -/
def State.bufferActs (s : State) (p : Packet) (start : Bool) : State :=
  (List.range p.nbuf).foldl (fun s i =>
    let e := p.dw (4 + 2 * i)
    let lo := bits e 56 0
    let hi := lo + bits (p.dw (5 + 2 * i)) 47 0
    match bits e 63 62 with
    | 1 => if start then s else s.bufferAct p.concerns lo hi true false
    | 2 => if start then s.bufferAct p.concerns lo hi false true else s
    | 3 => s.bufferAct p.concerns lo hi true true
    | _ => s) s

/-- The start actions of a packet, made once (R404). -/
def State.startActs (s : State) (p : Packet) : State := if p.begun then s else s.bufferActs p true

/-- A packet whose start actions are done waits on. -/
def State.keepsOn (s : State) (p : Packet) : State := s.setPacket { p with begun := true }

/-! ## Completion (R403) -/

/-- The post of a completed packet: to the context of the launch pk.tgt names, if its agency is the queue's. -/
def State.packetPost (s : State) (p : Packet) : State :=
  if !p.post then s
  else if (s.launchAt p.tgt).any (fun l => l.agency == p.agency) then s.postWord p.tgt (p.dw 2)
  else s.report 4 (w64 (p.tgt * 256 + bits (p.dw 2) 28 21))

/-- A launch has ended (R172): what contexts it had when it was ended early leave their groups, its own unjoined groups are
free. -/
def State.launchOver (s : State) (launch : Nat) : State :=
  let s := { s with groups := s.groups.map (fun (g : Group) =>
    (g.members.filter (fun (m : Member) => m.launch == launch)).foldl (fun (g : Group) (m : Member) => g.leave launch m.core) g) }
  s.launchGone launch

/-- A packet has completed: end actions (a BUFS packet has made them), pk.done, the post. -/
def State.complete (s : State) (p : Packet) : State :=
  let s := if p.typ = 2 then s else s.bufferActs p false
  let at_ := (p.dw 1).toNat
  let s := if at_ = 0 ∨ !isHbm at_ then s
    else s.homeWrite at_ (bytesOfNat 8 (p.queue * 2 ^ 52 + p.status * 2 ^ 48 + p.index)) .l2 p.agency true
  let s := (s.packetPost p).dropPacket p.uid
  let s := if p.typ = 1 then s.launchOver p.launch else s
  let s := { s with fe := { s.fe with replays := s.fe.replays.filter (fun r => r.uid != p.uid) } }
  match p.node with
  | none => s
  | some (g, k) => { s with fe := { s.fe with replays := s.fe.replays.map (fun r =>
      if r.uid = g then { r with ended := insertNat r.ended k } else r) } }

/-- Whether the work of a packet is done (R405): phase 3, or a running launch without tasks, a run that is not RUNNING, a
replay whose dispatched nodes are complete. -/
def State.packetDone (s : State) (p : Packet) : Bool :=
  if p.phase = 3 then true
  else if p.phase = 0 then false
  else match p.typ with
    | 1 => p.phase == 2 && (match s.launchAt p.launch with
        | some l => l.live.isEmpty
        | none => true)
    | 5 => match s.fe.replays.find? (fun r => r.uid == p.uid) with
        | some r => (r.fault || r.ended.length == r.table.length) && r.sent.all (fun k => r.ended.contains k)
        | none => true
    | 7 => s.flows.all (fun r => r.uid != some p.uid || !(r.rstate == 1 || r.rstate == 4))
    | 9 => s.flows.all (fun r => r.uid != some p.uid || !(r.rstate == 1 || r.rstate == 4))
    | _ => false

def execPacketComplete (uid : Nat) (s : State) : Out :=
  match s.packet uid with
  | some p => if s.packetDone p then .next (s.complete p) else .next s
  | none => .next s

/-- A packet goes to a phase. -/
def State.phase (s : State) (p : Packet) (n : Nat) : State := s.setPacket { p with phase := n }

/-- Act on a packet, if it is there, of the type, and waits. -/
def State.onPacket (s : State) (uid typ phase : Nat) (f : Packet → State) : Out :=
  match s.packet uid with
  | some p => if p.typ = typ ∧ p.phase = phase then .next (f p) else .next s
  | none => .next s

/-- A BUFS packet performs both columns at once and completes. -/
def execBufs (uid : Nat) (s : State) : Out :=
  s.onPacket uid 2 0 (fun p => ((s.bufferActs p true).bufferActs p false).phase p 3)

/-- SIGNAL (R409). -/
def execSignal (uid : Nat) (s : State) : Out :=
  s.onPacket uid 3 0 (fun p =>
    let s := s.bufferActs p true
    let (s, there) := s.pend p.tgt (bits (p.body 0) 7 0) 0
    let s := if there then s else s.report 12 (w64 (p.tgt * 256 + bits (p.body 0) 7 0))
    s.phase p 3)

/-! ## The packets that act for a launch (R405) -/

/-- Who makes a packet's accesses (R311: the front end's stream). -/
def Packet.who (p : Packet) : Who :=
  { core := none, key := 1000 + p.uid, stream := 6928, launch := p.concerns, agency := p.agency }

/-- Act by an engine's accesses, after the start actions: an answer is waited for, a fault becomes a queue fault. -/
def State.byEngine {α : Type} (s : State) (p : Packet) (m : E α) (f : α → State → State) : State :=
  match m (s.startActs p) with
  | .ok (x, s) => f x (s.engForget p.who)
  | .error (.pend g) => (g (s.startActs p)).keepsOn p
  | .error (.fault r log) => (((log s).engForget p.who).packetTrap r).packetFault p (trapQueueCode r.cause)

/-- Whether an object's version has reached v (R405): wrap(so.ver − v, 64), read as signed, is at least 0. -/
def versionReached (ver v : Word) : Bool := decide (0 ≤ (ver - v).toInt)

/-- The condition of a WAITSO packet. -/
def waitsoE (p : Packet) : E Bool := do
  let va := (p.body 0).toNat
  recordAlign va 32 5
  let bs ← engRead p.who 0 va 32
  let ws := wordsOfBytes 4 bs
  if soValid ws then pure (versionReached (ws.getD 1 0) (p.body 1)) else faultE ⟨cFormat, w64 va, 0⟩

def execWaitso (uid : Nat) (s : State) : Out :=
  s.onPacket uid 4 0 (fun p => s.byEngine p (waitsoE p) (fun ok s =>
    if ok then s.phase p 3 else s.keepsOn p))

def execReshard (uid : Nat) (s : State) : Out :=
  s.onPacket uid 7 0 (fun p =>
    s.byEngine p (reshardE p.who (p.body 0).toNat (p.body 1).toNat (p.body 2).toNat (some uid)) (fun started s =>
      s.phase p (if started then 1 else 3)))

def execPkCkpt (uid : Nat) (s : State) : Out :=
  s.onPacket uid 9 0 (fun p =>
    s.byEngine p (ckptE p.who (p.body 0).toNat (p.body 1).toNat (some uid)) (fun started s =>
      s.phase p (if started then 1 else 3)))

def execHorizon (uid : Nat) (s : State) : Out :=
  s.onPacket uid 8 0 (fun p =>
    s.byEngine p (openE p.who (bits (p.body 1) 1 0) (p.body 0).toNat (bits (p.body 1) 9 2)) (fun st s =>
      s.setPacket { p with phase := 3, status := st }))

/-! ## Task graphs (R410, R411) -/

/-- The physical address of a record of the launch. -/
def physE (w : Who) (va : Nat) (write : Bool) : E Nat := do
  let sp ← engLocate w va write
  match sp with
  | .mem pa _ => pure pa
  | _ => faultE (protTrap va 0)

/-- Whether a graph record is valid (R410). -/
def graphOk (ws : List Word) : Bool :=
  bits (ws.getD 0 0) 63 12 == 0 && (ws.getD 2 0).toNat % 4096 == 0 && (ws.getD 3 0).toNat % 4096 == 0

/-- A graph record: its words. An invalid record is queue fault 1. -/
def graphRead (p : Packet) : E (Nat × List Word) := do
  let va := (p.body 0).toNat
  recordAlign va 32 5
  let pa ← physE p.who va false
  let bs ← engRead p.who 0 va 32
  let ws := wordsOfBytes 4 bs
  if graphOk ws then pure (pa, ws) else faultE ⟨cFormat, w64 va, 0⟩

/-- The generation a graph holds: 0 for one that has no entry yet. -/
def FrontEnd.graphGen (f : FrontEnd) (at_ : Nat) : Nat := match f.graphs.find? (fun g => g.recAt == at_) with
  | some g => g.gen
  | none => 0

/-- Set the current generation of a graph. The hub holds 64 entries; a full table gives up the oldest one that no replay
holds. -/
def FrontEnd.setGraph (f : FrontEnd) (at_ gen : Nat) : FrontEnd :=
  let rest := f.graphs.filter (fun g => g.recAt != at_)
  let rest := if rest.length < 64 then rest
    else match rest.find? (fun g => f.replays.all (fun r => r.recAt != g.recAt)) with
      | some g => rest.filter (fun x => x.recAt != g.recAt)
      | none => rest
  { f with graphs := rest ++ [⟨at_, gen⟩] }

/-- The node table: each node's dependences, which name earlier nodes. -/
def nodeTable (n : Nat) (bs : List Byte) : Option (List (List Nat)) :=
  let hs := (halvesOfBytes (4 * n) bs).map (·.toNat)
  let rows := (List.range n).map (fun k => ((hs.drop (4 * k)).take 4).filter (fun d => d != 0xFFFF))
  if rows.zipIdx.all (fun e => e.1.all (fun d => decide (d < e.2))) then some rows else none

/-- Whether a graph has an entry or can get one: the hub holds 64, and gives up none that a replay holds. -/
def FrontEnd.graphRoom (f : FrontEnd) (at_ : Nat) : Bool :=
  f.graphs.any (fun g => g.recAt == at_) || decide (f.graphs.length < 64)
    || f.graphs.any (fun g => f.replays.all (fun r => r.recAt != g.recAt))

/-- A GRAPH packet's replay (R410), none for an invalid node table; the packet waits while its graph has no entry and can get none. -/
def graphE (p : Packet) : E (Option (Option Replay)) := do
  let (pa, ws) ← graphRead p
  let n := bits (ws.getD 0 0) 11 0 + 1
  let tab ← engReadAll p.who 1 (pagesOf (ws.getD 1 0).toNat (8 * n))
  fun s =>
    let gen := s.fe.graphGen pa
    let base := (ws.getD (2 + gen) 0).toNat
    .ok (if !s.fe.graphRoom pa then none
      else match nodeTable n tab with
        | some t => some (some ⟨p.uid, pa, gen, t, base, [], [], false⟩)
        | none => some none, s)

def execGraph (uid : Nat) (s : State) : Out :=
  s.onPacket uid 5 0 (fun p => s.byEngine p (graphE p) (fun r s =>
    match r with
    | none => s.keepsOn p
    | some none => s.packetFault p 1
    | some (some r) =>
      let s := s.phase p 1
      let f := s.fe.setGraph r.recAt r.gen
      { s with fe := { f with replays := f.replays ++ [r] } }))

/-- The node of a replay that is dispatched next: the lowest whose dependences have completed (R410). -/
def Replay.ready (r : Replay) : Option Nat :=
  if r.fault then none
  else (r.table.zipIdx.find? (fun e => !r.sent.contains e.2 && e.1.all (fun d => r.ended.contains d))).map (·.2)

/-- A node's packet: its length is in its first dword. -/
def nodeE (w : Who) (va : Nat) : E (List Word) := do
  let b0 ← engRead w 100 va 8
  let n := bits ((wordsOfBytes 1 b0).headD 0) 15 12 + 1
  let bs ← engReadAll w 101 (pagesOf va (256 * n))
  pure (wordsOfBytes (32 * n) bs)

def execGraphNodeDispatch (uid node : Nat) (s : State) : Out :=
  match s.packet uid, s.fe.replays.find? (fun r => r.uid == uid) with
  | some p, some r =>
    if r.ready = some node then
      let sentTo := fun (s : State) => { s with fe := { s.fe with replays := s.fe.replays.map (fun (x : Replay) =>
        if x.uid = uid then { x with sent := insertNat x.sent node } else x) } }
      let q : Packet := { uid := s.fe.nextUid, queue := p.queue, index := p.index, agency := p.agency, words := [], phase := 0,
                          launch := 0, status := 0, node := some (uid, node) }
      match nodeE p.who (r.base + 4096 * node) s with
      | .ok (ws, s) =>
        let s := sentTo (s.engForget p.who)
        let q := { q with words := ws }
        let s := { s with fe := { s.fe with packets := s.fe.packets ++ [q], nextUid := s.fe.nextUid + 1 } }
        if packetBad q then .next (s.packetFault q 1)
        else if q.typ = 5 ∨ q.typ = 6 then .next (s.packetFault q 4)
        else .next s
      | .error (.pend f) => .next (f s)
      | .error (.fault t log) =>
        .next (((sentTo ((log s).engForget p.who)).packetTrap t).packetFault q (trapQueueCode t.cause))
    else .next s
  | _, _ => .next s

/-- Whether an unfinished replay holds a generation of a graph. -/
def FrontEnd.holds (f : FrontEnd) (at_ gen : Nat) : Bool := f.replays.any (fun r => r.recAt == at_ && r.gen == gen)

/-- A PATCH (R411): the record's address and generation, or none while a replay holds the other generation or the graph can get no
entry (R410). -/
def patchE (p : Packet) : E (Option (Nat × Nat)) := do
  let (pa, ws) ← graphRead p
  fun s =>
    let gen := s.fe.graphGen pa
    if s.fe.holds pa (1 - gen) || !s.fe.graphRoom pa then .ok (none, s)
    else
      (do
        let n := (p.body 2).toNat
        let bs ← engReadAll p.who 1 (pagesOf (p.body 1).toNat n)
        engWriteAll p.who 100000 (pagesOf (ws.getD (3 - gen) 0).toNat n) bs
        pure (some (pa, 1 - gen)) : E (Option (Nat × Nat))) s

def execPatch (uid : Nat) (s : State) : Out :=
  s.onPacket uid 6 0 (fun p => s.byEngine p (patchE p) (fun r s =>
    match r with
    | none => s.keepsOn p
    | some (pa, gen) =>
      let s := s.phase p 3
      { s with fe := s.fe.setGraph pa gen }))

/-! ## Launches (R406 to R408) -/

/-- What a LAUNCH places on one core (or companion). -/
structure Place where
  core  : Nat
  image : Nat
  bundles : Nat
  entry : Nat
  dsize : Nat
  dbase : Nat
  pblk  : Nat
  alloc : Nat
  ports : Bool
  ien   : Nat
  rpt   : Nat
  coord : Word
  top   : Word
  wsp   : Word
  budget : Word
  flags : List Word
  deriving DecidableEq, Repr

/-- The cores and companions a LAUNCH names, in the order of its table. -/
def Packet.cores (p : Packet) : List Nat :=
  (List.range 192).filter (fun n => bitAt (p.body (2 + n / 64)) (n % 64))
  ++ ((List.range 24).filter (fun c => bitAt (p.body 5) c)).map (192 + ·)

/-- Words of physical memory. -/
def State.physWords (s : State) (pa n : Nat) : List Word := wordsOfBytes n (memGetN s.mem pa (8 * n))

/-- The place that entry i of the launch table gives, or the queue fault (R406, R408). -/
def State.placeAt (s : State) (table i core : Nat) : Except Nat Place :=
  let at_ := table + 128 * i
  if s.unreadable at_ 128 then .error (if isHbm at_ && isHbm (at_ + 127) then 3 else 1)
  else
    let e := s.physWords at_ 16
    let dw := fun (k : Nat) => e.getD k 0
    let image := (dw 0).toNat
    let comp := decide (192 ≤ core)
    if image % 64 ≠ 0 ∨ !isHbm image then .error 1
    else if s.unreadable image 64 then .error 3
    else
      let h := s.physWords image 8
      let hw := fun (k : Nat) => h.getD k 0
      let bundles := bits (hw 0) 63 32
      let dsize := bits (hw 1) 63 32
      let size := 64 + 16 * bundles + dsize
      let own := bits (dw 3) 23 0
      let alloc := if own = 0 then bits (hw 3) 23 0 else own
      let rpt := bits (dw 3) 47 32
      let bad := bits (hw 0) 31 0 != 0x53580901 || bits (hw 3) 63 24 != 0 || (List.range 4).any (fun k => hw (4 + k) != 0)
        || bits (hw 1) 31 0 % 16 != 0
        || bits (dw 3) 31 27 != 0 || bits (dw 3) 63 48 != 0 || bits (dw 4) 63 48 != 0
        || (comp && (dw 3 != 0 || dw 4 != 0)) || (!comp && alloc == 0)
        || decide (32 < alloc % 256) || decide (8 < alloc / 256 % 16) || decide (128 < alloc / 4096)
        || (!comp && rpt % 8 != 0 && rpt != 0xFFFF) || (comp && decide (2 ^ 18 < 16 * bundles + dsize))
      if bad then .error 1
      else if s.unreadable image size then .error (if isHbm (image + size - 1) then 3 else 1)
      else .ok { core := core, image := image, bundles := bundles, entry := bits (hw 1) 31 0, dsize := dsize,
                 dbase := if comp then 2 ^ 24 + 16 * bundles else (dw 1).toNat, pblk := (dw 2).toNat,
                 alloc := if comp then 0 else alloc, ports := bitAt (dw 3) 24,
                 ien := bits (dw 3) 26 25, rpt := if comp then 0xFFFF else rpt, coord := dw 4, top := dw 5, wsp := dw 6,
                 budget := if dw 7 = 0 then w64 (bits (hw 2) 62 0) else dw 7, flags := (e.drop 8) }

/-- What the front end reads for a LAUNCH, in order: each entry of its table, the header of its image, the image (R406). -/
def State.launchSpans (s : State) (p : Packet) : List (Nat × Nat) :=
  (List.range p.cores.length).flatMap (fun i =>
    let at_ := (p.body 1).toNat + 128 * i
    let image := ((s.physWords at_ 1).getD 0 0).toNat
    let h := s.physWords image 2
    [(at_, 128), (image, 64), (image, 64 + 16 * bits (h.getD 0 0) 63 32 + bits (h.getD 1 0) 63 32)])

/-- The error that stops the reading of a LAUNCH's table and images is noted as for any access (R233). -/
def State.noteLaunch (s : State) (p : Packet) : State :=
  match (s.launchSpans p).findSome? (fun e => s.poisoned e.1 e.2) with
  | some sec => s.metAt sec
  | none => s

/-- The entries of a LAUNCH's table and the headers of its images are read (R233, R406). -/
def State.readPlaces (s : State) (table agency : Nat) (xs : List Place) : State :=
  xs.zipIdx.foldl (fun (s : State) e =>
    ((s.homeRead (table + 128 * e.2) 128 .l2 agency).2.homeRead e.1.image 64 .l2 agency).2) s

/-- All places of a LAUNCH. -/
def State.places (s : State) (table : Nat) : Nat → List Nat → Except Nat (List Place)
  | _, [] => .ok []
  | i, c :: t =>
    match s.placeAt table i c with
    | .error e => .error e
    | .ok x => match s.places table (i + 1) t with
      | .error e => .error e
      | .ok xs => .ok (x :: xs)

/-- The contexts that keep something on a core: resident or loaded ones, and pre-empted ones (R105). -/
def State.keepers (s : State) (core : Nat) : List Ctx :=
  (s.allCtxs.filter (fun c => c.core == core && c.status != .free)) ++
  ((s.saved.map (·.ctx)).filter (fun c => c.core == core))

/-- The lowest start of n free units below `limit`, where `used` says which are taken. -/
def freeRun (used : Nat → Bool) (n limit : Nat) : Option Nat :=
  (List.range (limit + 1)).find? (fun b => decide (b + n ≤ limit) && (List.range n).all (fun i => !used (b + i)))

/-- Whether a lockstep launch holds a core (R83, R85). -/
def State.lockHeld (s : State) (core : Nat) : Bool :=
  s.allCtxs.any (fun c => c.core == core && c.lock && c.status != .free)

/-- A context slot of a core in which nothing is placed; a core that a lockstep launch holds has none. -/
def State.freeSlot (s : State) (core : Nat) : Option Nat :=
  if s.lockHeld core then none
  else (List.range (if core < 192 then 4 else 1)).find? (fun k =>
    s.allCtxs.all (fun c => !(c.core == core && c.slot == k && c.status != .free)))

/-- Whether a core is idle: no context holds it (R85, R185). -/
def State.idleCore (s : State) (core : Nat) : Bool := (s.coreAt core).running.isNone

/-- Where a place fits on its core (R407): slot, first granule, tiles, first piece of instruction memory. A compute die without power
takes none (R426). -/
def State.fits (s : State) (lock : Bool) (x : Place) : Option (Nat × Nat × List Nat × Nat) :=
  let ks := s.keepers x.core
  let k := s.coreAt x.core
  let room := if s.idleCore x.core then 32 else k.scrBytes / 65536
  let holds := s.allCtxs.any (fun c => c.core == x.core && c.status != .free)
  let pieces := (16 * x.bundles + 16383) / 16384
  let tiles := (List.range 8).filter (fun t => ks.all (fun c => !c.tiles.contains t))
  let nt := x.alloc / 256 % 16
  let slot := s.freeSlot x.core
  let gran := freeRun (fun g => ks.any (fun c => decide (c.scrBase ≤ 65536 * g) && decide (65536 * g < c.scrBase + c.scrSize)))
    (x.alloc % 256) room
  let piece := freeRun (fun g => ks.any (fun c => decide (c.imBase ≤ 16384 * g) && decide (16384 * g < c.imBase + c.imSize)))
    pieces 16
  if s.plat.power == .shut || (lock && x.core < 192 && holds) || (x.ports && ks.any (·.ports)) || decide (tiles.length < nt) then none
  else match slot, gran, piece with
    | some s, some g, some i => some (s, g, tiles.take nt, i)
    | _, _, _ => none

/-- The context a place becomes (R81, R382, R408); it is loaded and not yet released. -/
def Place.ctx (x : Place) (p : Packet) (num prio : Nat) (at_ : Nat × Nat × List Nat × Nat) : Ctx :=
  let (slot, gran, tiles, piece) := at_
  { Ctx.idle x.core slot with
    status := .loaded, launch := num, agency := p.agency, lock := bitAt (p.body 0) 63 && decide (x.core < 192), prio := prio,
    s := (Vector.replicate 8 (0 : Word)).set 1 (w64 x.pblk), s31 := x.top,
    f := Vector.ofFn (fun i : Fin 32 => BitVec.ofNat 16 (bits (x.flags.getD (i.val / 4) 0) (16 * (i.val % 4) + 15) (16 * (i.val % 4)))),
    wsp := x.wsp, tileX := BitVec.ofNat 16 (bits x.coord 15 0), tileY := BitVec.ofNat 16 (bits x.coord 31 16),
    tileZ := BitVec.ofNat 16 (bits x.coord 47 32), alloc := BitVec.ofNat 24 x.alloc, dbase := w64 x.dbase, budget := x.budget,
    bleft := w64 (bits x.budget 62 0), tvec := p.body 6,
    ssave := w64 ((p.body 7).toNat + x.core * 2 ^ 20), ienable := BitVec.ofNat 2 x.ien,
    q0 := ⟨x.entry, false⟩, q1 := ⟨x.entry + 16, false⟩, q2 := ⟨x.entry + 32, false⟩,
    imBase := 16384 * piece, imSize := 16384 * ((16 * x.bundles + 16383) / 16384),
    scrBase := 65536 * gran, scrSize := 65536 * (x.alloc % 256), tiles := tiles, ports := x.ports }

/-- Put a context into its slot. -/
def State.putCtx (s : State) (c : Ctx) : State :=
  if s.ctx.core = c.core ∧ s.ctx.slot = c.slot then { s with ctx := c }
  else { s with ctxs := c :: s.ctxs.filter (fun x => !(x.core == c.core && x.slot == c.slot)) }

/-- The chamber address of offset `off` of a core's scratchpad (R12). -/
def chamberAddr (core off : Nat) : Nat := core % 8 * 2 ^ 21 + off

/-- Loading one place's data section (R407 step 3): virtual writes at L2; a companion's data stands in its local memory behind its
bundles (R381, log 90, DEDUCED). -/
def loadDataE (w : Who) (x : Place) : E Unit := fun s =>
  let (data, s) := s.homeRead (x.image + 64 + 16 * x.bundles) x.dsize .l2 w.agency
  if 192 ≤ x.core then .ok ((), { s with loc := memPutN s.loc (locKey (x.core - 192) (x.dbase % 2 ^ 18)) data })
  else engWriteAll w (x.core * 1000000) (pagesOf x.dbase data.length) data s

/-- The report of a place's granule run (R407 step 4). -/
def loadRptE (w : Who) (x : Place) (scr : Nat) : E Unit :=
  if x.rpt = 0xFFFF then pure ()
  else engWrite w (x.core * 1000000 + 999999) (x.pblk + x.rpt) (bytesOfNat 8 (chamberAddr x.core scr))

/-- Act for each place of a launch in order. -/
def eachE (f : Place × Ctx → E Unit) : List (Place × Ctx) → E Unit
  | [] => pure ()
  | e :: t => do
    f e
    eachE f t

/-- The bundles of an image go to instruction memory, or to a companion's local memory (R381, R407). -/
def State.loadText (s : State) (x : Place) (c : Ctx) : State :=
  let (bs, s) := s.homeRead (x.image + 64) (16 * x.bundles) .l2 c.agency
  if 192 ≤ x.core then { s with loc := memPutN s.loc (locKey (x.core - 192) 0) bs }
  else { s with imem := memPutN s.imem (imKey x.core c.imBase) bs }

/-- The loading of a LAUNCH in the order of R407: the images' bundles, the data sections, the start actions, the reports. -/
def launchE (p : Packet) (cs : List (Place × Ctx)) : E Unit := do
  eachE (fun e s => .ok ((), s.loadText e.1 e.2)) cs
  eachE (fun e => loadDataE p.who e.1) cs
  (fun s => .ok ((), s.bufferActs p true) : E Unit)
  eachE (fun e => loadRptE p.who e.1 e.2.scrBase) cs

/-- The contexts of a LAUNCH, when every named core can take them. -/
def State.placed (s : State) (p : Packet) (num : Nat) (xs : List Place) : Option (List (Place × Ctx)) :=
  let lock := bitAt (p.body 0) 63
  let prio := qdPrio (s.qd p.queue 0)
  xs.foldr (fun x acc => match acc, s.fits lock x with
    | some l, some at_ => some ((x, x.ctx p num prio at_) :: l)
    | _, _ => none) (some [])

/-- LAUNCH (R406, R407): load the images and data and place the contexts, once every named core can take them. -/
def execLaunch (uid : Nat) (s : State) : Out :=
  s.onPacket uid 1 0 (fun p =>
    match s.places (p.body 1).toNat 0 p.cores with
    | .error code => (s.noteLaunch p).packetFault p code
    | .ok xs =>
      let num := s.fe.nextLaunch
      match s.placed p num xs with
      | none => s
      | some cs =>
        let p' := { p with launch := num, phase := 1 }
        let l : Launch := { num := num, agency := p.agency, prio := qdPrio (s.qd p.queue 0), root := bits (p.body 0) 47 0,
                            lock := bitAt (p.body 0) 63, ssave := (p.body 7).toNat, cores := p.cores, live := p.cores, uid := uid,
                            bad := false }
        let s1 := s.readPlaces (p.body 1).toNat p.agency xs
        let s1 := { s1 with launches := s1.launches ++ [l], fe := { s1.fe with nextLaunch := (num + 1) % 2 ^ 32 } }
        match launchE p' cs s1 with
        | .error (.pend f) => f s
        | .error (.fault r log) => ((log s).packetTrap r).packetFault p (trapQueueCode r.cause)
        | .ok (_, s2) =>
          let s2 := (s2.engForget p'.who).setPacket p'
          let chs := cs.map (fun e => chamberOf e.1.core)
          let s2 := { s2 with ro := s2.ro.filter (fun r => !chs.contains r.chamber) }
          cs.foldl (fun (s : State) e => s.putCtx e.2) s2)

/-- A core as a release finds it (R185, R283): on an idle core the L1 gives its space back, the context runs from now on, the
edge latches and the allotted tiles are zero. The model chooses (log 115, DESIGN CHOICE): a PHASE window that an earlier task
left open ends at its own time, and its size then holds. -/
def State.releaseCore (s : State) (c : Ctx) : State :=
  let idle := s.idleCore c.core
  let s := if idle then s.flushCore c.core (fun _ => true) else s
  let k := s.coreAt c.core
  let tiles := Vector.ofFn (fun i : Fin 8 => if c.tiles.contains i.val then (⟨0, []⟩ : Tile) else k.tiles[i])
  let k := { k with tiles := tiles, pblk := [] }
  s.setCore (if idle then { k with l1Size := 0, el := Vector.replicate 4 Latch.zero, mode := none, running := some c.slot,
                                   owner := some c.slot, readyAt := s.now, idleSince := none } else k)

/-- LAUNCH_RELEASE (R81, R407): every named core and companion is released on one cycle. -/
def execLaunchRelease (uid : Nat) (s : State) : Out :=
  s.onPacket uid 1 1 (fun p =>
    let mine := fun (c : Ctx) => c.launch == p.launch && c.status == .loaded
    let cs := s.allCtxs.filter mine
    let s := cs.foldl (fun (s : State) c => s.releaseCore c) s
    let s := s.mapCore (fun _ => true) (fun k => { k with pblk := [] })
    let s := s.mapCtx mine (fun c => { c with status := .ready, lastIssue := s.now })
    s.phase p 2)

/-! ## Which front-end step comes next -/

/-- Whether every earlier packet of the queue has completed (R403). -/
def State.barOpen (s : State) (p : Packet) : Bool :=
  !p.bar || p.node.isSome || s.fe.packets.all (fun x => !(x.queue == p.queue && x.node.isNone && decide (x.uid < p.uid)))

/-- Whether a blocked packet can be dispatched now (R405, R407, R410, R411). -/
def State.dispatchable (s : State) (p : Packet) : Bool :=
  s.barOpen p && s.answeredAll (1000 + p.uid) && match p.typ with
  | 1 => (match s.places (p.body 1).toNat 0 p.cores with
      | .error _ => true
      | .ok xs => (s.placed p 0 xs).isSome)
  | 4 => !p.begun || (match waitsoE p s with
      | .ok (ok, _) => ok || s.fab.out.any (fun o => o.core == 255 && o.slot == 1000 + p.uid)
      | _ => true)
  | 5 => !p.begun || (match graphE p s with
      | .ok (r, _) => r.isSome
      | _ => true)
  | 6 => !p.begun || (match patchE p s with
      | .ok (r, _) => r.isSome
      | _ => true)
  | 7 => decide (s.flows.length < 8) || s.flows.any (fun r => r.recVa == (p.body 0).toNat)
  | 9 => decide (s.flows.length < 8) || s.flows.any (fun r => r.recVa == (p.body 1).toNat)
  | _ => true

/-- A step the machine takes on its own: the meaning of a row of the table without an encoding, with its arguments. -/
abbrev Act := State → Out

/-- The next step of a packet, if it can take one. -/
def State.packetStep (s : State) (p : Packet) : Option Act :=
  if s.packetDone p then some (execPacketComplete p.uid)
  else if p.phase = 0 then
    (if s.dispatchable p then
      match p.typ with
      | 1 => some (execLaunch p.uid)
      | 2 => some (execBufs p.uid)
      | 3 => some (execSignal p.uid)
      | 4 => some (execWaitso p.uid)
      | 5 => some (execGraph p.uid)
      | 6 => some (execPatch p.uid)
      | 7 => some (execReshard p.uid)
      | 8 => some (execHorizon p.uid)
      | 9 => some (execPkCkpt p.uid)
      | _ => none
    else none)
  else if p.typ = 1 ∧ p.phase = 1 then some (execLaunchRelease p.uid)
  else if p.typ = 5 then
    (if s.answeredAll (1000 + p.uid) then
      ((s.fe.replays.find? (fun r => r.uid == p.uid)).bind Replay.ready).map (fun k => execGraphNodeDispatch p.uid k)
    else none)
  else none

/-- The front end's steps that may come next. -/
def State.feSteps (s : State) : List Act :=
  (match s.scanNext with
   | some _ => [execQueueService]
   | none => []) ++ s.fe.packets.filterMap s.packetStep

/-! ## The control space (R414, R415) -/

/-- An entry of a ring by its place: place e holds the newest entry whose append number is e modulo the size. -/
def Ring.at_ (r : Ring) (cap e : Nat) : LogEnt :=
  let back := (r.appended + cap - 1 - e) % cap
  if r.appended = 0 then ⟨0, 0, 0⟩ else r.ents.getD back ⟨0, 0, 0⟩

/-- What a read of the control space returns at an offset. -/
def State.ctlRead (s : State) (off : Nat) : Word :=
  let pl := s.plat
  if off % 8 ≠ 0 then 0
  else if off < 0x20000 then s.ctlWord off
  else if off = 0x20000 then s.fe.nbase
  else if 0x1000000 ≤ off ∧ off < 0x1000200 then
    w64 (natOfBytes (((pl.mr.getD ((off - 0x1000000) / 64) []).drop (off % 64)).take 8))
  else if 0x1010000 ≤ off ∧ off < 0x1012000 then
    (let x := off - 0x1010000
     if x % 128 / 8 < 9 then look pl.acct (16 * (x / 128) + x % 128 / 8) 0 else 0)
  else if off = 0x1012000 then pl.idle
  else if 0x1020000 ≤ off ∧ off < 0x1020200 then look pl.journal ((off - 0x1020000) / 8) 0
  else if 0x1030000 ≤ off ∧ off < 0x1040000 then
    (let e := pl.mgmt.at_ 4096 ((off - 0x1030000) / 16)
     if off % 16 = 0 then e.w0 else e.w1)
  else if off = 0x1040000 then w64 pl.mgmt.appended
  else if off = 0x1040008 then w64 pl.mgmt.lost
  else if 0x2000000 ≤ off ∧ off < 0x2000030 then
    (match s.fab.links[(off - 0x2000000) / 8]? with
     | some l => l.word
     | none => 0)
  else if 0x2010000 ≤ off ∧ off < 0x2011E00 then s.ctlWord off
  else if 0x2100000 ≤ off ∧ off < 0x2180000 then s.ctlWord off
  else if 0x2200000 ≤ off ∧ off < 0x2210000 then
    (let x := off - 0x2200000
     let e := (pl.errs.getD (x / 0x2000) ⟨[], 0, 0⟩).at_ 256 (x % 0x2000 / 32)
     match off % 32 / 8 with
     | 0 => e.w0
     | 1 => e.w1
     | 2 => e.w2
     | _ => 0)
  else if 0x2210000 ≤ off ∧ off < 0x2210040 then w64 (pl.errs.getD ((off - 0x2210000) / 8) ⟨[], 0, 0⟩).appended
  else if 0x2210040 ≤ off ∧ off < 0x2210080 then w64 (pl.errs.getD ((off - 0x2210040) / 8) ⟨[], 0, 0⟩).lost
  else 0

/-- The base of the hub's control space (R415). -/
def ctlBase : Nat := 0xF00000000000

def execHostControlRead (addr : Nat) (s : State) : Out :=
  let w := if addr < ctlBase then 0 else s.ctlRead (addr - ctlBase)
  .next { s with answers := s.answers ++ [.word addr w] }

/-- A write of a queue descriptor's dword (R401, R414): while the queue is enabled only a write that clears qd.en counts. -/
def State.writeQd (s : State) (q k : Nat) (w : Word) : State :=
  let en := qdEn (s.qd q 0)
  if k = 0 then
    (if en && qdEn w then s
    else
      let s := s.setCtl (32 * q) (w &&& ~~~((2 ^ 62 : Nat) : Word))
      if qdEn w && qdBad w then s.queueFault q 1 none else s)
  else if k = 1 ∧ !en then s.setCtl (32 * q + 8) (w64 (bits w 39 0))
  else s

/-- mr(i) := SHAKE256(mr(i) || d), 64 bytes (R420). -/
def State.extend (s : State) (i : Nat) (d : List Byte) : State :=
  { s with plat := { s.plat with mr := s.plat.mr.setIfInBounds i (shake256 64 (s.plat.mr.getD i [] ++ d)) } }

/-- A write of `mr.ext` requests an extend (R415, R420). How its 8 bytes name a register and a digest of 64 bytes is not stated: both
are free values (log 93, DESIGN CHOICE). -/
def State.mrExtend (s : State) (w : Word) : State :=
  let (i, d) := Config.mrExt s.draw w
  ({ s with draw := s.draw + 1 }).extend (i % 8) ((d ++ List.replicate 64 0).take 64)

/-- A write of the control space at an offset; a read-only or unassigned place ignores it. -/
def State.ctlWrite (s : State) (off : Nat) (w : Word) : State :=
  if off % 8 ≠ 0 then s
  else if off < 0x20000 then s.writeQd (off / 32) (off % 32 / 8) w
  else if off = 0x20000 then s.setNbase w
  else if off = 0x1000200 then s.mrExtend w
  else if 0x2000000 ≤ off ∧ off < 0x2000030 then s.linkMode ((off - 0x2000000) / 8) w
  else if 0x2010000 ≤ off ∧ off < 0x2011E00 then s.setCtl off w
  else if 0x2100000 ≤ off ∧ off < 0x2180000 then s.setCtl off w
  else s

def execHostControlWrite (addr : Nat) (w : Word) (s : State) : Out :=
  let s := if addr < ctlBase then s else s.ctlWrite (addr - ctlBase) w
  .next { s with answers := s.answers ++ [.wrote addr] }

/-- TLB invalidation of a launch over a range, or over all of it (R204, R414). -/
def execTlbInvalidate (launch : Nat) (range : Option (Nat × Nat)) (s : State) : Out :=
  let hit := fun (e : TlbEnt) => e.launch == launch && (match range with
    | none => true
    | some (lo, hi) => decide (lo < e.base + e.size) && decide (e.base < hi))
  let s := s.mapCore (fun _ => true) (fun k => { k with tlb := k.tlb.filter (fun e => !hit e) })
  .next { s with ctlb := s.ctlb.filter (fun e => !hit e.2), answers := s.answers ++ [.invalidated launch] }

end Sys2Proof.Machine
end

