-- ==== Sys2Proof/Machine/Platform.lean ====
section
/-! DEFINITION. Boot, attestation, accounting and power (spec/25 R419 to R426), the scrubber (spec/12 R233) and the sump
filter (R228). -/

namespace Sys2Proof.Machine

/-! ## Measured boot (R419 to R421) -/

def execMrExt (i : Nat) (digest : List Byte) (s : State) : Out :=
  if 8 ≤ i ∨ digest.length ≠ 64 then .refused .noSuchEvent else .next (s.extend i digest)

/-- The place of a boot step's entry in the journal: eight units for each stage. -/
def journalAt (stage unit : Nat) : Nat := 8 * stage + unit

/-- A journal entry (R421). -/
def journalWord (stage unit state alt boot : Nat) : Word :=
  w64 ((stage * 16 + unit) * 2 ^ 40 + state * 2 ^ 36 + alt * 2 ^ 32 + boot % 2 ^ 32)

/-- jr.state as it is read: 5 to 15 count as failed. -/
def journalState (w : Word) : Nat := if 5 ≤ bits w 39 36 then 3 else bits w 39 36

/-- Write a journal entry. -/
def State.journal (s : State) (stage unit state alt : Nat) : State :=
  let e := journalWord stage unit state alt s.plat.boot
  { s with plat := { s.plat with journal := put s.plat.journal (journalAt stage unit) e } }

/-- Whether a boot's step is optional: link training. -/
def bootOptional (stage : Nat) : Bool := stage == 4

/-- Whether a failed step is tried again in the same boot with the alternate parameters (R420). -/
def bootRetries (stage : Nat) : Bool := stage == 2 || stage == 3

/-- The 64 entries of the journal in bytes. -/
def State.journalBytes (s : State) : List Byte :=
  bytesOfWords ((List.range 64).map (fun e => look s.plat.journal e 0))

/-- The units of a stage (R420): stacks, compute dies, links. -/
def stageUnits (stage : Nat) : Nat := if stage = 2 then 8 else if stage = 3 then 4 else if stage = 4 then 6 else 1

/-- Whether a step has passed in this boot. -/
def State.passedNow (s : State) (stage unit : Nat) : Bool :=
  let w := look s.plat.journal (journalAt stage unit) 0
  bits w 31 0 == s.plat.boot % 2 ^ 32 && journalState w == 2

/-- Whether every mandatory step of the stages before stage n has passed in this boot. -/
def State.bootedTo (s : State) (n : Nat) : Bool :=
  (List.range n).all (fun g => bootOptional g || (List.range (stageUnits g)).all (fun u => s.passedNow g u))

/-- How far a boot has come: it goes on, it is stuck in reset, the power was lost in a step. -/
inductive BootState where
  | going (s : State)
  | stuck (s : State)
  | lost (s : State)
  deriving DecidableEq, Repr

/-- A step acts (R419 to R421): its entry is started; what it runs is verified, and measured when its signature holds; the entry says
how it ended. Stage 7 measures the journal as it stands when it begins. -/
def State.bootAct (s : State) (x : BootStep) (alt : Nat) : BootState :=
  let s := if x.stage = 7 then s.extend 7 (shake256 64 s.journalBytes) else s
  let s := s.journal x.stage x.unit 1 alt
  let s := if x.stage = 7 ∨ x.signed = false then s else s.extend x.stage (shake256 64 x.image)
  match x.ends with
  | .powerLost => .lost s
  | e =>
    if e = .passed ∧ (x.stage = 7 ∨ x.signed) then .going (s.journal x.stage x.unit 2 alt)
    else
      let s := s.journal x.stage x.unit 3 alt
      if bootOptional x.stage || (bootRetries x.stage && alt == 0) then .going s else .stuck s

/-- One step of a boot (R420, R421); it is not taken while a stage before it has not passed. `last` is the journal as the boot found
it: what was started then, or failed, counts as failed. A step that comes again in one boot is the retry with alternate
parameters. -/
def bootStep (last : List (Nat × Word)) (b : BootState) (x : BootStep) : BootState :=
  match b with
  | .going s =>
    let old := look last (journalAt x.stage x.unit) 0
    let now := look s.plat.journal (journalAt x.stage x.unit) 0
    let again := decide (bits now 31 0 = s.plat.boot % 2 ^ 32) && journalState now == 3
    let bad := journalState old == 3 || journalState old == 1
    if !s.bootedTo x.stage || s.passedNow x.stage x.unit then .going s
    else if bootOptional x.stage && bad && !again then .going (s.journal x.stage x.unit 4 0)
    else s.bootAct x (if again || bad then 1 else 0)
  | b => b

/-- A package that loses its power (R421): everything volatile is gone, the journal stays. -/
def State.powerLost (s : State) : State :=
  { State.reset with
    plat := { State.reset.plat with power := .off, boot := s.plat.boot, journal := s.plat.journal },
    inputs := s.inputs.map (fun e => (e.1 - s.now, e.2)), draw := s.draw,
    answers := s.answers,
    fab := { State.reset.fab with dev := s.fab.dev, dims := s.fab.dims, devices := s.fab.devices } }

/-- POWER_ON_BOOT: the boot with the outcomes the stages found (R419 to R421). The package runs when every mandatory step of all
stages has passed; a boot whose steps have not come so far stands. -/
def execPowerOnBoot (steps : List BootStep) (s : State) : Out :=
  if steps.any (fun x => decide (7 < x.stage) || decide (stageUnits x.stage ≤ x.unit)) then .refused .noSuchEvent
  else if s.plat.power = .running ∨ s.plat.power = .shut then .next s
  else
    let last := s.plat.journal
    let s := { s with plat := { s.plat with boot := s.plat.boot + 1, mr := Vector.replicate 8 (List.replicate 64 0) } }
    match steps.foldl (bootStep last) (.going s) with
    | .stuck s => .next { s with plat := { s.plat with power := .stuck } }
    | .lost s => .next s.powerLost
    | .going s => .next { s with plat := { s.plat with power := if s.bootedTo 8 then .running else .booting } }

/-- POWER_LOSS (R421). -/
def execPowerLoss (s : State) : Out := .next s.powerLost

/-! ## Attestation (R422, R423) -/

/-- Send an SPDM response. -/
def State.spdmSend (s : State) (peer code : Nat) (fields : List Word) (bytes : List Byte) : State :=
  { s with answers := s.answers ++ [.spdm peer code fields bytes] }

/-- An SPDM ERROR response with its error code. -/
def State.spdmError (s : State) (peer code : Nat) : State := s.spdmSend peer 0x7F [w64 code] []

/-- Answer a request in a package whose boot has come so far; one that is stuck in reset answers GET_VERSION with an error
only (R419). A thermal shutdown takes the power of the compute dies, not the hub's (R426). -/
def State.spdmAnswer (s : State) (f : State → State) : Out :=
  if s.plat.power = .running ∨ s.plat.power = .shut then .next (f s) else .next s

def execGetVersion (peer : Nat) (s : State) : Out :=
  if s.plat.power = .running ∨ s.plat.power = .shut then .next (s.spdmSend peer 0x04 [0x1300] [])
  else if s.plat.power = .stuck then .next (s.spdmError peer 0x04)
  else .next s

def execGetCapabilities (peer : Nat) (s : State) : Out := s.spdmAnswer (fun s => s.spdmSend peer 0x61 [14, 0x3D6] [])

/-- The algorithms the hub negotiates (R422): Bruet's registry identifier with the codes of Falcon-1024, ML-KEM-1024 and SHAKE256;
the AEAD AES-256-GCM and the measurement specification DMTF (log 95, PRESUMED). -/
def algorithms : List Word := [0x4252, 1, 2, 3, 2, 1]

/-- The algorithms the hub negotiates, or an error. -/
def execNegotiateAlgorithms (peer : Nat) (accepted : Bool) (s : State) : Out :=
  s.spdmAnswer (fun s => if accepted then s.spdmSend peer 0x63 algorithms [] else s.spdmError peer 0x01)

/-- A value of the part's keys or of the algorithms named in R422, drawn free (log 12, DESIGN CHOICE). -/
def State.cryptoBytes (s : State) : List Byte × State := (Config.crypto s.draw, { s with draw := s.draw + 1 })

def execGetDigests (peer cslot : Nat) (s : State) : Out :=
  s.spdmAnswer (fun s =>
    if cslot = 0 then
      let (b, s) := s.cryptoBytes
      s.spdmSend peer 0x01 [1] b
    else s.spdmError peer 0x01)

def execGetCertificate (peer cslot : Nat) (s : State) : Out :=
  s.spdmAnswer (fun s =>
    if cslot = 0 then
      let (b, s) := s.cryptoBytes
      s.spdmSend peer 0x02 [0] b
    else s.spdmError peer 0x01)

/-- The bytes of all measurement registers. -/
def State.mrBytes (s : State) : List Byte := s.plat.mr.toList.flatten

/-- CHALLENGE: the measurement summary hash of a type (none, mr5, mr0 to mr7), then the signature. -/
def execChallenge (peer cslot summary : Nat) (nonce : List Byte) (s : State) : Out :=
  s.spdmAnswer (fun s =>
    if cslot ≠ 0 ∨ ¬ (summary = 0 ∨ summary = 1 ∨ summary = 0xFF) then s.spdmError peer 0x01
    else
      let h := if summary = 0 then [] else if summary = 1 then shake256 64 (s.plat.mr.getD 5 []) else shake256 64 s.mrBytes
      let (b, s) := s.cryptoBytes
      s.spdmSend peer 0x03 [w64 summary] (h ++ nonce ++ b))

/-- The 577 counters of measurement block 9 in one snapshot (R424). -/
def State.acctSnapshot (s : State) : List Byte :=
  bytesOfWords ((List.range 64).flatMap (fun a => (List.range 9).map (fun i => look s.plat.acct (16 * a + i) 0)) ++ [s.plat.idle])

/-- A measurement block. -/
def State.block (s : State) (k : Nat) : List Byte := if k ≤ 8 then s.plat.mr.getD (k - 1) [] else s.acctSnapshot

def execGetMeasurements (peer index : Nat) (signed : Bool) (nonce : List Byte) (s : State) : Out :=
  s.spdmAnswer (fun s =>
    let bs := if index = 0xFF then (List.range 9).flatMap (fun k => s.block (k + 1)) else s.block index
    if index ≠ 0xFF ∧ ¬ (1 ≤ index ∧ index ≤ 9) then s.spdmError peer 0x01
    else if signed then
      let (b, s) := s.cryptoBytes
      s.spdmSend peer 0x60 [w64 index] (bs ++ nonce ++ b)
    else s.spdmSend peer 0x60 [w64 index] bs)

/-- A session goes to a stage; of a peer the responder and the requester have one each. -/
def State.session (s : State) (peer : Nat) (asks : Bool) (stage : Nat) (keyed : Bool) : State :=
  { s with plat := { s.plat with
      spdm := ⟨peer, asks, stage, keyed⟩ :: s.plat.spdm.filter (fun x => !(x.peer == peer && x.asks == asks)) } }

/-- A session fails (R423): it is gone and the failure is logged; a link is unkeyed, and never keyed if authentication failed. -/
def State.sessionFails (s : State) (peer : Nat) (auth : Bool) : State :=
  let s := { s with plat := { s.plat with spdm := s.plat.spdm.filter (fun x => x.peer != peer) } }
  (if peer < 6 then s.modLink peer (fun x => x.sessionFailed auth) else s).report 10 (w64 peer)

/-- KEY_EXCHANGE: a link's session needs mutual authentication, without it the link's authentication has failed (R422, R423). Peers 0 to
5 are the links' requesters; the response names the length of the share and the heartbeat period 0. -/
def execKeyExchange (peer : Nat) (both : Bool) (share : List Byte) (s : State) : Out :=
  s.spdmAnswer (fun s =>
    if peer < 6 ∧ !both then (s.spdmError peer 0x01).sessionFails peer true
    else
      let (b, s) := s.cryptoBytes
      (s.session peer false 1 false).spdmSend peer 0x64 [w64 share.length, 0] b)

/-- FINISH: the session stands, and a link takes its key and salt from it (R423); a session that fails is logged. -/
def execFinish (peer : Nat) (verified : Bool) (s : State) : Out :=
  s.spdmAnswer (fun s =>
    if s.plat.spdm.all (fun x => !(x.peer == peer && !x.asks && x.stage == 1)) then s.spdmError peer 0x04
    else if !verified then (s.spdmError peer 0x01).sessionFails peer false
    else
      let s := (s.session peer false 2 true).spdmSend peer 0x65 [] []
      if peer < 6 then
        let (key, salt) := Config.sessionKey s.draw
        ({ s with draw := s.draw + 1 }).modLink peer (fun x => x.install key salt)
      else s)

/-- Any other request (7: UnsupportedRequest) or version or option (1: InvalidRequest). -/
def execSpdmUnsupported (peer : Nat) (version : Bool) (s : State) : Out :=
  s.spdmAnswer (fun s => s.spdmError peer (if version then 0x01 else 0x07))

/-- Whether this package's requester serves the session of link l: at the end with the lower device number (R423). -/
def State.asksOn (s : State) (l : Nat) : Bool := decide (s.fab.dev < neighbour s.fab.dims s.fab.dev l)

/-- The requester of a link starts an exchange with the neighbour: KEY_EXCHANGE (R423). -/
def State.asksFor (s : State) (l : Nat) : State := (s.session l true 1 false).spdmSend l 0xE4 [] []

/-- Whether the requester of a keyed link must run a new exchange now: before a flit counter reaches 2^48 (R423), from 2^47 on (log 118,
DESIGN CHOICE). -/
def State.rekeys (s : State) (l : Nat) : Bool :=
  let x := s.fab.links.getD l Link.reset
  x.lstate == 3 && s.asksOn l && (List.range 8).any (fun v => decide (2 ^ 47 ≤ x.txCount.getD v 0) || decide (2 ^ 47 ≤ x.rxCount.getD v 0))
    && s.plat.spdm.all (fun e => !(e.peer == l && e.asks && !e.keyed))

/-- A response that comes by a link on VC6 to its requester (R423): the code, then 1 when what it carries is verified. After
KEY_EXCHANGE_RSP it sends FINISH; with FINISH_RSP the session stands, and LINK_KEY_INSTALL brings its key. An ERROR, or a response
that is not verified, ends the session; for KEY_EXCHANGE_RSP that is a failed authentication (log 125, DEDUCED). -/
def State.linkSpdm (s : State) (l : Nat) (ws : List Word) : State :=
  let code := (ws.getD 0 0).toNat
  let ok := ws.getD 1 0 == 1
  match s.plat.spdm.find? (fun x => x.peer == l && x.asks && !x.keyed) with
  | none => s
  | some x =>
    if code = 0x64 ∧ x.stage = 1 then
      (if ok then (s.session l true 2 false).spdmSend l 0xE5 [] [] else s.sessionFails l true)
    else if code = 0x65 ∧ x.stage = 2 then (if ok then s.session l true 2 true else s.sessionFails l false)
    else if code = 0x7F then s.sessionFails l false
    else s

/-- LINK_TRAINING_DONE (R423): the link is unkeyed, and the end with the lower device number starts its KEY_EXCHANGE. -/
def execLinkTrainingDone (l : Nat) (s : State) : Out :=
  if 6 ≤ l then .refused .noSuchEvent
  else if (s.fab.links.getD l Link.reset).lstate ≠ 1 then .next s
  else
    let s := s.modLink l (fun x => { x with lstate := 2 })
    .next (if s.asksOn l then s.asksFor l else s)

/-! ## Accounting (R424) -/

/-- The energy an agency is given for a share of `e` mJ: whole millijoules are counted, the rest is carried exactly. -/
def State.energy (s : State) (agency num den : Nat) : State :=
  let old := look s.plat.frac agency (0, 1)
  let n := old.1 * den + num * old.2
  let d := old.2 * den
  let whole := n / d
  let g := Nat.gcd (n % d) d
  let s := { s with plat := { s.plat with frac := put s.plat.frac agency (n % d / g, d / g) } }
  s.account agency 8 whole

/-- Divide e mJ among agencies in proportion to their counts; without a count it is idle energy. -/
def State.divide (s : State) (e : Nat) (counts : List (Nat × Nat)) : State :=
  let total := counts.foldl (fun a c => a + c.2) 0
  if total = 0 then
    { s with plat := { s.plat with idle := w64 (Nat.min (s.plat.idle.toNat + e) (2 ^ 64 - 1)) } }
  else counts.foldl (fun s c => if c.2 = 0 then s else s.energy c.1 (e * c.2) total) s

/-- The memory and fabric counts of an agency (R424: counters 3 to 5 and 7). -/
def State.movedBytes (s : State) (a : Nat) : Nat :=
  [3, 4, 5, 7].foldl (fun acc i => acc + (look s.plat.acct (16 * a + i) 0).toNat) 0

/-- ENERGY_INTERVAL: the energy of each compute die by core cycles on it, that of the hub and the stacks by bytes moved. -/
def execEnergyInterval (dies : List Nat) (hub hbm : Nat) (s : State) : Out :=
  let ags := List.range 64
  let cycles := fun (d : Nat) => ags.map (fun a => (a, (look s.plat.mark (64 * d + a) 0).toNat))
  let moved := ags.map (fun a => (a, s.movedBytes a - (look s.plat.mark (256 + a) 0).toNat))
  let s1 := ((dies.take 4).zipIdx).foldl (fun (s : State) e => s.divide e.1 (cycles e.2)) s
  let s2 := s1.divide (hub + hbm) moved
  let marks := ags.filterMap (fun a => if s.movedBytes a = 0 then none else some (256 + a, w64 (s.movedBytes a)))
  .next { s2 with plat := { s2.plat with mark := marks } }

/-! ## Power and cooling (R426) -/

/-- THERMAL_THROTTLE: issue on chosen cores freezes for whole quanta of 64 cycles; a lockstep set throttles as one. The event is
reported (R425; the source's detail is log 13, DESIGN CHOICE). -/
def execThermalThrottle (cores : List Nat) (quanta : Nat) (s : State) : Out :=
  let lockSet := fun (n : Nat) => s.allCtxs.any (fun c => c.lock && c.core == n && c.status.resident
    && s.allCtxs.any (fun d => d.lock && d.launch == c.launch && chamberOf d.core == chamberOf n && cores.contains d.core))
  .next ((s.mapCore (fun k => cores.contains k.id || lockSet k.id) (fun k =>
    { k with throttle := Nat.max k.throttle (s.now + 64 * quanta) })).report 8 105)

/-- The compute dies lose their power: cores, contexts, stores, instruction memories and L2 slices are as after a reset, the tasks
are gone from launches and groups, and requests under way have no issuer. What L2 held dirty has gone to its homes (log 122, DESIGN
CHOICE). -/
def State.diesOff (s : State) : State :=
  let s := s.l2.foldl (fun (s : State) l => s.l2WriteBack l l.dirty 0) s
  { s with
    ctx := Ctx.idle 0 0, core := Core.idle 0, ctxs := [], cores := [], scr := [], scrBad := [], loc := [], imem := [], l2 := [],
    far := [], ro := [], ctlb := [], cq := [],
    groups := s.groups.map (fun (g : Group) => g.members.foldl (fun (g : Group) (m : Member) => g.leave m.launch m.core) g),
    launches := s.launches.map (fun (l : Launch) => { l with live := [] }),
    fab := { s.fab with
      out := s.fab.out.filterMap (fun o => match o.pkt.body with
        | .port _ => none
        | .collUp .. => none
        | _ => some (if o.core < 254 then { o with core := orphanCore } else o)),
      colls := s.fab.colls.map (fun c => { c with core := none }) } }

/-- THERMAL_SHUTDOWN: the event is logged, every launch ends with a fault status, the compute dies lose power. -/
def execThermalShutdown (s : State) : Out :=
  let s := s.report 8 115
  let s := s.launches.foldl (fun (s : State) l => s.endLaunch l.num) s
  .next { s.diesOff with plat := { s.diesOff.plat with power := .shut } }

/-! ## Scrubbing and the sump filter (R228, R233) -/

/-- SCRUB_PASS of a sector of HBM, or of one that the sump holds: the scrubber finds what waits there, and what the event brings:
0 nothing, 1 a correctable error, 2 an uncorrectable one. -/
def execScrubPass (pa : Nat) (inSump : Bool) (found : Nat) (s : State) : Out :=
  let place : UpsetAt := if inSump then .sump else .hbm
  let s1 := s.found place (pa / 32)
  if !isHbm pa ∨ 2 < found ∨ (inSump = true ∧ lineHolding s.sump (pa / 32) = none) then .refused .noSuchEvent
  else if found = 0 then .next s1
  else .next (({ s1 with upsets := ⟨s1.now, place, pa / 32, found == 2⟩ :: s1.upsets }).found place (pa / 32))

/-- SUMP_FILTER_CLEAR: after the 1,048,576th lookup of a window the counter and the filter of a stack are cleared. -/
def execSumpFilterClear (stack : Nat) (s : State) : Out := .next (s.setFilter ⟨stack, [], 0⟩)

/-- The stacks whose filter is due to be cleared. -/
def State.filtersDue (s : State) : List Nat := (s.filt.filter (fun f => decide (2 ^ 20 ≤ f.count))).map (·.stack)

end Sys2Proof.Machine
end

