-- ==== Sys2Proof/Decode.lean ====
section
/-! DEFINITION. Decoding and encoding of slot words and bundles (spec/02 and spec/03). The decoder is total: a word that
is no instruction of its slot position is rejected with the reason. The encoder follows the same tables of the spec. -/

namespace Sys2Proof

/-- Why a slot raises the illegal-opcode trap (R42, R43, R21, R25). -/
inductive Illegal where
  | reservedMajor
  | reservedFunction
  | reservedField
  | reservedValue
  deriving DecidableEq, Repr

/-! ## Fields of a slot word (R22) -/

/-- The major opcode, [31:26]. -/
def fMajor (w : SlotWord) : Nat := (w.extractLsb' 26 6).toNat
/-- The field [25:21]: d, vd, frame. -/
def fD (w : SlotWord) : BitVec 5 := w.extractLsb' 21 5
/-- The field [20:16]: a, base, va. -/
def fA (w : SlotWord) : BitVec 5 := w.extractLsb' 16 5
/-- The field [15:11]: b, vb. -/
def fB (w : SlotWord) : BitVec 5 := w.extractLsb' 11 5
/-- The function field [10:0]. -/
def fFun (w : SlotWord) : BitVec 11 := w.extractLsb' 0 11
/-- The immediate [15:0]. -/
def fImm (w : SlotWord) : BitVec 16 := w.extractLsb' 0 16
/-- The policy field [15:13] of the A form; cc in the B form. -/
def fPol (w : SlotWord) : BitVec 3 := w.extractLsb' 13 3
/-- The offset [12:0] of the A form. -/
def fOff (w : SlotWord) : BitVec 13 := w.extractLsb' 0 13
/-- The annul field [12:11]. -/
def fAnnul (w : SlotWord) : BitVec 2 := w.extractLsb' 11 2
/-- pred [10:7] of the V form. -/
def fPred (w : SlotWord) : BitVec 4 := w.extractLsb' 7 4
/-- rm [6:5] of the V form. -/
def fRm (w : SlotWord) : BitVec 2 := w.extractLsb' 5 2
/-- fmt [4:0] of the V form. -/
def fFmt (w : SlotWord) : BitVec 5 := w.extractLsb' 0 5

/-- Accept `i` when the bits of `mask`, which the form leaves unused, are zero (R43). -/
def unused (w mask : SlotWord) (i : Instr) : Except Illegal Instr :=
  if w &&& mask = 0 then .ok i else .error .reservedField

/-! ## The tables -/

/-- Major 0x01 of slots 0 and 1 (R49). -/
def decodeScalarR (p : Pos) (w : SlotWord) : Except Illegal Instr :=
  let d := fD w; let a := fA w; let b := fB w
  match (fFun w).toNat with
  | 0x000 => .ok (.add p d a b)
  | 0x001 => .ok (.sub p d a b)
  | 0x002 => .ok (.and p d a b)
  | 0x003 => .ok (.or p d a b)
  | 0x004 => .ok (.xor p d a b)
  | 0x005 => .ok (.andn p d a b)
  | 0x006 => .ok (.shl p d a b)
  | 0x007 => .ok (.shr p d a b)
  | 0x008 => .ok (.sar p d a b)
  | 0x009 => .ok (.min p d a b)
  | 0x00A => .ok (.max p d a b)
  | 0x00B => .ok (.minn p d a b)
  | 0x00C => .ok (.maxn p d a b)
  | 0x00D => .ok (.sel p d a b)
  | 0x020 => .ok (.mul p d a b)
  | 0x021 => .ok (.mulh p d a b)
  | 0x022 => .ok (.mulhn p d a b)
  | 0x024 => .ok (.div p d a b)
  | 0x025 => .ok (.divn p d a b)
  | 0x026 => .ok (.rem p d a b)
  | 0x027 => .ok (.remn p d a b)
  | 0x040 => .ok (.addSat p d a b)
  | 0x041 => .ok (.subSat p d a b)
  | 0x010 => .ok (.slt p 0 d a b)
  | 0x011 => .ok (.slt p 1 d a b)
  | 0x012 => .ok (.slt p 2 d a b)
  | 0x013 => .ok (.slt p 3 d a b)
  | 0x014 => .ok (.slt p 4 d a b)
  | 0x015 => .ok (.slt p 5 d a b)
  | 0x030 => unused w 0x0000F800 (.clz p d a)
  | 0x031 => unused w 0x0000F800 (.ctz p d a)
  | 0x032 => unused w 0x0000F800 (.popc p d a)
  | _ => .error .reservedFunction

/-- The scalar ALU majors of slots 0 and 1 (R48); `none` where the major is not one of them. -/
def decodeAlu (p : Pos) (w : SlotWord) : Option (Except Illegal Instr) :=
  let d := fD w; let a := fA w
  match fMajor w with
  | 0x01 => some (decodeScalarR p w)
  | 0x02 => some (.ok (.addI p d a (fImm w)))
  | 0x03 => some (.ok (.andI p d a (fImm w)))
  | 0x05 => some (.ok (.orI p d a (fImm w)))
  | 0x06 => some (.ok (.xorI p d a (fImm w)))
  | 0x0A => some (.ok (.minI p d a (fImm w)))
  | 0x0B => some (.ok (.maxI p d a (fImm w)))
  | 0x0C => some (.ok (.mulI p d a (fImm w)))
  | 0x0D => some (.ok (.lih p d a (fImm w)))
  | 0x07 => some (unused w 0x0000FFC0 (.shlI p d a (w.extractLsb' 0 6)))
  | 0x08 => some (unused w 0x0000FFC0 (.shrI p d a (w.extractLsb' 0 6)))
  | 0x09 => some (unused w 0x0000FFC0 (.sarI p d a (w.extractLsb' 0 6)))
  | 0x0E => some (unused w 0x0000F000 (.bfx p d a (w.extractLsb' 6 6) (w.extractLsb' 0 6)))
  | 0x0F => some (unused w 0x0000F000 (.bfi p d a (w.extractLsb' 6 6) (w.extractLsb' 0 6)))
  | _ => none

/-- Class C, slot 0 (R46). -/
def decodeC (p : Pos) (w : SlotWord) : Except Illegal Instr :=
  match decodeAlu p w with
  | some r => r
  | none =>
  let d := fD w; let a := fA w; let b := fB w
  match fMajor w with
  | 0x04 => .ok (.br p d a (fPol w) (fAnnul w) (fFun w))
  | 0x14 => unused w 0x001F0000 (.brp p d (fPol w) (fAnnul w) (fFun w))
  | 0x15 => unused w 0x03FFE000 (.brl p (fAnnul w) (fFun w))
  | 0x16 => unused w 0x03E007FF (.loop p a b)
  | 0x17 => .ok (.j p (w.extractLsb' 0 26))
  | 0x18 => .ok (.call p d (w.extractLsb' 0 21))
  | 0x19 => unused w 0x03E0FFE0 (.callr p a (fFmt w))
  | 0x1A => unused w 0x03E0FFFF (.jr p a)
  | 0x1B => unused w 0x001FFFFF (.ret p d)
  | 0x1C => unused w 0x03FF0000 (.yield p (fImm w))
  | 0x1D => unused w 0x03FFFFFF (.endTask p)
  | 0x1E => unused w 0x03FF0000 (.trap p (fImm w))
  | 0x1F => unused w 0x03FFFFFF (.eret p)
  | 0x20 =>
    match (fFun w).toNat with
    | 0x001 => unused w 0x03FFF800 (.modeI p)
    | 0x002 => unused w 0x03FFF800 (.modeE p)
    | _ => .error .reservedFunction
  | 0x21 => unused w 0x001FF000 (.srr p d (w.extractLsb' 0 12))
  | 0x22 => unused w 0x03E0F000 (.srw p a (w.extractLsb' 0 12))
  | 0x23 => unused w 0x03E0F000 (.srs p a (w.extractLsb' 0 12))
  | 0x24 => unused w 0x03E0F000 (.src p a (w.extractLsb' 0 12))
  | 0x25 => unused w 0x03E00000 (.waitf p a (fImm w))
  | 0x26 => unused w 0x03E00000 (.postf p a (fImm w))
  | 0x27 => .ok (.postr p d a (fImm w))
  | 0x28 => .ok (.ftest p d a (fImm w))
  | 0x29 => unused w 0x0000FFFF (.gnew p d a)
  | 0x2A => unused w 0x03E0FFFF (.join p a)
  | 0x2B => unused w 0x03E0FFFF (.leave p a)
  | 0x2C => unused w 0x03E0FFFF (.barw p a)
  | 0x2D => unused w 0x03E0FFFF (.bara p a)
  | 0x2E => unused w 0x0000FFFF (.barg p d a)
  | 0x2F => unused w 0x03E0FFFF (.step p a)
  | 0x30 => unused w 0x03E0FFFF (.monitor p a)
  | 0x31 => unused w 0x03E0FFFF (.mwait p a)
  | _ => .error .reservedMajor

/-- Memory control, X major 0x22 (R52). -/
def decodeMemControl (p : Pos) (w : SlotWord) : Except Illegal Instr :=
  let a := fA w; let b := fB w
  match (fFun w).toNat with
  | 0x000 => unused w 0x03E0F800 (.acqX p a)
  | 0x001 => unused w 0x03E0F800 (.acqS p a)
  | 0x002 => unused w 0x03E0F800 (.rel p a)
  | 0x010 => unused w 0x03FFF800 (.fenceCore p)
  | 0x011 => unused w 0x03FFF800 (.fenceDev p)
  | 0x012 => unused w 0x03FFF800 (.fenceFab p)
  | 0x020 => unused w 0x03E00000 (.invro p a b)
  | 0x021 => unused w 0x03E00000 (.flushr p a b)
  | 0x030 => unused w 0x03E0F800 (.phase p a)
  | _ => .error .reservedFunction

/-- Cross-class copies, X major 0x24 (R52, R256). -/
def decodeCross (p : Pos) (w : SlotWord) : Except Illegal Instr :=
  let d := fD w; let a := fA w; let b := fB w
  match (w.extractLsb' 5 6).toNat with
  | 0x00 => unused w 0x0000F800 (.xferSv p d a (fFmt w))
  | 0x10 => unused w 0x0000F800 (.xferVs p d a (fFmt w))
  | 0x20 => .ok (.vext p d a b (fFmt w))
  | _ => .error .reservedFunction

/-- Engine control, X major 0x27 (R52). -/
def decodeEngine (p : Pos) (w : SlotWord) : Except Illegal Instr :=
  let d := fD w; let a := fA w; let ch : BitVec 2 := w.extractLsb' 0 2
  match (w.extractLsb' 4 7).toNat with
  | 0x0 => unused w 0x001FF80C (.ego p d ch)
  | 0x1 => unused w 0x0000F80C (.egoP p d a ch)
  | 0x2 => unused w 0x03FFF80C (.ecan p ch)
  | 0x3 => unused w 0x03E0F80C (.twait p a ch)
  | 0x4 => unused w 0x03E0F80C (.twaitn p a ch)
  | 0x5 => unused w 0x03FFF800 (.qfence p (w.extractLsb' 0 4))
  | 0x6 => unused w 0x03E0F80F (.pbinv p a)
  | _ => .error .reservedFunction

/-- The Flowstone group, X major 0x2A (R52). -/
def decodeFlow (p : Pos) (w : SlotWord) : Except Illegal Instr :=
  let d := fD w; let a := fA w; let b := fB w
  match (fFun w).toNat with
  | 0x000 => .ok (.rsgo p d a b)
  | 0x001 => unused w 0x0000F800 (.rsstat p d a)
  | 0x002 => unused w 0x03E0F800 (.rsstop p a)
  | 0x003 => unused w 0x03E00000 (.ckpt p a b)
  | _ => .error .reservedFunction

/-- The Rimstone group, X major 0x2B (R52, R361). -/
def decodeRim (p : Pos) (w : SlotWord) : Except Illegal Instr :=
  let d := fD w; let a := fA w; let b := fB w; let h : BitVec 3 := w.extractLsb' 8 3
  match (w.extractLsb' 0 8).toNat with
  | 0x00 => unused w 0x0000F800 (.slopen p h d a)
  | 0x01 => .ok (.slbind p h d a b)
  | 0x02 => unused w 0x03FFF800 (.sldone p h)
  | 0x03 => unused w 0x03FFF800 (.slgdone p h)
  | 0x04 => unused w 0x0000F800 (.slstat p h d a)
  | 0x05 => unused w 0x0000F800 (.sljump p h d a)
  | 0x06 => unused w 0x001FF800 (.slpfx p h d)
  | 0x07 => .ok (.slinfo p h d a b)
  | 0x08 => unused w 0x03E0F800 (.slwait p h a)
  | 0x09 => unused w 0x001FF800 (.slretire p h d)
  | 0x0A => unused w 0x001FF800 (.slrecycle p h d)
  | 0x0B => unused w 0x03E0F800 (.slrefresh p h a)
  | 0x0C => unused w 0x03FFF800 (.slclose p h)
  | _ => .error .reservedFunction

/-- Class X, slot 1 (R50, R51). -/
def decodeX (p : Pos) (w : SlotWord) : Except Illegal Instr :=
  match decodeAlu p w with
  | some r => r
  | none =>
  let d := fD w; let a := fA w; let b := fB w
  let rpol : BitVec 3 := w.extractLsb' 8 3
  match fMajor w with
  | 0x10 => .ok (.ldB p d a (fPol w) (fOff w))
  | 0x11 => .ok (.ldH p d a (fPol w) (fOff w))
  | 0x12 => .ok (.ldW p d a (fPol w) (fOff w))
  | 0x13 => .ok (.ldD p d a (fPol w) (fOff w))
  | 0x14 => .ok (.ldBN p d a (fPol w) (fOff w))
  | 0x15 => .ok (.ldHN p d a (fPol w) (fOff w))
  | 0x16 => .ok (.ldWN p d a (fPol w) (fOff w))
  | 0x17 => .ok (.stB p d a (fPol w) (fOff w))
  | 0x18 => .ok (.stH p d a (fPol w) (fOff w))
  | 0x19 => .ok (.stW p d a (fPol w) (fOff w))
  | 0x1A => .ok (.stD p d a (fPol w) (fOff w))
  | 0x1B => .ok (.ldv p d a (fPol w) (fOff w))
  | 0x1C => .ok (.stv p d a (fPol w) (fOff w))
  | 0x1D => unused w 0x000000FF (.ldq p d a b rpol)
  | 0x1E => unused w 0x000000FF (.stq p d a b rpol)
  | 0x1F => unused w 0x00000003 (.vgth p d a b rpol (w.extractLsb' 4 4) (w.extractLsb' 2 2))
  | 0x20 => unused w 0x00000003 (.vsct p d a b rpol (w.extractLsb' 4 4) (w.extractLsb' 2 2))
  | 0x21 => unused w 0x0000001F (.amo p d a b (w.extractLsb' 7 4) (w.getLsbD 6) (w.getLsbD 5))
  | 0x22 => decodeMemControl p w
  | 0x23 => unused w 0x03E00000 (.pref p a (fPol w) (fOff w))
  | 0x24 => decodeCross p w
  | 0x25 => unused w 0x03E00000 (.ewr p a (fImm w))
  | 0x26 => unused w 0x001F0000 (.erd p d (fImm w))
  | 0x27 => decodeEngine p w
  | 0x28 => unused w 0x03E007FF (.bcast p a b)
  | 0x29 => unused w 0x03E0FFFF (.blatch p a)
  | 0x2A => decodeFlow p w
  | 0x2B => decodeRim p w
  | 0x2C =>
    match (fFun w).toNat with
    | 0x000 => unused w 0x0000F800 (.seedw p d a)
    | 0x001 => unused w 0x0000F800 (.seedr p d a)
    | _ => .error .reservedFunction
  | 0x2D => unused w 0x0000FFFF (.vtgr p d a)
  | 0x2E => unused w 0x001FFF00 (.pcnt p d (w.extractLsb' 0 8))
  | _ => .error .reservedMajor

/-- Class V, slot 2, and slot 3 when bit 31 is 0 (R53, R54). -/
def decodeV (p : Pos) (w : SlotWord) : Except Illegal Instr :=
  let vd := fD w; let va := fA w; let vb := fB w; let pr := fPred w; let rm := fRm w; let f := fFmt w
  match fMajor w with
  | 0x01 => .ok (.vadd p vd va vb pr rm f)
  | 0x02 => .ok (.vsub p vd va vb pr rm f)
  | 0x03 => .ok (.vmul p vd va vb pr rm f)
  | 0x04 => .ok (.vfma p vd va vb pr rm f)
  | 0x05 => .ok (.vfms p vd va vb pr rm f)
  | 0x06 => .ok (.vfnma p vd va vb pr rm f)
  | 0x07 => unused w 0x00000060 (.vmin p vd va vb pr f)
  | 0x08 => unused w 0x00000060 (.vmax p vd va vb pr f)
  | 0x09 => unused w 0x0000F800 (.vabs p vd va pr rm f)
  | 0x0A => unused w 0x0000F800 (.vneg p vd va pr rm f)
  | 0x0B => unused w 0x02000060 (.vcmpEq p (w.extractLsb' 21 4) va vb pr f)
  | 0x0C => unused w 0x02000060 (.vcmpNe p (w.extractLsb' 21 4) va vb pr f)
  | 0x0D => unused w 0x02000060 (.vcmpLt p (w.extractLsb' 21 4) va vb pr f)
  | 0x0E => unused w 0x02000060 (.vcmpGe p (w.extractLsb' 21 4) va vb pr f)
  | 0x0F => unused w 0x00000060 (.vsel p vd va vb pr f)
  | 0x10 => unused w 0x00000060 (.vand p vd va vb pr f)
  | 0x11 => unused w 0x00000060 (.vor p vd va vb pr f)
  | 0x12 => unused w 0x00000060 (.vxor p vd va vb pr f)
  | 0x14 => unused w 0x00000060 (.vshl p vd va vb pr f)
  | 0x15 => unused w 0x00000060 (.vshr p vd va vb pr f)
  | 0x16 => unused w 0x00000060 (.vsar p vd va vb pr f)
  | 0x13 => unused w 0x0000F860 (.vnot p vd va pr f)
  | 0x17 => if f = 1 then .ok (.vdot p vd va vb pr rm) else .error .reservedValue
  | 0x18 => .ok (.vli p vd va pr (w.extractLsb' 11 5 ++ w.extractLsb' 0 7))
  | 0x19 => unused w 0x0000FFFF (.vmov p vd va)
  | 0x20 => .ok (.vdiv p vd va vb pr rm f)
  | 0x21 => unused w 0x0000F800 (.vsqrt p vd va pr rm f)
  | 0x22 => unused w 0x0000F800 (.vrcp p vd va pr rm f)
  | 0x23 => unused w 0x0000F800 (.vrsq p vd va pr rm f)
  | 0x24 => unused w 0x0000F800 (.vexp2 p vd va pr rm f)
  | 0x25 => unused w 0x0000F800 (.vlog2 p vd va pr rm f)
  | 0x26 => unused w 0x0000F800 (.vtanh p vd va pr rm f)
  | 0x27 => unused w 0x0000F800 (.vsinpi p vd va pr rm f)
  | 0x28 => unused w 0x0000F800 (.vcospi p vd va pr rm f)
  | 0x29 => unused w 0x0000F800 (.vredSum p vd va pr rm f)
  | 0x2A => unused w 0x0000F860 (.vredMax p vd va pr f)
  | 0x2B => unused w 0x0000F860 (.vredMin p vd va pr f)
  | 0x2C => unused w 0x0000F860 (.vmaxi p vd va pr f)
  | 0x2D => unused w 0x0000001F (.vshuf p vd va vb (w.extractLsb' 5 6))
  | 0x2E => unused w 0x03E0001F (.vpld p va vb (w.extractLsb' 5 6))
  | 0x2F => unused w 0x03FFFFFF (.vpsw p)
  | 0x30 => .ok (.vcvt p vd va vb pr rm f)
  | 0x31 => unused w 0x00000020
      (.vnr p vd va (w.extractLsb' 14 2) (w.extractLsb' 12 2) (w.getLsbD 11) (w.getLsbD 6) pr f)
  | 0x32 => unused w 0x00000820 (.vwd p vd va (w.extractLsb' 14 2) (w.extractLsb' 12 2) (w.getLsbD 6) pr f)
  | 0x33 => if w.getLsbD 6 then unused w 0x0000C820 (.vrot p vd va (w.extractLsb' 12 2) pr f)
      else .error .reservedValue
  | 0x34 => unused w 0x00000860 (.vtag p vd va (w.extractLsb' 14 2) (w.extractLsb' 12 2) pr f)
  | 0x36 => unused w 0x021087FF (.pand p (w.extractLsb' 21 4) (w.extractLsb' 16 4) (w.extractLsb' 11 4))
  | 0x37 => unused w 0x021087FF (.por p (w.extractLsb' 21 4) (w.extractLsb' 16 4) (w.extractLsb' 11 4))
  | 0x38 => unused w 0x021087FF (.pxor p (w.extractLsb' 21 4) (w.extractLsb' 16 4) (w.extractLsb' 11 4))
  | 0x39 => unused w 0x0210FFFF (.pnot p (w.extractLsb' 21 4) (w.extractLsb' 16 4))
  | 0x3A => unused w 0x0210FFFF (.pfirst p (w.extractLsb' 21 4) (w.extractLsb' 16 4))
  | 0x3B => unused w 0x021F0780 (.pset p (w.extractLsb' 21 4) (w.extractLsb' 11 5 ++ w.extractLsb' 0 7))
  | _ => .error .reservedMajor

/-- Class M, slot 3 when bit 31 is 1 (R55); the beat fields are those of the tables of spec/15. -/
def decodeM (p : Pos) (w : SlotWord) : Except Illegal Instr :=
  match fMajor w with
  | 0x21 => unused w 0x000000E0 (.mload p (w.extractLsb' 24 2) (w.getLsbD 23) (w.getLsbD 22) (w.extractLsb' 14 8)
      (w.getLsbD 13) (w.extractLsb' 8 5) (fFmt w))
  | 0x22 => unused w 0x0000003F (.mfeed p (w.extractLsb' 24 2) (w.extractLsb' 21 3) (w.extractLsb' 14 7) (w.getLsbD 13)
      (w.getLsbD 12) (w.getLsbD 11) (w.extractLsb' 6 5))
  | 0x23 => unused w 0x00000020 (.mdrain p (fD w) (w.extractLsb' 18 3) (w.extractLsb' 11 7) (w.extractLsb' 9 2)
      (w.getLsbD 8) (w.extractLsb' 6 2) (fFmt w))
  | 0x24 => unused w 0x000001E0 (.mfill p (fD w) (w.extractLsb' 18 3) (w.extractLsb' 11 7) (w.extractLsb' 9 2) (fFmt w))
  | 0x25 => unused w 0x0000007F (.mzero p (w.extractLsb' 23 3) (w.extractLsb' 16 7) (w.extractLsb' 8 8) (w.getLsbD 7))
  | 0x26 => unused w 0x000000FF (.mset p (fD w) (fA w) (w.extractLsb' 14 2) (w.getLsbD 13) (w.extractLsb' 8 5))
  | _ => .error .reservedMajor

/-- The position of slot `k` with the byte lent to it (R25). -/
def Pos.lent (k : BitVec 2) (hdr : Bool) (lend : Byte) : Pos :=
  ⟨k, hdr, lend.getLsbD 7, lend.getLsbD 6, lend.getLsbD 5, lend.extractLsb' 0 5⟩

/-- Decode the word of slot `k` through the table of its position (R20), with what the header lends it. -/
def decodeSlot (k : BitVec 2) (hdr : Bool) (lend : Byte) (w : SlotWord) : Except Illegal Instr :=
  let p := Pos.lent k hdr lend
  let r := match k.toNat with
    | 0 => decodeC p w
    | 1 => decodeX p w
    | 2 => decodeV p w
    | _ => if w.getLsbD 31 then decodeM p w else decodeV p w
  match r with
  | .ok i => if i.wellFormed then .ok i else .error .reservedValue
  | .error e => .error e

/-- What one slot of a bundle holds. -/
inductive Slot where
  | nop
  | op (i : Instr)
  | bad (e : Illegal)
  deriving DecidableEq, Repr

/-- A slot's content: the all-zero word is the NOP of its position, to which nothing may be lent (R21). -/
def decodeSlotOrNop (k : BitVec 2) (hdr : Bool) (lend : Byte) (w : SlotWord) : Slot :=
  if w = 0 then (if lend = 0 then .nop else .bad .reservedValue)
  else match decodeSlot k hdr lend w with
    | .ok i => .op i
    | .error e => .bad e

/-- A decoded bundle: its four slots, and whether slot 0 is a header (R19, R24). -/
structure Bundle where
  s0 : Slot
  s1 : Slot
  s2 : Slot
  s3 : Slot
  deriving DecidableEq, Repr

/-- Decode the four slot words of a bundle. A header with a nonzero reserved field is illegal in slot 0 (R24). -/
def decodeBundle (w0 w1 w2 w3 : SlotWord) : Bundle :=
  if fMajor w0 = 0x3F then
    ⟨if w0 &&& 0x03000000 = 0 then .nop else .bad .reservedField,
     decodeSlotOrNop 1 true (w0.extractLsb' 0 8) w1, decodeSlotOrNop 2 true (w0.extractLsb' 8 8) w2,
     decodeSlotOrNop 3 true (w0.extractLsb' 16 8) w3⟩
  else
    ⟨decodeSlotOrNop 0 false 0 w0, decodeSlotOrNop 1 false 0 w1, decodeSlotOrNop 2 false 0 w2,
     decodeSlotOrNop 3 false 0 w3⟩

/-- Little-endian words from bytes (R2). -/
def wordOfBytes (bs : List Byte) : SlotWord := BitVec.ofNat 32 (bs.foldr (fun b acc => b.toNat + 256 * acc) 0)

/-- Decode sixteen bytes, the first at the lowest address. -/
def decodeBytes (bs : List Byte) : Bundle :=
  decodeBundle (wordOfBytes (bs.take 4)) (wordOfBytes ((bs.drop 4).take 4)) (wordOfBytes ((bs.drop 8).take 4))
    (wordOfBytes ((bs.drop 12).take 4))

/-- The operation that a table word holds: the first slot position, in the order C, X, V, M, whose table assigns it
(log 11, DESIGN CHOICE: a word alone does not name its position). -/
def decodeTableWord (nbits w : Nat) : Option Instr :=
  if nbits ≤ 32 then
    let sw := BitVec.ofNat 32 w
    match decodeSlot 0 false 0 sw, decodeSlot 1 false 0 sw, decodeSlot 2 false 0 sw, decodeSlot 3 false 0 sw with
    | .ok i, _, _, _ => some i
    | _, .ok i, _, _ => some i
    | _, _, .ok i, _ => some i
    | _, _, _, .ok i => some i
    | _, _, _, _ => none
  else none

/-! ## Encoding -/

/-- The byte a header lends to an operation (R25). -/
def encodeLend (p : Pos) : Byte := BitVec.ofBool p.wbs ++ BitVec.ofBool p.bypA ++ BitVec.ofBool p.bypB ++ p.ext

/-- The R form (R22). -/
def packR (maj : BitVec 6) (d a b : BitVec 5) (fn : BitVec 11) : SlotWord := maj ++ d ++ a ++ b ++ fn
/-- The I form. -/
def packI (maj : BitVec 6) (d a : BitVec 5) (imm : BitVec 16) : SlotWord := maj ++ d ++ a ++ imm
/-- The A form. -/
def packA (maj : BitVec 6) (d base : BitVec 5) (pol : BitVec 3) (off : BitVec 13) : SlotWord :=
  maj ++ d ++ base ++ pol ++ off
/-- The B form. -/
def packB (maj : BitVec 6) (a b : BitVec 5) (cc : BitVec 3) (an : BitVec 2) (disp : BitVec 11) : SlotWord :=
  maj ++ a ++ b ++ cc ++ an ++ disp
/-- The V form. -/
def packV (maj : BitVec 6) (vd va vb : BitVec 5) (pr : BitVec 4) (rm : BitVec 2) (f : BitVec 5) : SlotWord :=
  maj ++ vd ++ va ++ vb ++ pr ++ rm ++ f
/-- The VI form. -/
def packVI (maj : BitVec 6) (vd va : BitVec 5) (pr : BitVec 4) (imm : BitVec 12) : SlotWord :=
  maj ++ vd ++ va ++ imm.extractLsb' 7 5 ++ pr ++ imm.extractLsb' 0 7
/-- The VH and VT layouts (R54). -/
def packH (maj : BitVec 6) (vd va : BitVec 5) (x y : BitVec 2) (g : Bool) (seed : BitVec 4) (r : Bool) (f : BitVec 5) :
    SlotWord :=
  maj ++ vd ++ va ++ x ++ y ++ BitVec.ofBool g ++ seed ++ BitVec.ofBool r ++ (0 : BitVec 1) ++ f
/-- A predicate operation: four-bit register numbers with a reserved top bit (R53). -/
def packP (maj : BitVec 6) (pd pa pb : BitVec 4) : SlotWord :=
  maj ++ (0 : BitVec 1) ++ pd ++ (0 : BitVec 1) ++ pa ++ (0 : BitVec 1) ++ pb ++ (0 : BitVec 11)

/-- The word of an encoded instruction, by the tables of spec/03; the events have no word. -/
def encode : Instr → SlotWord
  | .add _ d a b => packR 0x01 d a b 0x000
  | .sub _ d a b => packR 0x01 d a b 0x001
  | .and _ d a b => packR 0x01 d a b 0x002
  | .or _ d a b => packR 0x01 d a b 0x003
  | .xor _ d a b => packR 0x01 d a b 0x004
  | .andn _ d a b => packR 0x01 d a b 0x005
  | .shl _ d a b => packR 0x01 d a b 0x006
  | .shr _ d a b => packR 0x01 d a b 0x007
  | .sar _ d a b => packR 0x01 d a b 0x008
  | .min _ d a b => packR 0x01 d a b 0x009
  | .max _ d a b => packR 0x01 d a b 0x00A
  | .minn _ d a b => packR 0x01 d a b 0x00B
  | .maxn _ d a b => packR 0x01 d a b 0x00C
  | .sel _ d a b => packR 0x01 d a b 0x00D
  | .mul _ d a b => packR 0x01 d a b 0x020
  | .mulh _ d a b => packR 0x01 d a b 0x021
  | .mulhn _ d a b => packR 0x01 d a b 0x022
  | .div _ d a b => packR 0x01 d a b 0x024
  | .divn _ d a b => packR 0x01 d a b 0x025
  | .rem _ d a b => packR 0x01 d a b 0x026
  | .remn _ d a b => packR 0x01 d a b 0x027
  | .addSat _ d a b => packR 0x01 d a b 0x040
  | .subSat _ d a b => packR 0x01 d a b 0x041
  | .slt _ cc d a b => packR 0x01 d a b ((0x02 : BitVec 8) ++ cc)
  | .clz _ d a => packR 0x01 d a 0 0x030
  | .ctz _ d a => packR 0x01 d a 0 0x031
  | .popc _ d a => packR 0x01 d a 0 0x032
  | .addI _ d a imm => packI 0x02 d a imm
  | .andI _ d a imm => packI 0x03 d a imm
  | .orI _ d a imm => packI 0x05 d a imm
  | .xorI _ d a imm => packI 0x06 d a imm
  | .minI _ d a imm => packI 0x0A d a imm
  | .maxI _ d a imm => packI 0x0B d a imm
  | .mulI _ d a imm => packI 0x0C d a imm
  | .lih _ d a imm => packI 0x0D d a imm
  | .shlI _ d a sh => packI 0x07 d a ((0 : BitVec 10) ++ sh)
  | .shrI _ d a sh => packI 0x08 d a ((0 : BitVec 10) ++ sh)
  | .sarI _ d a sh => packI 0x09 d a ((0 : BitVec 10) ++ sh)
  | .bfx _ d a len pos => packI 0x0E d a ((0 : BitVec 4) ++ len ++ pos)
  | .bfi _ d a len pos => packI 0x0F d a ((0 : BitVec 4) ++ len ++ pos)
  | .br _ a b cc an disp => packB 0x04 a b cc an disp
  | .brp _ pr cc an disp => packB 0x14 pr 0 cc an disp
  | .brl _ an disp => packB 0x15 0 0 0 an disp
  | .loop _ a b => packR 0x16 0 a b 0
  | .j _ disp => (0x17 : BitVec 6) ++ disp
  | .call _ fr disp => (0x18 : BitVec 6) ++ fr ++ disp
  | .callr _ a fr => packR 0x19 0 a 0 ((0 : BitVec 6) ++ fr)
  | .jr _ a => packR 0x1A 0 a 0 0
  | .ret _ fr => (0x1B : BitVec 6) ++ fr ++ (0 : BitVec 21)
  | .yield _ n => packI 0x1C 0 0 n
  | .endTask _ => packI 0x1D 0 0 0
  | .trap _ c => packI 0x1E 0 0 c
  | .eret _ => packI 0x1F 0 0 0
  | .modeI _ => packR 0x20 0 0 0 0x001
  | .modeE _ => packR 0x20 0 0 0 0x002
  | .srr _ d r => packI 0x21 d 0 ((0 : BitVec 4) ++ r)
  | .srw _ a r => packI 0x22 0 a ((0 : BitVec 4) ++ r)
  | .srs _ a r => packI 0x23 0 a ((0 : BitVec 4) ++ r)
  | .src _ a r => packI 0x24 0 a ((0 : BitVec 4) ++ r)
  | .waitf _ f n => packI 0x25 0 f n
  | .postf _ f n => packI 0x26 0 f n
  | .postr _ f a n => packI 0x27 f a n
  | .ftest _ d f n => packI 0x28 d f n
  | .gnew _ d a => packR 0x29 d a 0 0
  | .join _ a => packR 0x2A 0 a 0 0
  | .leave _ a => packR 0x2B 0 a 0 0
  | .barw _ a => packR 0x2C 0 a 0 0
  | .bara _ a => packR 0x2D 0 a 0 0
  | .barg _ d a => packR 0x2E d a 0 0
  | .step _ a => packR 0x2F 0 a 0 0
  | .monitor _ a => packR 0x30 0 a 0 0
  | .mwait _ a => packR 0x31 0 a 0 0
  | .ldB _ d base pol off => packA 0x10 d base pol off
  | .ldH _ d base pol off => packA 0x11 d base pol off
  | .ldW _ d base pol off => packA 0x12 d base pol off
  | .ldD _ d base pol off => packA 0x13 d base pol off
  | .ldBN _ d base pol off => packA 0x14 d base pol off
  | .ldHN _ d base pol off => packA 0x15 d base pol off
  | .ldWN _ d base pol off => packA 0x16 d base pol off
  | .stB _ d base pol off => packA 0x17 d base pol off
  | .stH _ d base pol off => packA 0x18 d base pol off
  | .stW _ d base pol off => packA 0x19 d base pol off
  | .stD _ d base pol off => packA 0x1A d base pol off
  | .ldv _ d base pol off => packA 0x1B d base pol off
  | .stv _ d base pol off => packA 0x1C d base pol off
  | .ldq _ d a b pol => packR 0x1D d a b (pol ++ (0 : BitVec 8))
  | .stq _ d a b pol => packR 0x1E d a b (pol ++ (0 : BitVec 8))
  | .vgth _ d a b pol pr sz => packR 0x1F d a b (pol ++ pr ++ sz ++ (0 : BitVec 2))
  | .vsct _ d a b pol pr sz => packR 0x20 d a b (pol ++ pr ++ sz ++ (0 : BitVec 2))
  | .amo _ d a b op dw far => packR 0x21 d a b (op ++ BitVec.ofBool dw ++ BitVec.ofBool far ++ (0 : BitVec 5))
  | .acqX _ a => packR 0x22 0 a 0 0x000
  | .acqS _ a => packR 0x22 0 a 0 0x001
  | .rel _ a => packR 0x22 0 a 0 0x002
  | .fenceCore _ => packR 0x22 0 0 0 0x010
  | .fenceDev _ => packR 0x22 0 0 0 0x011
  | .fenceFab _ => packR 0x22 0 0 0 0x012
  | .invro _ a b => packR 0x22 0 a b 0x020
  | .flushr _ a b => packR 0x22 0 a b 0x021
  | .phase _ a => packR 0x22 0 a 0 0x030
  | .pref _ base pol off => packA 0x23 0 base pol off
  | .xferSv _ d a l => packR 0x24 d a 0 ((0x00 : BitVec 6) ++ l)
  | .xferVs _ d a l => packR 0x24 d a 0 ((0x10 : BitVec 6) ++ l)
  | .vext _ d a b f => packR 0x24 d a b ((0x20 : BitVec 6) ++ f)
  | .ewr _ a r => packI 0x25 0 a r
  | .erd _ d r => packI 0x26 d 0 r
  | .ego _ d ch => packR 0x27 d 0 0 ((0x00 : BitVec 9) ++ ch)
  | .egoP _ d a ch => packR 0x27 d a 0 ((0x04 : BitVec 9) ++ ch)
  | .ecan _ ch => packR 0x27 0 0 0 ((0x08 : BitVec 9) ++ ch)
  | .twait _ a ch => packR 0x27 0 a 0 ((0x0C : BitVec 9) ++ ch)
  | .twaitn _ a ch => packR 0x27 0 a 0 ((0x10 : BitVec 9) ++ ch)
  | .qfence _ m => packR 0x27 0 0 0 ((0x05 : BitVec 7) ++ m)
  | .pbinv _ a => packR 0x27 0 a 0 0x060
  | .bcast _ a b => packR 0x28 0 a b 0
  | .blatch _ a => packR 0x29 0 a 0 0
  | .rsgo _ d a b => packR 0x2A d a b 0x000
  | .rsstat _ d a => packR 0x2A d a 0 0x001
  | .rsstop _ a => packR 0x2A 0 a 0 0x002
  | .ckpt _ a b => packR 0x2A 0 a b 0x003
  | .slopen _ h d a => packR 0x2B d a 0 (h ++ (0x00 : BitVec 8))
  | .slbind _ h d a b => packR 0x2B d a b (h ++ (0x01 : BitVec 8))
  | .sldone _ h => packR 0x2B 0 0 0 (h ++ (0x02 : BitVec 8))
  | .slgdone _ h => packR 0x2B 0 0 0 (h ++ (0x03 : BitVec 8))
  | .slstat _ h d a => packR 0x2B d a 0 (h ++ (0x04 : BitVec 8))
  | .sljump _ h d a => packR 0x2B d a 0 (h ++ (0x05 : BitVec 8))
  | .slpfx _ h d => packR 0x2B d 0 0 (h ++ (0x06 : BitVec 8))
  | .slinfo _ h d a b => packR 0x2B d a b (h ++ (0x07 : BitVec 8))
  | .slwait _ h a => packR 0x2B 0 a 0 (h ++ (0x08 : BitVec 8))
  | .slretire _ h d => packR 0x2B d 0 0 (h ++ (0x09 : BitVec 8))
  | .slrecycle _ h d => packR 0x2B d 0 0 (h ++ (0x0A : BitVec 8))
  | .slrefresh _ h a => packR 0x2B 0 a 0 (h ++ (0x0B : BitVec 8))
  | .slclose _ h => packR 0x2B 0 0 0 (h ++ (0x0C : BitVec 8))
  | .seedw _ k a => packR 0x2C k a 0 0x000
  | .seedr _ d k => packR 0x2C d k 0 0x001
  | .vtgr _ d a => packR 0x2D d a 0 0
  | .pcnt _ d n => packI 0x2E d 0 ((0 : BitVec 8) ++ n)
  | .vadd _ vd va vb pr rm f => packV 0x01 vd va vb pr rm f
  | .vsub _ vd va vb pr rm f => packV 0x02 vd va vb pr rm f
  | .vmul _ vd va vb pr rm f => packV 0x03 vd va vb pr rm f
  | .vfma _ vd va vb pr rm f => packV 0x04 vd va vb pr rm f
  | .vfms _ vd va vb pr rm f => packV 0x05 vd va vb pr rm f
  | .vfnma _ vd va vb pr rm f => packV 0x06 vd va vb pr rm f
  | .vdiv _ vd va vb pr rm f => packV 0x20 vd va vb pr rm f
  | .vmin _ vd va vb pr f => packV 0x07 vd va vb pr 0 f
  | .vmax _ vd va vb pr f => packV 0x08 vd va vb pr 0 f
  | .vsel _ vd va vb pr f => packV 0x0F vd va vb pr 0 f
  | .vand _ vd va vb pr f => packV 0x10 vd va vb pr 0 f
  | .vor _ vd va vb pr f => packV 0x11 vd va vb pr 0 f
  | .vxor _ vd va vb pr f => packV 0x12 vd va vb pr 0 f
  | .vshl _ vd va vb pr f => packV 0x14 vd va vb pr 0 f
  | .vshr _ vd va vb pr f => packV 0x15 vd va vb pr 0 f
  | .vsar _ vd va vb pr f => packV 0x16 vd va vb pr 0 f
  | .vabs _ vd va pr rm f => packV 0x09 vd va 0 pr rm f
  | .vneg _ vd va pr rm f => packV 0x0A vd va 0 pr rm f
  | .vsqrt _ vd va pr rm f => packV 0x21 vd va 0 pr rm f
  | .vrcp _ vd va pr rm f => packV 0x22 vd va 0 pr rm f
  | .vrsq _ vd va pr rm f => packV 0x23 vd va 0 pr rm f
  | .vexp2 _ vd va pr rm f => packV 0x24 vd va 0 pr rm f
  | .vlog2 _ vd va pr rm f => packV 0x25 vd va 0 pr rm f
  | .vtanh _ vd va pr rm f => packV 0x26 vd va 0 pr rm f
  | .vsinpi _ vd va pr rm f => packV 0x27 vd va 0 pr rm f
  | .vcospi _ vd va pr rm f => packV 0x28 vd va 0 pr rm f
  | .vredSum _ vd va pr rm f => packV 0x29 vd va 0 pr rm f
  | .vcmpEq _ pd va vb pr f => packV 0x0B ((0 : BitVec 1) ++ pd) va vb pr 0 f
  | .vcmpNe _ pd va vb pr f => packV 0x0C ((0 : BitVec 1) ++ pd) va vb pr 0 f
  | .vcmpLt _ pd va vb pr f => packV 0x0D ((0 : BitVec 1) ++ pd) va vb pr 0 f
  | .vcmpGe _ pd va vb pr f => packV 0x0E ((0 : BitVec 1) ++ pd) va vb pr 0 f
  | .vnot _ vd va pr f => packV 0x13 vd va 0 pr 0 f
  | .vredMax _ vd va pr f => packV 0x2A vd va 0 pr 0 f
  | .vredMin _ vd va pr f => packV 0x2B vd va 0 pr 0 f
  | .vmaxi _ vd va pr f => packV 0x2C vd va 0 pr 0 f
  | .vdot _ vd va vb pr rm => packV 0x17 vd va vb pr rm 1
  | .vli _ vd f pr imm => packVI 0x18 vd f pr imm
  | .vmov _ vd va => packV 0x19 vd va 0 0 0 0
  | .vshuf _ vd va vb e => packR 0x2D vd va vb (e ++ (0 : BitVec 5))
  | .vpld _ va vb e => packR 0x2E 0 va vb (e ++ (0 : BitVec 5))
  | .vpsw _ => packR 0x2F 0 0 0 0
  | .vcvt _ vd va sf pr rm f => packV 0x30 vd va sf pr rm f
  | .vnr _ vd va run block g r seed f => packH 0x31 vd va run block g seed r f
  | .vwd _ vd va run block r seed f => packH 0x32 vd va run block false seed r f
  | .vrot _ vd va block seed f => packH 0x33 vd va 0 block false seed true f
  | .vtag _ vd va rot grp seed f => packH 0x34 vd va rot grp false seed false f
  | .pand _ pd pa pb => packP 0x36 pd pa pb
  | .por _ pd pa pb => packP 0x37 pd pa pb
  | .pxor _ pd pa pb => packP 0x38 pd pa pb
  | .pnot _ pd pa => packP 0x39 pd pa 0
  | .pfirst _ pd pa => packP 0x3A pd pa 0
  | .pset _ pd imm => packVI 0x3B ((0 : BitVec 1) ++ pd) 0 0 imm
  | .mset _ fa fb g z r => (0x26 : BitVec 6) ++ fa ++ fb ++ g ++ BitVec.ofBool z ++ r ++ (0 : BitVec 8)
  | .mload _ l s m row h r f => (0x21 : BitVec 6) ++ l ++ BitVec.ofBool s ++ BitVec.ofBool m ++ row ++ BitVec.ofBool h
      ++ r ++ (0 : BitVec 3) ++ f
  | .mfeed _ l t row o s h r => (0x22 : BitVec 6) ++ l ++ t ++ row ++ BitVec.ofBool o ++ BitVec.ofBool s
      ++ BitVec.ofBool h ++ r ++ (0 : BitVec 6)
  | .mdrain _ vd t row seg z rm f => (0x23 : BitVec 6) ++ vd ++ t ++ row ++ seg ++ BitVec.ofBool z ++ rm
      ++ (0 : BitVec 1) ++ f
  | .mfill _ va t row seg f => (0x24 : BitVec 6) ++ va ++ t ++ row ++ seg ++ (0 : BitVec 4) ++ f
  | .mzero _ t row cnt c => (0x25 : BitVec 6) ++ t ++ row ++ cnt ++ BitVec.ofBool c ++ (0 : BitVec 7)
  | _ => 0

/-- The sixteen bytes of a bundle of four words (R2, R19). -/
def bundleBytes (w0 w1 w2 w3 : SlotWord) : List Byte :=
  [w0, w1, w2, w3].flatMap (fun w => [w.extractLsb' 0 8, w.extractLsb' 8 8, w.extractLsb' 16 8, w.extractLsb' 24 8])

/-- The four words of a bundle that holds `i` alone in its slot, with a header when something is lent (R24). -/
def bundleOf (i : Instr) : Option (List Byte) :=
  match i.shape with
  | none => none
  | some (p, _) =>
    let w := encode i
    let lend := encodeLend p
    let h := fun (l3 l2 l1 : Byte) => if p.hdr then (0x3F : BitVec 6) ++ (0 : BitVec 2) ++ l3 ++ l2 ++ l1 else 0
    some (match p.slot.toNat with
      | 0 => bundleBytes w 0 0 0
      | 1 => bundleBytes (h 0 0 lend) w 0 0
      | 2 => bundleBytes (h 0 lend 0) 0 w 0
      | _ => bundleBytes (h lend 0 0) 0 0 w)

end Sys2Proof
end

