-- ==== Sys2Proof/Machine/System.lean ====
section
/-! DEFINITION. System instructions (spec/07 R155 to R160), the state registers (spec/05 R91, R92; spec/22 R382), the random
stream (spec/22 R386) and PCNT (spec/05 R107). -/

namespace Sys2Proof.Machine

/-! ## State registers -/

/-- The `mode` register (R92). -/
def Ctx.modeWord (c : Ctx) : Word :=
  w64 ((if c.il then 1 else 0) + (if c.sv then 2 else 0) + (if c.ie then 4 else 0))

/-- mix(k, c) of R386. -/
def mix (k c : Word) : Word :=
  let x := k + c * 0x9E3779B97F4A7C15
  let x := (x ^^^ (x >>> 30)) * 0xBF58476D1CE4E5B9
  let x := (x ^^^ (x >>> 27)) * 0x94D049BB133111EB
  x ^^^ (x >>> 31)

/-- The value of a state register that the context alone holds (R91, R382). -/
def Ctx.sreg (c : Ctx) (n : Nat) : Word :=
  match n with
  | 0x000 => c.modeWord
  | 0x001 => w64 c.fpflags.toNat
  | 0x002 => w64 c.fptrap.toNat
  | 0x003 => c.lc
  | 0x004 => c.ec
  | 0x005 => w64 c.vrb.toNat
  | 0x006 => c.wsp
  | 0x007 => w64 c.wbase
  | 0x010 => w64 c.tileX.toNat
  | 0x011 => w64 c.tileY.toNat
  | 0x012 => w64 c.tileZ.toNat
  | 0x013 => w64 c.core
  | 0x014 => w64 c.slot
  | 0x015 => w64 c.agency
  | 0x016 => w64 (c.launch % 2 ^ 32)
  | 0x017 => w64 c.alloc.toNat
  | 0x018 => c.dbase
  | 0x019 => c.budget
  | 0x01A => c.bleft
  | 0x020 => c.epcq0
  | 0x021 => c.epcq1
  | 0x022 => c.epcq2
  | 0x023 => c.tcause
  | 0x024 => w64 c.tmask.toNat
  | 0x025 => c.taddr
  | 0x026 => c.tdetail
  | 0x027 => c.tvec
  | 0x028 => c.ssave
  | 0x029 => c.bkpt0
  | 0x02A => c.bkpt1
  | 0x02B => w64 c.ienable.toNat
  | 0x02C => w64 c.ipend.toNat
  | 0x030 => c.cqsrc
  | 0x032 => c.rkey
  | 0x033 => c.rctr
  | 0x034 => mix c.rkey c.rctr
  | _ => 0

/-- The value of a state register; `cqlen` counts the words in the chamber's queue (R382). -/
def State.sreg (s : State) (n : Nat) : Word :=
  if n = 0x031 then w64 (s.queue (chamberOf s.ctx.core)).items.length else s.ctx.sreg n

/-- Whether a register is supervisor only: its task column is a dash (R91). -/
def sregSuper (n : Nat) : Bool :=
  (decide (0x020 ≤ n) && decide (n ≤ 0x026)) || (decide (0x028 ≤ n) && decide (n ≤ 0x02B))

/-- Whether a write by SRW, SRS or SRC is kept (R91, R382). -/
def sregWritten (sv : Bool) (n : Nat) : Bool :=
  decide (n ≤ 6) || n == 0x032 || n == 0x033
  || (sv && (n == 0x019 || (decide (0x020 ≤ n) && decide (n ≤ 0x02B))))

/-- Whether a number is assigned on the context's core (R91, R382). -/
def Ctx.sregAssigned (c : Ctx) (n : Nat) : Bool := if c.companion then sregCompanion n else sregChamber n

/-- The checks of a state register instruction: an unassigned number is an illegal opcode, a supervisor register and a
write of `mode` in task mode are privilege traps (R91, R160). -/
def sregCheck (word : SlotWord) (write : Bool) (n : Nat) : M Unit := do
  let c ← getCtx
  trapIf (!c.sregAssigned n) cIllegal 0 (w64 word.toNat)
  trapIf (!c.sv && (sregSuper n || (write && n == 0))) cPrivilege 0 (w64 n)

/-- Wait until every result issued before has landed (R159). MODE does not wait for a slide of the window or a BRL update: they
take effect with the target, for the third bundle after their own (R137, R153, log 102, DEDUCED). -/
def landedAll (k : WaitKind) : M Unit := fun s =>
  let done := fun (r : Res) => k != .eret && r.steers
  if s.ctx.infl.all done && (s.ctx.replayU.isNone || s.ctx.snap.all (fun e => done e.res)) then .ok ((), s) else .error (.wait k)

/-- A write of a state register with a value computed at issue; one that changes `mode.il` waits as MODE does. -/
def sregWrite (p : Pos) (n : Nat) (v : Word) : M Unit := do
  let c ← getCtx
  (if n = 0 ∧ !c.companion ∧ bitAt v 0 != c.il then landedAll .modeWait else pure ())
  (if sregWritten c.sv n then pushState p 1 (.sreg n) (.word v) else pure ())

/-- The value that SRR reads. -/
def sregRead (n : Nat) : M Word := fun s =>
  let v := s.sreg n
  .ok (v, if n = 0x034 then { s with ctx := { s.ctx with rctr := s.ctx.rctr + 1 } } else s)

def execSrr (p : Pos) (d : BitVec 5) (r : BitVec 12) (s : State) : Out :=
  finish p (do
    sregCheck (encode (.srr p d r)) false r.toNat
    let v ← sregRead r.toNat
    writeS p 1 d v) s

/-- SRW, SRS and SRC: `f` gives the new value from the old one and the operand. -/
def srwM (p : Pos) (word : SlotWord) (a : BitVec 5) (r : BitVec 12) (f : Word → Word → Word) : M Unit := do
  sregCheck word true r.toNat
  let x ← readS p 1 p.bypA a
  fun s => sregWrite p r.toNat (f (s.sreg r.toNat) x) s

def execSrw (p : Pos) (a : BitVec 5) (r : BitVec 12) (s : State) : Out :=
  finish p (srwM p (encode (.srw p a r)) a r (fun _ x => x)) s
def execSrs (p : Pos) (a : BitVec 5) (r : BitVec 12) (s : State) : Out :=
  finish p (srwM p (encode (.srs p a r)) a r (fun o x => o ||| x)) s
def execSrc (p : Pos) (a : BitVec 5) (r : BitVec 12) (s : State) : Out :=
  finish p (srwM p (encode (.src p a r)) a r (fun o x => o &&& ~~~x)) s

/-- RND_READ (R382): an SRR of `rnd` into scalar d by the focus context. -/
def execRndRead (d : BitVec 5) (s : State) : Out :=
  finish (Pos.plain 0) (do
    let v ← sregRead 0x034
    writeS (Pos.plain 0) 1 d v) s

/-! ## Control -/

/-- YIELD (R155): the bundle is a yield point; n states the context's run in units of 64 cycles (R412). -/
def execYield (p : Pos) (n : BitVec 16) (s : State) : Out :=
  finish p (modCtx (fun c => { c with run := some (64 * n.toNat), steer := { c.steer with yield := true } })) s

/-- END (R156): no later bundle issues. -/
def execEndTask (p : Pos) (s : State) : Out :=
  finish p (modCtx (fun c => { c with steer := { c.steer with ends := true } })) s

/-- TRAP (R157). -/
def execTrap (p : Pos) (code : BitVec 16) (s : State) : Out :=
  finish p (trapM cTrap 0 (w64 code.toNat)) s

/-- ERET (R98, R158). -/
def execEret (p : Pos) (s : State) : Out :=
  finish p (do
    let c ← getCtx
    trapIf (!c.sv) cPrivilege 0 0xFFF
    landedAll .eret
    modCtx Ctx.eret) s

/-- MODE (R159): on a companion core it changes nothing (R379). -/
def modeM (p : Pos) (il : Bool) : M Unit := do
  let c ← getCtx
  (if c.companion then pure ()
   else do
    landedAll .modeWait
    pushState p 1 (.sreg 0) (.word (w64 ((if il then 1 else 0) + (if c.ie then 4 else 0)))))

def execModeI (p : Pos) (s : State) : Out := finish p (modeM p true) s
def execModeE (p : Pos) (s : State) : Out := finish p (modeM p false) s

/-! ## PCNT -/

/-- PCNT (R107): counter n up to the end of the cycle before. -/
def execPcnt (p : Pos) (d : BitVec 5) (n : BitVec 8) (s : State) : Out :=
  finish p (do
    let c ← getCtx
    writeS p 1 d (c.perf.getD n.toNat 0)) s

end Sys2Proof.Machine
end

