-- ==== Sys2Proof/Machine/Special.lean ====
section
/-! DEFINITION. The special functions of spec/13 R248 that have no exact dyadic result: each is enclosed between two
fixed-point numbers of growing precision until both ends round alike (R67). -/

namespace Sys2Proof.Machine

/-! ## Fixed-point series, in units of 2^-k -/

/-- z + z³/3 + z⁵/5 + … for z in units of 2^-k. -/
def atanhSum (k z2 : Nat) : Nat → Nat → Nat → Nat → Nat
  | 0, _, _, acc => acc
  | n + 1, pow, i, acc => if pow = 0 then acc else atanhSum k z2 n (pow * z2 / 2 ^ k) (i + 2) (acc + pow / i)

/-- atanh(z), z at most 1/3. -/
def atanhFix (k z : Nat) : Nat := atanhSum k (z * z / 2 ^ k) k z 1 0

/-- ln 2 = 2 atanh(1/3). -/
def ln2Fix (k : Nat) : Nat := 2 * atanhFix k (2 ^ k / 3)

/-- 1/q − 1/(3q³) + …: the positive and the negative terms. -/
def atanInvSum (q2 : Nat) : Nat → Nat → Nat → Bool → Nat → Nat → Nat × Nat
  | 0, _, _, _, a, b => (a, b)
  | n + 1, pow, i, plus, a, b =>
    if pow = 0 then (a, b)
    else if plus then atanInvSum q2 n (pow / q2) (i + 2) false (a + pow / i) b
    else atanInvSum q2 n (pow / q2) (i + 2) true a (b + pow / i)

/-- atan(1/q). -/
def atanInv (k q : Nat) : Nat :=
  let (a, b) := atanInvSum (q * q) k (2 ^ k / q) 1 true 0 0
  a - b

/-- π = 16 atan(1/5) − 4 atan(1/239). -/
def piFix (k : Nat) : Nat := 16 * atanInv k 5 - 4 * atanInv k 239

/-- 1 + y + y²/2 + …, y below 1. -/
def expSum (k y : Nat) : Nat → Nat → Nat → Nat → Nat
  | 0, _, _, acc => acc
  | n + 1, t, i, acc => if t = 0 then acc else expSum k y n (t * y / 2 ^ k / i) (i + 1) (acc + t)

/-- The alternating sum t − t·y²/(i(i+1)) + …: positive and negative terms. -/
def trigSum (k y2 : Nat) : Nat → Nat → Nat → Bool → Nat → Nat → Nat × Nat
  | 0, _, _, _, a, b => (a, b)
  | n + 1, t, i, plus, a, b =>
    if t = 0 then (a, b)
    else
      let t' := t * y2 / 2 ^ k / (i * (i + 1))
      if plus then trigSum k y2 n t' (i + 2) false (a + t) b else trigSum k y2 n t' (i + 2) true a (b + t)

/-- A sum of positive and negative terms. -/
def diffOf (p : Nat × Nat) : Nat := p.1 - p.2

/-! ## Rounding an enclosed value -/

/-- An enclosure of a positive value: `mid` units of 2^-k within `err` units. -/
structure Enclosed where
  mid : Nat
  err : Nat
  exp : Int
  deriving DecidableEq, Repr

/-- Round an irrational value: the first of the enclosures whose two ends round alike; the last one's lower end when
none does. -/
def FFmt.roundFirst (f : FFmt) (rm : BitVec 2) (flush neg : Bool) : List Enclosed → Nat × BitVec 5
  | [] => (f.nanCode, 0)
  | [x] => f.round rm false flush neg (x.mid - x.err) x.exp true
  | x :: t =>
    let lo := f.round rm false flush neg (x.mid - x.err) x.exp true
    let hi := f.round rm false flush neg (x.mid + x.err) x.exp true
    if lo = hi then lo else f.roundFirst rm flush neg t

/-- The precisions tried. -/
def precisions (base : Nat) : List Nat := [base + 160, base + 320, base + 640]

/-! ## 2^x -/

/-- 2^r for 0 ≤ r < 1, r = m / 2^s, in units of 2^-k. -/
def exp2Frac (k m s : Nat) : Nat :=
  let y := m * ln2Fix k / 2 ^ s
  expSum k y k (2 ^ k) 1 0

/-- 2^x (R248): exact at integers, otherwise rounded once. -/
def FFmt.exp2 (f : FFmt) (rm : BitVec 2) (flush : Bool) (v : FVal) : Nat × BitVec 5 :=
  match v with
  | .nan _ => (f.nanCode, v.nv)
  | .inf n => if n then (f.signed false 0, 0) else (f.infCode false, 0)
  | .num n m e =>
    if m = 0 then f.round rm false flush false 1 0 false
    else
      let top : Int := e + (bitLen m : Int)
      if 14 < top then
        (if n then f.round rm false flush false (2 ^ 100) (-20000) true
         else f.round rm false flush false (2 ^ 100) 20000 true)
      else if top ≤ -90 then
        (if n then f.round rm false flush false (2 ^ 80 - 1) (-80) true
         else f.round rm false flush false (2 ^ 80) (-80) true)
      else if 0 ≤ e then
        let x : Int := (m * 2 ^ e.toNat : Nat)
        f.round rm false flush false 1 (if n then -x else x) false
      else
        let s := (-e).toNat
        let x : Int := if n then -(m : Int) else m
        let fl := x / (2 ^ s : Nat)
        let r := (x - fl * (2 ^ s : Nat)).toNat
        if r = 0 then f.round rm false flush false 1 fl false
        else f.roundFirst rm flush false
          ((precisions 0).map (fun k => ⟨exp2Frac k r s, 2 ^ 12, fl - (k : Int)⟩))

/-! ## log2 x -/

/-- log2(x) (R248): exact at powers of two. -/
def FFmt.log2 (f : FFmt) (rm : BitVec 2) (flush : Bool) (v : FVal) : Nat × BitVec 5 :=
  match v with
  | .nan _ => (f.nanCode, v.nv)
  | .inf n => if n then (f.nanCode, fNV) else (f.infCode false, 0)
  | .num n m e =>
    if m = 0 then (f.infCode true, fDZ)
    else if n then (f.nanCode, fNV)
    else
      let b := bitLen m - 1
      let ex : Int := e + (b : Int)
      if m = 2 ^ b then f.round rm false flush (decide (ex < 0)) ex.natAbs 0 false
      else
        let enc := fun (k : Nat) =>
          -- log2(m / 2^b) = 2 atanh((m − 2^b) / (m + 2^b)) / ln 2
          let z := (m - 2 ^ b) * 2 ^ k / (m + 2 ^ b)
          let l := 2 * atanhFix k z * 2 ^ k / ln2Fix k
          let x : Int := ex * (2 ^ k : Nat) + (l : Int)
          x
        let neg := decide (ex < 0)
        f.roundFirst rm flush neg
          ((precisions 0).map (fun k => ⟨(enc k).natAbs, 2 ^ 12, -(k : Int)⟩))

/-! ## tanh x -/

/-- tanh(x) (R248). -/
def FFmt.tanh (f : FFmt) (rm : BitVec 2) (flush : Bool) (v : FVal) : Nat × BitVec 5 :=
  match v with
  | .nan _ => (f.nanCode, v.nv)
  | .inf n => f.round rm false flush n 1 0 false
  | .num n m e =>
    if m = 0 then (f.signed n 0, 0)
    else
      let top : Int := e + (bitLen m : Int)
      if 7 < top then f.round rm false flush n (2 ^ 100 - 1) (-100) true
      else if top ≤ -40 then f.round rm false flush n (m * 2 ^ 25 - 1) (e - 25) true
      else f.roundFirst rm flush n ((precisions 64).map (fun k =>
        -- t = 2x / ln 2, q = 2^-t, tanh x = (1 − q) / (1 + q)
        let x2 := if 0 ≤ e then m * 2 ^ e.toNat * 2 ^ (k + 1) else m * 2 ^ (k + 1) / 2 ^ (-e).toNat
        let t := x2 * 2 ^ k / ln2Fix k
        let i := t / 2 ^ k
        let fr := t % 2 ^ k
        let q := exp2Frac k (2 ^ k - fr) k / 2 ^ (i + 1)
        ⟨(2 ^ k - q) * 2 ^ k / (2 ^ k + q), 2 ^ 24, -(k : Int)⟩))

/-! ## sin πx and cos πx -/

/-- |x| mod 2 in units of 2^-s, for x = m · 2^e with e negative, and s = −e. -/
def mod2 (m s : Nat) : Nat := m % 2 ^ (s + 1)

/-- sin(π r) for r = a / 2^s in (0, 1/2], rounded. -/
def FFmt.sinRed (f : FFmt) (rm : BitVec 2) (flush neg : Bool) (a s : Nat) : Nat × BitVec 5 :=
  if 2 * a = 2 ^ s then f.round rm false flush neg 1 0 false
  else f.roundFirst rm flush neg ((precisions (s + 4 - bitLen a)).map (fun k =>
    let y := a * piFix k / 2 ^ s
    ⟨diffOf (trigSum k (y * y / 2 ^ k) k y 2 true 0 0), 2 ^ 12, -(k : Int)⟩))

/-- cos(π r) for r = a / 2^s in [0, 1/2), rounded. -/
def FFmt.cosRed (f : FFmt) (rm : BitVec 2) (flush neg : Bool) (a s : Nat) : Nat × BitVec 5 :=
  if a = 0 then f.round rm false flush neg 1 0 false
  else if bitLen a + 40 ≤ s then f.round rm false flush neg (2 ^ 76 - 1) (-76) true
  else f.roundFirst rm flush neg ((precisions 64).map (fun k =>
    let y := a * piFix k / 2 ^ s
    ⟨diffOf (trigSum k (y * y / 2 ^ k) k (2 ^ k) 1 true 0 0), 2 ^ 12, -(k : Int)⟩))

/-- sin πx (R248). -/
def FFmt.sinpi (f : FFmt) (rm : BitVec 2) (flush : Bool) (v : FVal) : Nat × BitVec 5 :=
  match v with
  | .nan _ => (f.nanCode, v.nv)
  | .inf _ => (f.nanCode, fNV)
  | .num n m e =>
    if m = 0 then (f.signed n 0, 0)
    else if 0 ≤ e then (f.signed n 0, 0)
    else
      let s := (-e).toNat
      let one := 2 ^ s
      let r := mod2 m s
      if r % one = 0 then (f.signed n 0, 0)
      else
        let neg := n != decide (one < r)
        let a := r % one
        let a := if one < 2 * a then one - a else a
        f.sinRed rm flush neg a s

/-- cos πx (R248). -/
def FFmt.cospi (f : FFmt) (rm : BitVec 2) (flush : Bool) (v : FVal) : Nat × BitVec 5 :=
  match v with
  | .nan _ => (f.nanCode, v.nv)
  | .inf _ => (f.nanCode, fNV)
  | .num _ m e =>
    if 0 < e then f.round rm false flush false 1 0 false
    else
      let s := (-e).toNat
      let one := 2 ^ s
      let r := mod2 m s
      -- cos π(2 − r) = cos πr, then cos π(1 − r) = −cos πr
      let r := if one < r then 2 * one - r else r
      if 2 * r = one then (f.signed false 0, 0)
      else if 2 * r < one then f.cosRed rm flush false r s
      else f.cosRed rm flush true (one - r) s

end Sys2Proof.Machine
end

