-- ==== Sys2Proof/Machine/Vector.lean ====
section
/-! DEFINITION. The vector unit (spec/13 R236 to R256): elementwise operations, compares, logic, special functions,
reductions, conversions, shuffles, predicate operations and cross-class copies. -/

namespace Sys2Proof.Machine

/-! ## The elementwise form (R236, R75, R76) -/

/-- Elements of width w in a register. -/
def laneCount (w : Nat) : Nat := 2048 / w

/-- Check every source's tag against the format read (R76). -/
def checkTags (f : BitVec 5) (rotated : Bool) : List VVal → M Unit
  | [] => pure ()
  | v :: t => do
    checkTag (fmtTag f) rotated v.tag
    checkTags f rotated t

/-- Element i of every source. -/
def lanesAt (srcs : List VVal) (w i : Nat) : List Nat := srcs.map (fun v => v.lane w i)

/-- The elements and flags of an operation; a disabled element raises nothing. -/
def mapLanes (en : BitVec 256) (w : Nat) (srcs : List VVal) (fn : List Nat → Nat × BitVec 5) :
    List (Nat × BitVec 5) :=
  (List.range (laneCount w)).map (fun i => if enabled en w i then fn (lanesAt srcs w i) else (0, 0))

/-- An elementwise operation of one format: sources checked, enabled elements computed, the tag and sidecar written
whole. -/
def elementwise (p : Pos) (lat : Nat) (d : BitVec 5) (f : BitVec 5) (pred : BitVec 4) (rotated : Bool) (srcs : List VVal)
    (fn : List Nat → Nat × BitVec 5) : M Unit := do
  let w := fmtWidth f
  checkTags f rotated srcs
  let tag ← commonTag f (srcs.map (·.tag))
  let en ← readPred pred
  let r := mapLanes en w srcs fn
  fpTrap p (r.map (·.2))
  writeV p lat d (VVal.mk' (dataOfLanes w (r.map (·.1))) tag) (elemMask en w) (orFlags (r.map (·.2)))

/-- One source. -/
def vec1 (p : Pos) (lat : Nat) (d a : BitVec 5) (f : BitVec 5) (pred : BitVec 4) (rotated : Bool)
    (fn : Bool → Nat → Nat × BitVec 5) : M Unit := do
  let x ← readV p.bypA a
  let c ← getCtx
  elementwise p lat d f pred rotated [x] (fun l => fn c.exposed (l.getD 0 0))

/-- Two sources. -/
def vec2 (p : Pos) (lat : Nat) (d a b : BitVec 5) (f : BitVec 5) (pred : BitVec 4) (rotated : Bool)
    (fn : Bool → Nat → Nat → Nat × BitVec 5) : M Unit := do
  let x ← readV p.bypA a
  let y ← readV p.bypB b
  let c ← getCtx
  elementwise p lat d f pred rotated [x, y] (fun l => fn c.exposed (l.getD 0 0) (l.getD 1 0))

/-- Two sources and the old destination (R239). -/
def vec3 (p : Pos) (lat : Nat) (d a b : BitVec 5) (f : BitVec 5) (pred : BitVec 4)
    (fn : Bool → Nat → Nat → Nat → Nat × BitVec 5) : M Unit := do
  let x ← readV p.bypA a
  let y ← readV p.bypB b
  let z ← readV false d
  let c ← getCtx
  elementwise p lat d f pred false [x, y, z] (fun l => fn c.exposed (l.getD 0 0) (l.getD 1 0) (l.getD 2 0))

/-! ## Arithmetic (R238 to R240) -/

/-- A result of a value and the flags raised on the way to it. -/
def delivered (f : BitVec 5) (rm : BitVec 2) (flush : Bool) (v : FVal × BitVec 5) : Nat × BitVec 5 :=
  let r := (ffmt f).deliver rm flush v.1
  (r.1, r.2 ||| v.2)

/-- VADD of two elements (R238). -/
def addLane (f : BitVec 5) (rm : BitVec 2) (flush : Bool) (a b : Nat) : Nat × BitVec 5 :=
  if isFloat f then
    delivered f rm flush (((ffmt f).decode flush a).add rm ((ffmt f).decode flush b))
  else (intCode f (rm == 1) (intVal f a + intVal f b), 0)

/-- VSUB of two elements. -/
def subLane (f : BitVec 5) (rm : BitVec 2) (flush : Bool) (a b : Nat) : Nat × BitVec 5 :=
  if isFloat f then
    delivered f rm flush (((ffmt f).decode flush a).add rm ((ffmt f).decode flush b).neg)
  else (intCode f (rm == 1) (intVal f a - intVal f b), 0)

/-- VMUL of two elements. -/
def mulLane (f : BitVec 5) (rm : BitVec 2) (flush : Bool) (a b : Nat) : Nat × BitVec 5 :=
  if isFloat f then
    delivered f rm flush (((ffmt f).decode flush a).mul ((ffmt f).decode flush b))
  else (intCode f (rm == 1) (intVal f a * intVal f b), 0)

/-- The fused forms (R239): the product's sign and the addend's sign are changed as `negP` and `negC` say. -/
def fmaLane (f : BitVec 5) (rm : BitVec 2) (negP negC : Bool) (flush : Bool) (a b c : Nat) : Nat × BitVec 5 :=
  let x := (ffmt f).decode flush a
  let x := if negP then x.neg else x
  let z := (ffmt f).decode flush c
  let z := if negC then z.neg else z
  delivered f rm flush (x.fma rm ((ffmt f).decode flush b) z)

/-- A code of a float format with a subnormal read as a zero of its sign when `flush` (R68). -/
def flushCode (f : FFmt) (flush : Bool) (c : Nat) : Nat :=
  if flush && f.ieee && decide (c % f.sign < 2 ^ f.mbits) then c / f.sign * f.sign else c

/-- VMIN or VMAX of two elements (R240). -/
def minmaxLane (f : BitVec 5) (isMax : Bool) (flush : Bool) (a b : Nat) : Nat × BitVec 5 :=
  if isFloat f then
    let g := ffmt f
    let x := g.decode flush a
    let y := g.decode flush b
    if x.isNan || y.isNan then (g.nanCode, x.nv ||| y.nv)
    else
      let a' := flushCode g flush a
      let b' := flushCode g flush b
      let le := decide (g.key false a' ≤ g.key false b')
      (if le == isMax then b' else a', 0)
  else
    let le := decide (intVal f a ≤ intVal f b)
    (if le == isMax then b else a, 0)

/-- VABS or VNEG of an element (R240). VNEG of an unsigned element wraps under either rounding code. -/
def absnegLane (f : BitVec 5) (rm : BitVec 2) (isAbs : Bool) (flush : Bool) (a : Nat) : Nat × BitVec 5 :=
  if isFloat f then
    let g := ffmt f
    let x := g.decode flush a
    if x.isNan then (g.nanCode, x.nv)
    else
      let c := flushCode g flush a
      let mag := c % g.sign
      let neg := c / g.sign % 2 == 1
      (if isAbs || neg then mag else g.sign + mag, 0)
  else
    let x := intVal f a
    (intCode f (rm == 1 && (isAbs || isSigned f)) (if isAbs then (x.natAbs : Int) else -x), 0)

def execVadd (p : Pos) (vd va vb : BitVec 5) (pred : BitVec 4) (rm : BitVec 2) (fmt : BitVec 5) (s : State) : Out :=
  finish p (vec2 p 2 vd va vb fmt pred true (addLane fmt rm)) s
def execVsub (p : Pos) (vd va vb : BitVec 5) (pred : BitVec 4) (rm : BitVec 2) (fmt : BitVec 5) (s : State) : Out :=
  finish p (vec2 p 2 vd va vb fmt pred true (subLane fmt rm)) s
def execVmul (p : Pos) (vd va vb : BitVec 5) (pred : BitVec 4) (rm : BitVec 2) (fmt : BitVec 5) (s : State) : Out :=
  finish p (vec2 p 4 vd va vb fmt pred false (mulLane fmt rm)) s
def execVfma (p : Pos) (vd va vb : BitVec 5) (pred : BitVec 4) (rm : BitVec 2) (fmt : BitVec 5) (s : State) : Out :=
  finish p (vec3 p 4 vd va vb fmt pred (fmaLane fmt rm false false)) s
def execVfms (p : Pos) (vd va vb : BitVec 5) (pred : BitVec 4) (rm : BitVec 2) (fmt : BitVec 5) (s : State) : Out :=
  finish p (vec3 p 4 vd va vb fmt pred (fmaLane fmt rm false true)) s
def execVfnma (p : Pos) (vd va vb : BitVec 5) (pred : BitVec 4) (rm : BitVec 2) (fmt : BitVec 5) (s : State) : Out :=
  finish p (vec3 p 4 vd va vb fmt pred (fmaLane fmt rm true false)) s
def execVmin (p : Pos) (vd va vb : BitVec 5) (pred : BitVec 4) (fmt : BitVec 5) (s : State) : Out :=
  finish p (vec2 p 2 vd va vb fmt pred false (minmaxLane fmt false)) s
def execVmax (p : Pos) (vd va vb : BitVec 5) (pred : BitVec 4) (fmt : BitVec 5) (s : State) : Out :=
  finish p (vec2 p 2 vd va vb fmt pred false (minmaxLane fmt true)) s
def execVabs (p : Pos) (vd va : BitVec 5) (pred : BitVec 4) (rm : BitVec 2) (fmt : BitVec 5) (s : State) : Out :=
  finish p (vec1 p 2 vd va fmt pred false (absnegLane fmt rm true)) s
def execVneg (p : Pos) (vd va : BitVec 5) (pred : BitVec 4) (rm : BitVec 2) (fmt : BitVec 5) (s : State) : Out :=
  finish p (vec1 p 2 vd va fmt pred true (absnegLane fmt rm false)) s

/-! ## Compares and selection (R241, R242) -/

/-- The truth of a compare and its flags: 0 eq, 1 ne, 2 lt, 3 ge. -/
def cmpLane (f : BitVec 5) (cc : Nat) (flush : Bool) (a b : Nat) : Bool × BitVec 5 :=
  let ord := fun (x y : Int) => match cc with
    | 0 => decide (x = y)
    | 1 => decide (x ≠ y)
    | 2 => decide (x < y)
    | _ => decide (y ≤ x)
  if isFloat f then
    let g := ffmt f
    let x := g.decode flush a
    let y := g.decode flush b
    if x.isNan || y.isNan then (cc == 1, if decide (2 ≤ cc) then fNV else x.nv ||| y.nv)
    else (ord (g.keyEq flush a) (g.keyEq flush b), 0)
  else (ord (intVal f a) (intVal f b), 0)

/-- A compare (R241). -/
def cmpM (p : Pos) (pd : BitVec 4) (a b : BitVec 5) (pred : BitVec 4) (f : BitVec 5) (cc : Nat) : M Unit := do
  let x ← readV p.bypA a
  let y ← readV p.bypB b
  let c ← getCtx
  let w := fmtWidth f
  checkTags f false [x, y]
  let en ← readPred pred
  let r := (List.range (laneCount w)).map (fun i =>
    if enabled en w i then cmpLane f cc c.exposed (x.lane w i) (y.lane w i) else (false, 0))
  fpTrap p (r.map (·.2))
  let bytes := r.zipIdx.foldr (fun e acc => if e.1.1 then acc + (2 ^ (w / 8) - 1) * 2 ^ (w / 8 * e.2) else acc) 0
  writeP p 2 pd (BitVec.ofNat 256 bytes) (elemMask en w) (orFlags (r.map (·.2)))

def execVcmpEq (p : Pos) (pd : BitVec 4) (va vb : BitVec 5) (pred : BitVec 4) (fmt : BitVec 5) (s : State) : Out :=
  finish p (cmpM p pd va vb pred fmt 0) s
def execVcmpNe (p : Pos) (pd : BitVec 4) (va vb : BitVec 5) (pred : BitVec 4) (fmt : BitVec 5) (s : State) : Out :=
  finish p (cmpM p pd va vb pred fmt 1) s
def execVcmpLt (p : Pos) (pd : BitVec 4) (va vb : BitVec 5) (pred : BitVec 4) (fmt : BitVec 5) (s : State) : Out :=
  finish p (cmpM p pd va vb pred fmt 2) s
def execVcmpGe (p : Pos) (pd : BitVec 4) (va vb : BitVec 5) (pred : BitVec 4) (fmt : BitVec 5) (s : State) : Out :=
  finish p (cmpM p pd va vb pred fmt 3) s

/-- The sources of an operation on bits: with fmt 0 any tag whose grp and rot are zero (R242, R243). -/
def checkBits (f : BitVec 5) (rotated : Bool) : List VVal → M Unit
  | [] => pure ()
  | v :: t => do
    (if f = 0 then checkPlain v.tag else checkTag (fmtTag f) rotated v.tag)
    checkBits f rotated t

def execVsel (p : Pos) (vd va vb : BitVec 5) (pred : BitVec 4) (fmt : BitVec 5) (s : State) : Out :=
  finish p (do
    let x ← readV p.bypA va
    let y ← readV p.bypB vb
    let rotated := fmtIn fmt 9 14
    checkBits fmt rotated [x, y]
    let tag ← (if rotated then commonTag fmt [x.tag, y.tag] else pure (fmtTag fmt))
    let pk ← readPred pred
    writeV p 2 vd (VVal.mk' (mergeData y.data x.data (elemMask pk (fmtWidth fmt))) tag)) s

/-! ## Logic and shifts (R243, R244) -/

/-- A bitwise operation. -/
def logicM (p : Pos) (vd : BitVec 5) (pred : BitVec 4) (f : BitVec 5) (srcs : List VVal) (fn : Fin 32 → BitVec 64) :
    M Unit := do
  checkBits f false srcs
  let en ← readPred pred
  writeV p 2 vd (VVal.mk' (Vector.ofFn fn) (fmtTag f)) (elemMask en (fmtWidth f))

/-- A bitwise operation of two sources. -/
def logic2 (p : Pos) (vd va vb : BitVec 5) (pred : BitVec 4) (f : BitVec 5)
    (op : BitVec 64 → BitVec 64 → BitVec 64) : M Unit := do
  let x ← readV p.bypA va
  let y ← readV p.bypB vb
  logicM p vd pred f [x, y] (fun i => op x.data[i] y.data[i])

def execVand (p : Pos) (vd va vb : BitVec 5) (pred : BitVec 4) (fmt : BitVec 5) (s : State) : Out :=
  finish p (logic2 p vd va vb pred fmt (· &&& ·)) s
def execVor (p : Pos) (vd va vb : BitVec 5) (pred : BitVec 4) (fmt : BitVec 5) (s : State) : Out :=
  finish p (logic2 p vd va vb pred fmt (· ||| ·)) s
def execVxor (p : Pos) (vd va vb : BitVec 5) (pred : BitVec 4) (fmt : BitVec 5) (s : State) : Out :=
  finish p (logic2 p vd va vb pred fmt (· ^^^ ·)) s
def execVnot (p : Pos) (vd va : BitVec 5) (pred : BitVec 4) (fmt : BitVec 5) (s : State) : Out :=
  finish p (do
    let x ← readV p.bypA va
    logicM p vd pred fmt [x] (fun i => ~~~x.data[i])) s

/-- VSHL of an element by an unsigned amount (R244). -/
def shlLane (f : BitVec 5) (_ : Bool) (a k : Nat) : Nat × BitVec 5 :=
  (if k < fmtWidth f then a * 2 ^ k % 2 ^ fmtWidth f else 0, 0)
/-- VSHR. -/
def shrLane (f : BitVec 5) (_ : Bool) (a k : Nat) : Nat × BitVec 5 := (if k < fmtWidth f then a / 2 ^ k else 0, 0)
/-- VSAR. -/
def sarLane (f : BitVec 5) (_ : Bool) (a k : Nat) : Nat × BitVec 5 :=
  (wrapN (fmtWidth f) (intVal f a / (2 ^ (Nat.min k (fmtWidth f)) : Nat)), 0)

def execVshl (p : Pos) (vd va vb : BitVec 5) (pred : BitVec 4) (fmt : BitVec 5) (s : State) : Out :=
  finish p (vec2 p 2 vd va vb fmt pred false (shlLane fmt)) s
def execVshr (p : Pos) (vd va vb : BitVec 5) (pred : BitVec 4) (fmt : BitVec 5) (s : State) : Out :=
  finish p (vec2 p 2 vd va vb fmt pred false (shrLane fmt)) s
def execVsar (p : Pos) (vd va vb : BitVec 5) (pred : BitVec 4) (fmt : BitVec 5) (s : State) : Out :=
  finish p (vec2 p 2 vd va vb fmt pred false (sarLane fmt)) s

/-! ## Dot product, splat, move (R245 to R247) -/

/-- The codes of i8, i32 and i64 (R56). -/
def fI8 : BitVec 5 := 1
def fI32 : BitVec 5 := 3
def fI64 : BitVec 5 := 4

/-- Element i of VDOT. -/
def dotLane (rm : BitVec 2) (x y z : VVal) (i : Nat) : Nat :=
  let acc := (List.range 4).foldl (fun (acc : Int) k =>
    acc + sval 8 (x.lane 8 (4 * i + k)) * sval 8 (y.lane 8 (4 * i + k))) (sval 32 (z.lane 32 i))
  intCode fI32 (rm == 1) acc

def execVdot (p : Pos) (vd va vb : BitVec 5) (pred : BitVec 4) (rm : BitVec 2) (s : State) : Out :=
  finish p (do
    let x ← readV p.bypA va
    let y ← readV p.bypB vb
    let z ← readV false vd
    checkTags fI8 false [x, y]
    checkTags fI32 false [z]
    let en ← readPred pred
    let r := (List.range 64).map (fun i => if enabled en 32 i then dotLane rm x y z i else 0)
    writeV p 4 vd (VVal.mk' (dataOfLanes 32 r) (fmtTag fI32)) (elemMask en 32)) s

/-- The element, flags, tag and sidecar entry count of VLI (R246). -/
def vliElem (p : Pos) (f : BitVec 5) (imm : BitVec 12) (flush : Bool) : Nat × BitVec 5 :=
  let w := fmtWidth f
  if fmtIn f 1 4 then ((immS p 12 imm.toNat).toNat % 2 ^ w, 0)
  else if fmtIn f 5 8 then ((immZ p 12 imm.toNat).toNat % 2 ^ w, 0)
  else if fmtIn f 9 14 then convert fI64 f 0 flush (immS p 12 imm.toNat).toNat
  else ((immZ p 12 imm.toNat).toNat % 2 ^ w, 0)

def execVli (p : Pos) (vd fmt : BitVec 5) (pred : BitVec 4) (imm : BitVec 12) (s : State) : Out :=
  finish p (do
    let c ← getCtx
    let en ← readPred pred
    let w := fmtWidth fmt
    let (v, fl) := vliElem p fmt imm c.exposed
    let fls := (List.range (laneCount w)).map (fun i => if enabled en w i then fl else 0)
    fpTrap p fls
    let grouped := fmtIn fmt 15 16
    let groups := if fmt.toNat = 15 then 8 else 16
    let tag := if grouped then mkTag fmt.toNat 1 0 0 0 else fmtTag fmt
    let side := Vector.ofFn (fun j : Fin 16 => if grouped ∧ j.val < groups then (0x3C00 : BitVec 24) else 0)
    let data := dataOfLanes w (List.replicate (laneCount w) v)
    writeV p 2 vd ⟨data, tag, side⟩ (elemMask en w) (orFlags fls)) s

def execVmov (p : Pos) (vd va : BitVec 5) (s : State) : Out :=
  finish p (do
    let x ← readV p.bypA va
    writeV p 2 vd x) s

/-! ## Special functions (R248) -/

/-- VDIV of two elements. -/
def divLane (f : BitVec 5) (rm : BitVec 2) (flush : Bool) (a b : Nat) : Nat × BitVec 5 :=
  (ffmt f).div rm flush ((ffmt f).decode flush a) ((ffmt f).decode flush b)

/-- A special function of one element. -/
def funLane (g : FFmt → BitVec 2 → Bool → FVal → Nat × BitVec 5) (f : BitVec 5) (rm : BitVec 2) (flush : Bool)
    (a : Nat) : Nat × BitVec 5 :=
  g (ffmt f) rm flush ((ffmt f).decode flush a)

/-- 1 / x. -/
def rcpFun (f : FFmt) (rm : BitVec 2) (flush : Bool) (v : FVal) : Nat × BitVec 5 :=
  f.div rm flush (.num false 1 0) v

def execVdiv (p : Pos) (vd va vb : BitVec 5) (pred : BitVec 4) (rm : BitVec 2) (fmt : BitVec 5) (s : State) : Out :=
  finish p (vec2 p 12 vd va vb fmt pred false (divLane fmt rm)) s
def execVsqrt (p : Pos) (vd va : BitVec 5) (pred : BitVec 4) (rm : BitVec 2) (fmt : BitVec 5) (s : State) : Out :=
  finish p (vec1 p 12 vd va fmt pred false (funLane FFmt.sqrt fmt rm)) s
def execVrcp (p : Pos) (vd va : BitVec 5) (pred : BitVec 4) (rm : BitVec 2) (fmt : BitVec 5) (s : State) : Out :=
  finish p (vec1 p 12 vd va fmt pred false (funLane rcpFun fmt rm)) s
def execVrsq (p : Pos) (vd va : BitVec 5) (pred : BitVec 4) (rm : BitVec 2) (fmt : BitVec 5) (s : State) : Out :=
  finish p (vec1 p 12 vd va fmt pred false (funLane FFmt.rsqrt fmt rm)) s
def execVexp2 (p : Pos) (vd va : BitVec 5) (pred : BitVec 4) (rm : BitVec 2) (fmt : BitVec 5) (s : State) : Out :=
  finish p (vec1 p 12 vd va fmt pred false (funLane FFmt.exp2 fmt rm)) s
def execVlog2 (p : Pos) (vd va : BitVec 5) (pred : BitVec 4) (rm : BitVec 2) (fmt : BitVec 5) (s : State) : Out :=
  finish p (vec1 p 12 vd va fmt pred false (funLane FFmt.log2 fmt rm)) s
def execVtanh (p : Pos) (vd va : BitVec 5) (pred : BitVec 4) (rm : BitVec 2) (fmt : BitVec 5) (s : State) : Out :=
  finish p (vec1 p 12 vd va fmt pred false (funLane FFmt.tanh fmt rm)) s
def execVsinpi (p : Pos) (vd va : BitVec 5) (pred : BitVec 4) (rm : BitVec 2) (fmt : BitVec 5) (s : State) : Out :=
  finish p (vec1 p 12 vd va fmt pred false (funLane FFmt.sinpi fmt rm)) s
def execVcospi (p : Pos) (vd va : BitVec 5) (pred : BitVec 4) (rm : BitVec 2) (fmt : BitVec 5) (s : State) : Out :=
  finish p (vec1 p 12 vd va fmt pred false (funLane FFmt.cospi fmt rm)) s

/-! ## Reductions (R78, R249) -/

/-- One level of the tree: a pair with one member disabled passes the other up. -/
def redLevel (fn : Nat → Nat → Nat × BitVec 5) : List (Option Nat) → List (Option Nat) × BitVec 5
  | a :: b :: t =>
    let (r, fl) := redLevel fn t
    match a, b with
    | some x, some y => (some (fn x y).1 :: r, (fn x y).2 ||| fl)
    | some x, none => (some x :: r, fl)
    | none, y => (y :: r, fl)
  | l => (l, 0)

/-- The tree over k levels. -/
def redTree (fn : Nat → Nat → Nat × BitVec 5) : Nat → List (Option Nat) → Option Nat × BitVec 5
  | 0, l => (l.head?.join, 0)
  | k + 1, l =>
    let (r, fl) := redLevel fn l
    let (v, fl') := redTree fn k r
    (v, fl ||| fl')

/-- A reduction: element 0 receives the result, every other element zero. A flag of its tree, whose steps belong to no element, counts at
element 0 (R72, R249; log 17, DEDUCED). -/
def redM (p : Pos) (vd va : BitVec 5) (pred : BitVec 4) (f : BitVec 5) (fn : Bool → Nat → Nat → Nat × BitVec 5)
    (ident : Nat) : M Unit := do
  let x ← readV p.bypA va
  let c ← getCtx
  let w := fmtWidth f
  checkTags f false [x]
  let en ← readPred pred
  let l := (List.range (laneCount w)).map (fun i => if enabled en w i then some (x.lane w i) else none)
  let (v, fl) := redTree (fn c.exposed) 8 l
  fpTrap p [fl]
  writeV p 6 vd (VVal.mk' (dataOfLanes w [v.getD ident]) (fmtTag f)) fullMask fl

/-- The lowest value of a format: −∞ or the least integer. -/
def lowest (f : BitVec 5) : Nat := if isFloat f then (ffmt f).infCode true else intCode f false (intMin f)
/-- The highest value of a format. -/
def highest (f : BitVec 5) : Nat := if isFloat f then (ffmt f).infCode false else intCode f false (intMax f)

def execVredSum (p : Pos) (vd va : BitVec 5) (pred : BitVec 4) (rm : BitVec 2) (fmt : BitVec 5) (s : State) : Out :=
  finish p (redM p vd va pred fmt (addLane fmt rm) 0) s
def execVredMax (p : Pos) (vd va : BitVec 5) (pred : BitVec 4) (fmt : BitVec 5) (s : State) : Out :=
  finish p (redM p vd va pred fmt (minmaxLane fmt true) (lowest fmt)) s
def execVredMin (p : Pos) (vd va : BitVec 5) (pred : BitVec 4) (fmt : BitVec 5) (s : State) : Out :=
  finish p (redM p vd va pred fmt (minmaxLane fmt false) (highest fmt)) s

/-! ## Maximum with index (R250) -/

/-- The order key of an element that is a candidate, and its flags. -/
def maxiKey (f : BitVec 5) (flush : Bool) (c : Nat) : Option Int × BitVec 5 :=
  if isFloat f then
    let v := (ffmt f).decode flush c
    if v.isNan then (none, v.nv) else (some ((ffmt f).key flush c), 0)
  else (some (intVal f c), 0)

/-- The winner of a chunk among candidates (key, index, code), in ascending index. -/
def maxiBest (l : List (Int × Nat × Nat)) : Option (Int × Nat × Nat) :=
  l.foldl (fun (o : Option (Int × Nat × Nat)) e => match o with
    | none => some e
    | some b => if b.1 < e.1 then some e else some b) none

/-- The 64-bit lane of a chunk. -/
def maxiLane : Option (Int × Nat × Nat) → Nat
  | some (_, i, c) => i * 2 ^ 32 + c
  | none => 0xFFFFFFFF * 2 ^ 32

def execVmaxi (p : Pos) (vd va : BitVec 5) (pred : BitVec 4) (fmt : BitVec 5) (s : State) : Out :=
  finish p (do
    let x ← readV p.bypA va
    let c ← getCtx
    let w := fmtWidth fmt
    checkTags fmt false [x]
    let en ← readPred pred
    let ks := (List.range (laneCount w)).map (fun i =>
      if enabled en w i then maxiKey fmt c.exposed (x.lane w i) else (none, 0))
    fpTrap p (ks.map (·.2))
    let chunk := fun (q : Nat) => (List.range 64).filterMap (fun j =>
      (ks.getD (64 * q + j) (none, 0)).1.map (fun key => (key, 64 * q + j, x.lane w (64 * q + j))))
    let out := (List.range (Nat.max 1 (laneCount w / 64))).map (fun q => maxiLane (maxiBest (chunk q)))
    writeV p 6 vd (VVal.mk' (dataOfLanes 64 out) 0) fullMask (orFlags (ks.map (·.2)))) s

/-! ## Conversions (R251) -/

def execVcvt (p : Pos) (vd va srcFmt : BitVec 5) (pred : BitVec 4) (rm : BitVec 2) (fmt : BitVec 5) (s : State) : Out :=
  finish p (do
    let x ← readV p.bypA va
    let c ← getCtx
    let ws := fmtWidth srcFmt
    let wd := fmtWidth fmt
    let n := laneCount (Nat.max ws wd)
    checkTags srcFmt false [x]
    let en ← readPred pred
    let r := (List.range n).map (fun i =>
      if enabled en wd i then convert srcFmt fmt rm c.exposed (x.lane ws i) else (0, 0))
    fpTrap p (r.map (·.2))
    let above := ~~~(BitVec.ofNat 256 (2 ^ (n * wd / 8) - 1))
    writeV p 4 vd (VVal.mk' (dataOfLanes wd (r.map (·.1))) (fmtTag fmt)) (elemMask en wd ||| above)
      (orFlags (r.map (·.2)))) s

/-! ## Shuffles (R252, R253) -/

/-- An entry of a context's pattern store: index 64 · bank + entry; zero at launch. -/
def Ctx.pattern (c : Ctx) (bank : Bool) (e : Nat) : List (BitVec 16) :=
  look c.pat ((if bank then 64 else 0) + e) (List.replicate 256 0)

/-- Byte j of a shuffle. -/
def shufByte (a b : List Byte) (h : BitVec 16) : Byte :=
  let k := h.toNat % 512
  if h.getLsbD 15 then 0 else if k < 256 then a.getD k 0 else b.getD (k - 256) 0

def execVshuf (p : Pos) (vd va vb : BitVec 5) (entry : BitVec 6) (s : State) : Out :=
  finish p (do
    let x ← readV p.bypA va
    let y ← readV p.bypB vb
    let c ← getCtx
    checkPlain x.tag
    checkPlain y.tag
    let a := x.bytes
    let b := y.bytes
    let bs := (c.pattern c.patBank entry.toNat).map (shufByte a b)
    writeV p 3 vd (VVal.mk' (dataOfBytes bs) (if x.tag = y.tag then x.tag else 0))) s

def execVpld (p : Pos) (va vb : BitVec 5) (entry : BitVec 6) (s : State) : Out :=
  finish p (do
    let x ← readV p.bypA va
    let y ← readV p.bypB vb
    let image := halvesOfBytes 256 (x.bytes ++ y.bytes)
    trapIf (image.any (fun h => h.toNat / 512 % 64 != 0)) cFormat 0 (w64 x.tag.toNat)
    (fun s => .ok ((), { s with ctx := { s.ctx with vpld := s.ctx.vpld ++
      [⟨s.now + 4, (if s.ctx.patBank then 0 else 64) + entry.toNat, image⟩] } }))) s

def execVpsw (p : Pos) (s : State) : Out :=
  finish p (do
    let c ← getCtx
    waitIf (!c.vpld.isEmpty) .vpsw
    modCtx (fun c => { c with patBank := !c.patBank })) s

/-! ## Predicates (R255) -/

/-- A predicate operation. -/
def predM (p : Pos) (pd : BitVec 4) (v : BitVec 256) : M Unit := writeP p 1 pd v (BitVec.allOnes 256)

def execPand (p : Pos) (pd pa pb : BitVec 4) (s : State) : Out :=
  finish p (predM p pd (s.ctx.pred pa.toNat &&& s.ctx.pred pb.toNat)) s
def execPor (p : Pos) (pd pa pb : BitVec 4) (s : State) : Out :=
  finish p (predM p pd (s.ctx.pred pa.toNat ||| s.ctx.pred pb.toNat)) s
def execPxor (p : Pos) (pd pa pb : BitVec 4) (s : State) : Out :=
  finish p (predM p pd (s.ctx.pred pa.toNat ^^^ s.ctx.pred pb.toNat)) s
def execPnot (p : Pos) (pd pa : BitVec 4) (s : State) : Out :=
  finish p (predM p pd (~~~(s.ctx.pred pa.toNat))) s
def execPfirst (p : Pos) (pd pa : BitVec 4) (s : State) : Out :=
  finish p (predM p pd (s.ctx.pred pa.toNat &&& (0 - s.ctx.pred pa.toNat))) s
def execPset (p : Pos) (pd : BitVec 4) (imm : BitVec 12) (s : State) : Out :=
  finish p (predM p pd (BitVec.ofNat 256 (2 ^ Nat.min (immZ p 12 imm.toNat).toNat 256 - 1))) s

/-! ## Cross-class copies (R256) -/

def execXferSv (p : Pos) (d a lane : BitVec 5) (s : State) : Out :=
  finish p (do
    let x ← readS p 2 p.bypA a
    (fun s =>
      let v := VVal.mk' (Vector.replicate 32 x) 0
      let m := BitVec.ofNat 256 (255 * 2 ^ (8 * lane.toNat))
      let s := s.push p 2 (.vector (s.ctx.vphys d.toNat)) (.vec v m) 0 (!p.wbs) false
      .ok ((), s.push p 2 .none (.word x)))) s

def execXferVs (p : Pos) (d a lane : BitVec 5) (s : State) : Out :=
  finish p (do
    let v ← readV false a
    writeS p 3 d (v.data.getD lane.toNat 0)) s

def execVext (p : Pos) (d a b fmt : BitVec 5) (s : State) : Out :=
  finish p (do
    let v ← readV false a
    let i ← readS p 3 p.bypB b
    let w := fmtWidth fmt
    let e := v.lane w i.toNat
    writeS p 3 d (if laneCount w ≤ i.toNat then 0 else if isSigned fmt then sextTo w e else w64 e)) s

end Sys2Proof.Machine
end

