-- ==== Sys2Proof/Machine/Events.lean ====
section
/-! DEFINITION. Steps the machine takes between slot operations: results landing (spec/02 R28), asynchronous traps (spec/05
R101, R102), snapshots and pre-emption (R97 to R106), switches and the yield arbiter (R85 to R89, R412, R413), the end of a
task (spec/07 R156), and the small steps of posts, monitors, windows of the core store, channels and the calendar. An event
acts on the focus context and core; `State.focus` chooses them. -/

namespace Sys2Proof.Machine

/-! ## The focus -/

/-- Make core n the one the step works on. -/
def State.focusCoreOnly (s : State) (n : Nat) : State :=
  if s.core.id = n then s
  else { s with core := s.coreAt n, cores := s.core :: s.cores.filter (fun k => k.id != n) }

/-- Make a context the one the step works on. -/
def State.focusCtx (s : State) (n slot : Nat) : State :=
  if s.ctx.core = n ∧ s.ctx.slot = slot then s
  else { s with ctx := (s.ctxs.find? (fun c => c.core == n && c.slot == slot)).getD (Ctx.idle n slot),
                ctxs := s.ctx :: s.ctxs.filter (fun c => !(c.core == n && c.slot == slot)) }

/-- Make a context and its core the ones the step works on. -/
def State.focus (s : State) (n slot : Nat) : State := (s.focusCoreOnly n).focusCtx n slot

/-- The slot whose context stands for a core: the running one, else the last that held it. -/
def Core.face (k : Core) : Nat := (k.running.or k.owner).getD 0

/-- Make a core and the context that stands for it the ones the step works on. -/
def State.focusCore (s : State) (n : Nat) : State := s.focus n (s.coreAt n).face

/-- The context in a slot of a core. -/
def State.ctxAt (s : State) (n slot : Nat) : Option Ctx := s.allCtxs.find? (fun c => c.core == n && c.slot == slot)

/-- Whether the focus context holds the focus core (R85). -/
def State.holding (s : State) : Bool := s.core.running == some s.ctx.slot

/-! ## Posts, tagged sends, monitors -/

def execPostDelivery (s : State) : Out := .next s.postDelivery

def execTaggedSendLanded (g inc : Nat) (s : State) : Out := .next (s.tagLanded g inc)

/-- A monitor is woken without a write (R179 permits it at any time). -/
def execMonitorWake (core slot : Nat) (s : State) : Out :=
  .next (s.mapCtx (fun c => c.core == core && c.slot == slot)
    (fun c => { c with mon := c.mon.map (fun m => { m with woken := true }) }))

/-- The timeout of an MWAIT expires (R180): with the monitor woken the wait completes at its next test. -/
def execMwaitTimeout (s : State) : Out :=
  .next (if s.ctx.mwaitAt.any (fun d => decide (d ≤ s.now)) then
    { s with ctx := { s.ctx with mwaitAt := none, mon := s.ctx.mon.map (fun m => { m with woken := true }) } } else s)

/-- The sump acknowledges a far access: its sector is free again (R229). -/
def execFarAccessAck (sector : Nat) (s : State) : Out := .next { s with far := farAcked sector s.far }

/-- A waiting ACQ makes its attempt again (R116). -/
def execAcqRetry (s : State) : Out :=
  .next (match s.ctx.stallAt with
    | some (_, .acquire) => { s with core := { s.core with readyAt := Nat.min s.core.readyAt s.now } }
    | _ => s)

/-! ## The core store (R188) -/

/-- The end of a PHASE window: the new division holds, writes that were held are performed. -/
def State.phaseOpen (s : State) : State :=
  match s.core.phaseEnd with
  | none => s
  | some e =>
    if s.now < e then s
    else
      ({ s with core := { s.core with l1Size := s.core.l1Next, phaseEnd := none } }).scrLand

def execPhaseWindowEnd (s : State) : Out := .next s.phaseOpen

/-! ## Copy channels and the calendar (R213, R216 to R219) -/

def execChannelFaultWrite (ch : BitVec 2) (s : State) : Out := .next (s.chanResume ch.toNat)

def execCopyCommandStart (ch : BitVec 2) (s : State) : Out :=
  .next { s with core := s.core.startChan s.now ch.toNat }

def execCopyCommandComplete (ch : BitVec 2) (s : State) : Out := .next (s.copyAll ch.toNat)

/-- A channel meets a faulting access: what comes before it is performed, and the channel stops there (R219). -/
def State.chanFault (s : State) (ch : Nat) : State :=
  match (s.core.chan ch).queue with
  | q :: _ => if q.regs.cal then s.calPoison ch else
      let t := s.copyAll ch
      if (t.core.chan ch).flt then t else s
  | [] => s

def execCopyChannelFault (ch : BitVec 2) (s : State) : Out := .next (s.chanFault ch.toNat)

def execCalendarRotationStart (s : State) : Out := .next { s with core := s.core.rotate }

def execCalendarLineIssue (ch : BitVec 2) (s : State) : Out := .next (s.calIssue ch.toNat)

def execCalendarLineRead (k : Nat) (s : State) : Out := .next (s.calRead k)

def execCalendarLineLanding (k : Nat) (s : State) : Out := .next (s.calLand k)

def execCalendarHold (k delay : Nat) (s : State) : Out := .next (s.calHold k delay)

/-- The chamber-bus arrivals of a cycle that no BLATCH captured (R220). -/
def execBusArrival (s : State) : Out := .next s.busExpire

/-! ## Writes in flight (R28, R97, R98, R253, R289, R297) -/

/-- The first pattern entry that is due is written (R253). -/
def execPatternEntryWrite (s : State) : Out :=
  .next (match s.ctx.vpld.find? (fun w => decide (w.due ≤ s.now)) with
    | some w => { s with ctx := { s.ctx with vpld := s.ctx.vpld.erase w, pat := put s.ctx.pat w.index w.image } }
    | none => s)

def execLatchRowWrite (s : State) : Out := .next s.landLatches

def execTileRowLanding (s : State) : Out := .next s.landRows

/-- Whether a result lands before another: by its clock; in one clock a write of `fpflags` comes before the flags of other
results (R161), then issue order. -/
def Res.before (a b : Res) : Bool :=
  let key := fun (r : Res) => if r.dest == Dest.sreg 1 then 0 else 1
  decide (a.land < b.land) || (a.land == b.land && (decide (key a < key b) || (key a == key b && decide (a.seq < b.seq))))

/-- The result that lands next, when one is due at the issue clock. -/
def Ctx.dueRes (c : Ctx) : Option Res :=
  (c.infl.filter (fun r => decide (r.land ≤ c.clk))).foldl (fun (o : Option Res) r => match o with
    | some x => if r.before x then some r else some x
    | none => some r) none

/-- A pushed word enters its place in the companion queue or in a port's queue, and a packet whose last word it is counts as accepted
(R135, R318, R383). -/
def State.portWord (s : State) (k t : Nat) : State :=
  if k = 6 then s.cqLanded (chamberOf s.ctx.core) t
  else ({ s with core := s.core.portLanded k t }).portAccept k t

/-- Until when the writes of the focus context to its scratchpad are on their way. -/
def State.ownDue (s : State) : Nat :=
  s.core.later.foldl (fun (m : Nat) w => if w.agent = s.ctx.agent then Nat.max m w.due else m) s.now

/-- Whether a word whose context's writes are performed by cycle `due` may enter its place: nothing of the context stands behind a far
access either (R121, R229). -/
def State.pushReady (s : State) (c : Ctx) (due : Nat) : Bool :=
  decide (due ≤ s.now) && s.far.all (fun h => h.agent != c.agent || h.far)

/-- A result lands. A pushed word enters its place with it, but never before every earlier access of its context, its bundle's own among
them, is performed (R121, R135; log 129, DEDUCED). -/
def State.landRes (s : State) (r : Res) : State :=
  let s := s.land r
  match r.dest with
  | .port k t =>
    if s.core.later.any (fun w => w.agent == s.ctx.agent) || !s.pushReady s.ctx s.now then
      { s with ctx := { s.ctx with pushes := s.ctx.pushes ++ [(k, t, s.ownDue)] } }
    else s.portWord k t
  | _ => s

/-- The words of the focus context that may enter their places do. -/
def State.pushWords (s : State) : State :=
  let ready := fun (e : Nat × Nat × Nat) => s.pushReady s.ctx e.2.2
  (s.ctx.pushes.filter ready).foldl (fun (t : State) e => t.portWord e.1 e.2.1)
    { s with ctx := { s.ctx with pushes := s.ctx.pushes.filter (fun e => !ready e) } }

/-- The next due result of the focus context lands (R28). -/
def State.resultLands (s : State) : State :=
  match s.ctx.dueRes with
  | some r => ({ s with ctx := { s.ctx with infl := s.ctx.infl.erase r } }).landRes r
  | none => s

def execResultLands (s : State) : Out := .next s.resultLands

/-- Whether a captured result is replayed before another: by its remaining latency; in one cycle a write of `fpflags` comes
first (R71, R161). -/
def Snap.before (a b : Snap) : Bool :=
  decide (a.k < b.k) || (a.k == b.k && a.res.dest == Dest.sreg 1 && b.res.dest != Dest.sreg 1)

/-- The captured result that is replayed next, when one is due (R98). -/
def Ctx.dueSnap (c : Ctx) : Option Snap :=
  match c.replayU with
  | none => none
  | some u => (c.snap.filter (fun e => decide (u + e.k ≤ c.clk))).foldl (fun (o : Option Snap) e => match o with
    | some x => if e.before x then some e else some x
    | none => some e) none

/-- Whether a fresh result that is due lands before the captured ones that are: a write of `fpflags` does, unless a captured
write of it is due too, so that no flag that enters in its cycle is lost (R71, R161). -/
def Ctx.freshFirst (c : Ctx) : Bool := match c.dueRes, c.dueSnap with
  | some r, some e => r.dest == Dest.sreg 1 && e.res.dest != Dest.sreg 1
  | some _, none => true
  | none, _ => false

/-- The next due captured result of the focus context is written (R98); it fills no latch. -/
def State.snapshotReplay (s : State) : State :=
  match s.ctx.dueSnap with
  | some e =>
    let rest := s.ctx.snap.erase e
    ({ s with ctx := { s.ctx with snap := rest, replayU := if rest.isEmpty then none else s.ctx.replayU } }).landRes e.res
  | none => s

def execSnapshotReplay (s : State) : Out := .next s.snapshotReplay

/-- A freeze ends: late data is there (R88). -/
def execFreezeEnd (s : State) : Out :=
  .next { s with ctx := { s.ctx with
    late := s.ctx.late.filter (fun e => !(decide (e.1 ≤ s.ctx.clk) && decide (e.2 ≤ s.now))) } }

/-! ## Traps between bundles (R95, R101, R102) -/

/-- A trap is taken between bundles; the outcome says so. -/
def State.asyncTrap (s : State) (r : TrapReq) : State := { (s.takeTrap r 0) with sig := .trapped r }

/-- The entry of a trap: its record is written and the handler is next, unless it is offered or deferred (R95, R100). -/
def execTrapEntry (cause : BitVec 8) (mask : BitVec 4) (taddr detail : Word) (s : State) : Out :=
  .next { (s.takeTrap ⟨cause, taddr, detail⟩ mask) with sig := .trapped ⟨cause, taddr, detail⟩ }

/-- Whether an interrupt is takeable (R101). -/
def Ctx.interrupting (c : Ctx) : Bool := c.ie && c.ienable &&& c.ipend != 0

def execInterruptTaken (s : State) : Out :=
  .next (if s.ctx.interrupting then s.asyncTrap ⟨cInterrupt, 0, w64 s.ctx.ipend.toNat⟩ else s)

/-- Whether a breakpoint register is enabled and names a bundle address. -/
def bkptHits (w : Word) (addr : Nat) : Bool := bitAt w 0 && bits w 17 4 * 16 == addr

/-- Whether a breakpoint matches the bundle about to issue (R101); an annulled bundle raises none (R93). -/
def Ctx.atBreakpoint (c : Ctx) : Bool :=
  !c.bpskip && !c.q0.an && (bkptHits c.bkpt0 c.q0.addr || bkptHits c.bkpt1 c.q0.addr)

def execBreakpoint (s : State) : Out :=
  let c := s.ctx
  .next (if c.atBreakpoint then
    s.asyncTrap ⟨cBreak, w64 c.q0.addr, ofBool (bkptHits c.bkpt1 c.q0.addr)⟩ else s)

def execBudgetOverrun (s : State) : Out :=
  .next (if s.ctx.overPend && !s.ctx.sv then
    ({ s with ctx := { s.ctx with overPend := false } }).asyncTrap ⟨cBudget, 0, w64 (bits s.ctx.budget 62 0)⟩ else s)

/-! ## Scheduling (R85 to R89, R412) -/

/-- Whole milliseconds in cycles (R412). -/
def msCycles : Nat := 1500000

/-- A context's rank: its queue's priority and its age, at most 7 (R412). -/
def Ctx.rank (c : Ctx) (now : Nat) : Nat := Nat.min 7 (c.prio + (now - c.lastIssue) / msCycles)

/-- A context's stated run: that of its last YIELD, before its first one that of `budget` (R412). -/
def Ctx.statedRun (c : Ctx) : Nat := c.run.getD (bits c.budget 62 0)

/-- Whether a context may be chosen on a core. -/
def Ctx.candidate (c : Ctx) (core : Nat) : Bool := c.core == core && c.status == .ready

/-- Whether candidate a comes before b (R412): by class and fit, rank, launch, slot. -/
def Ctx.precedes (a b : Ctx) (now : Nat) : Bool :=
  let ra := a.rank now
  let rb := b.rank now
  decide (rb < ra) || (ra == rb && (decide (a.launch < b.launch) || (a.launch == b.launch && decide (a.slot < b.slot))))

/-- The highest of a list. -/
def bestOf (now : Nat) (l : List Ctx) : Option Ctx :=
  l.foldl (fun (o : Option Ctx) c => match o with
    | some x => if c.precedes x now then some c else some x
    | none => some c) none

/-- The arbiter's choice among candidates and the quantum's end after it (R412). -/
def chooseNext (k : Core) (now : Nat) (cs : List Ctx) : Option (Ctx × Nat) :=
  let first := cs.filter (fun c => !c.issuedQ)
  let cls := if first.isEmpty then cs else first
  match bestOf now (cls.filter (fun c => decide (0 < c.statedRun) && decide (c.statedRun ≤ k.qEnd - now))) with
  | some c => some (c, k.qEnd)
  | none => (bestOf now cls).map (fun c => (c, Nat.max k.qEnd (now + c.statedRun)))

/-- The outgoing context leaves the focus core (R86): its beats complete, its results are captured, its latches and the
edge latches are lost, a monitor is lost unless the context waits in MWAIT (R181). -/
def State.switchAway (s : State) (parked : Bool) : State :=
  let s := (s.capture.landRows).landLatches
  let keep := parked && (match s.ctx.stallAt with
    | some (_, .mwait) => true
    | _ => false)
  let c := (s.ctx.count 7 1)
  { s with ctx := { c with mon := if keep then c.mon else none, status := if parked then .parked else c.status,
                           steer := {} } }

/-- The chosen context comes in: its first bundle issues 24 cycles from now (R86); captured results replay (R98). A context
parked for a page fault from which the core turns has been switched away: its monitor is lost (R179). -/
def State.switchIn (s : State) (slot : Nat) : State :=
  let keepLatches := s.core.owner == some slot
  let s := s.mapCtx (fun c => c.core == s.core.id && c.slot != slot && s.core.owner == some c.slot && c.status == .faulted)
    (fun c => { c with mon := none })
  let k := s.core
  let k := if keepLatches then k else { k with el := Vector.replicate 4 Latch.zero, mode := none }
  let s := { s with core := { k with running := some slot, owner := some slot, readyAt := s.now + 24, idleSince := none } }
  let s := s.focusCtx s.core.id slot
  { s with ctx := s.ctx.comeIn }

/-- At a yield point the core switches to the arbiter's choice when that is another context; a waiting context is no
candidate. -/
def State.yieldPoint (s : State) (waiting : Bool) : State :=
  let cs := s.allCtxs.filter (fun c => c.candidate s.core.id && !(waiting && c.slot == s.ctx.slot))
  match chooseNext s.core s.now cs with
  | none => s
  | some (c, e) =>
    let s := { s with core := { s.core with qEnd := e } }
    if c.slot = s.ctx.slot then s else (s.switchAway waiting).switchIn c.slot

/-- Whether a switch may take the focus context off its core (R83, R85, R181, R379). -/
def Ctx.switchable (c : Ctx) : Bool := !c.sv && !c.lock && !c.companion

/-- The waits that become yield points after 256 cycles (R85, R181). -/
def WaitKind.yields : WaitKind → Bool
  | .flag | .barrier | .step | .mwait | .slwait | .twait => true
  | _ => false

/-- Whether the focus context has stalled long enough to be parked. -/
def State.stalledLong (s : State) : Bool :=
  match s.ctx.stallAt with
  | some (t, k) => k.yields && decide (t + 256 < s.now) && s.ctx.switchable
      && s.allCtxs.any (fun c => c.candidate s.core.id && c.slot != s.ctx.slot)
  | none => false

def execWaitStallYield (s : State) : Out := .next (if s.holding && s.stalledLong then s.yieldPoint true else s)

/-- The bytes of the bundle at an address, in instruction memory or a companion's local memory (R81, R381). -/
def State.fetch (s : State) (addr : Nat) : List Byte :=
  let c := s.ctx
  if c.companion then memGetN s.loc (locKey (chamberOf c.core) (c.imBase + addr)) 16
  else memGetN s.imem (imKey c.core (c.imBase + addr)) 16

/-- The bundle about to issue. -/
def State.bundle (s : State) : Bundle := decodeBytes (s.fetch s.ctx.q0.addr)

/-- Whether a try of a slot operation ended in a wait. -/
def Out.waiting : Out → Bool
  | .next t => match t.sig with
    | .waits _ => true
    | _ => false
  | _ => false

/-- Whether a slot holds one of the waits that park a context and its condition does not hold. -/
def State.slotWaits (s : State) : Slot → Bool
  | .op (.waitf p f n) => (execWaitf p f n s).waiting
  | .op (.barw p a) => (execBarw p a s).waiting
  | .op (.step p a) => (execStep p a s).waiting
  | .op (.mwait p a) => (execMwait p a s).waiting
  | .op (.slwait p h a) => (execSlwait p h a s).waiting
  | .op (.twait p a ch) => (execTwait p a ch s).waiting
  | .op (.twaitn p a ch) => (execTwaitn p a ch s).waiting
  | _ => false

/-- Whether the wait of the focus context's next bundle is over (R87). -/
def State.waitOver (s : State) : Bool :=
  let b := s.bundle
  [b.s0, b.s1].all (fun x => !s.slotWaits x)

/-- PARKED_CONTEXT_READY (R87): the parked context in a slot of the focus core becomes ready once its wait is over. -/
def State.parkedReady (s : State) (slot : Nat) : State :=
  let t := s.focusCtx s.core.id slot
  if t.ctx.status = .parked ∧ t.waitOver then
    { t with ctx := { t.ctx with status := .ready, stallAt := none } }.focusCtx s.ctx.core s.ctx.slot
  else s

def execParkedContextReady (slot : Nat) (s : State) : Out := .next (s.parkedReady slot)

/-- The first ready context of an idle core is switched in (R85). -/
def State.idleSwitchIn (s : State) : State :=
  if s.core.running.isSome then s
  else match chooseNext s.core s.now (s.allCtxs.filter (fun c => c.candidate s.core.id)) with
    | some (c, e) => ({ s with core := { s.core with qEnd := e } }).switchIn c.slot
    | none => s

def execIdleSwitchIn (s : State) : Out := .next s.idleSwitchIn

/-- The cycles of a quantum: 100 µs (R412). -/
def quantum : Nat := 150000

/-- A quantum boundary of the focus core (R412). -/
def State.newQuantum (s : State) : State :=
  if s.now < s.core.qEnd then s
  else
    let e := s.core.qEnd + ((s.now - s.core.qEnd) / quantum + 1) * quantum
    let s := { s with core := { s.core with qStart := e - quantum, qEnd := e } }
    s.mapCtx (fun c => c.core == s.core.id) (fun c => { c with issuedQ := false })

def execQuantumBoundary (s : State) : Out := .next s.newQuantum

/-! ## The end of a task (R156, R172, R319, R383) -/

/-- Whether a task has come to its end: by END, by a deferred fault, by a fatal trap (R80). -/
def Ctx.over (c : Ctx) : Bool := c.status == .ending || c.status == .halted

/-- Whether what an ended task has issued is done (R156, R172). A halted context's snapshot buffer stays as it is (R99). -/
def State.endSettled (s : State) : Bool :=
  let c := s.ctx
  c.over && c.infl.isEmpty && (c.snap.isEmpty || c.status == .halted) && c.posts.isEmpty && c.vpld.isEmpty && c.mcOut == 0
    && c.pushes.isEmpty && s.settled true && (!s.holding || (s.core.beats.isEmpty && s.core.latchW.isEmpty))

/-- TASK_END_REPORT: the core's resources are released, the context leaves its groups and bindings, a launch whose last task
this was has ended. -/
def State.taskEnd (s : State) : State :=
  if !s.endSettled then s
  else
    let c := s.ctx
    let n := s.core.id
    let s := if c.ports then s.portsEnd n else s
    let s := s.unbindWhere (fun x => x.core == n && x.slot == c.slot)
    let s := s.leaveAll c.launch n
    let s := if c.companion then
        let q := s.queue (chamberOf n)
        s.setQueue (chamberOf n) { q with items := q.items.filter (fun e => e.launch != c.launch) }
      else s
    let s := { s with launches := s.launches.map (fun (l : Launch) => if l.num = c.launch then { l with live := l.live.erase n } else l) }
    let s := if (s.launchAt c.launch).any (fun (l : Launch) => l.live.isEmpty) then s.launchGone c.launch else s
    let k := s.core
    let k := if k.running = some c.slot then { k with running := none, idleSince := some s.now } else k
    let k := if k.owner = some c.slot then { k with owner := none } else k
    let out := (s.fab.out.filter (fun o => !(o.mappedBy c && o.answer.isSome))).map (fun o =>
      if o.mappedBy c && o.step != mcastStep then { o with core := orphanCore } else o)
    { s with core := k, ctx := Ctx.idle n c.slot, fab := { s.fab with out := out } }

def execTaskEndReport (s : State) : Out := .next s.taskEnd

/-! ## The context image (R104, R105) -/

/-- A snapshot cell: file, register, tag and value bytes. -/
structure Cell where
  file  : Nat
  reg   : Nat
  tag   : Nat
  flags : Nat
  k     : Nat
  value : List Byte
  side  : List Byte
  deriving DecidableEq, Repr

/-- Pad a list of bytes with zeros, or cut it. -/
def padTo (n : Nat) (bs : List Byte) : List Byte := (bs ++ List.replicate (n - bs.length) 0).take n

/-- The sidecars of a vector register in bytes. -/
def sideBytes (v : VVal) : List Byte := v.side.toList.flatMap (fun e => bytesOfNat 3 e.toNat)

/-- A cell in its 320 bytes. -/
def Cell.bytes (x : Cell) : List Byte :=
  bytesOfNat 8 (x.reg + x.file * 2 ^ 8 + x.k * 2 ^ 10 + x.flags * 2 ^ 15 + x.tag * 2 ^ 20)
    ++ padTo 256 x.value ++ padTo 48 x.side ++ List.replicate 8 0

/-- An empty cell (R104). -/
def Cell.empty : Cell := ⟨3, 0, 0, 0, 0, [], []⟩

/-- A scalar cell. -/
def Snap.scalarCell (e : Snap) (reg : Nat) (w : Word) : Cell := ⟨0, reg, 0, e.res.flags.toNat, e.k, bytesOfNat 8 w.toNat, []⟩

/-- The cell of a captured result: a register with the value it will hold, which `c` shows after the landing; a result
without a register is a write of s0. A result that no cell can hold has none (log 24, DESIGN CHOICE). -/
def Snap.cell (e : Snap) (c : Ctx) : Option Cell :=
  match e.res.dest, e.res.val with
  | .scalar ph, .word w => some (e.scalarCell (if e.res.wb then ph else 0) w)
  | .vector ph, .vec _ _ =>
    (if e.res.wb then
      let v := c.v.getD ph VVal.zero
      some ⟨1, ph, v.tag.toNat, e.res.flags.toNat, e.k, v.bytes, sideBytes v⟩
    else some (e.scalarCell 0 0))
  | .pred n, .pred _ _ =>
    (if e.res.wb then some ⟨2, n, 0, e.res.flags.toNat, e.k, bytesOfNat 32 (c.p.getD n 0).toNat, []⟩
    else some (e.scalarCell 0 0))
  | .port k _, .word w => some (e.scalarCell (24 + k) w)
  | .none, _ => some (e.scalarCell 0 0)
  | _, _ => none

/-- Insert by remaining latency. -/
def Snap.insert (e : Snap) : List Snap → List Snap
  | [] => [e]
  | x :: t => if e.k < x.k then e :: x :: t else x :: e.insert t

/-- The cells of a snapshot buffer, by remaining latency; each shows the register as it is after the results before it. -/
def cellsOf (c : Ctx) (l : List Snap) : List Cell :=
  ((l.foldl (fun acc e => e.insert acc) []).foldl (fun (acc : Ctx × List Cell) e =>
    let c := acc.1.landed e.res
    (c, acc.2 ++ (e.cell c).toList)) (c, [])).2

/-- The state registers 0x000 to 0x03F as the image holds them: an unassigned one is zero. -/
def State.sregImage (s : State) : List Byte :=
  bytesOfWords ((List.range 64).map (fun n => if s.ctx.sregAssigned n then s.sreg n else 0))

/-- The parts of the image by offset (R105); parts that are reserved are not written. -/
def State.image (s : State) : List (Nat × List Byte) :=
  let c := s.ctx
  let cells := cellsOf c c.snap
  [(0x00000, bytesOfWords (c.s.toList.set 0 0 ++ (List.range 16).map (fun k => c.win.getD (c.wbase + k) 0)
     ++ List.replicate 7 0 ++ [c.s31])),
   (0x00100, bytesOfWords c.win.toList),
   (0x00500, s.sregImage),
   (0x00700, bytesOfWords c.sg.toList),
   (0x00780, c.f.toList.flatMap (fun x => bytesOfNat 2 x.toNat)),
   (0x007C0, bytesOfWords [w64 ((if c.patBank then 1 else 0) + 2 * c.slot), c.q0.word, c.q1.word, c.q2.word, 0, 0, 0, 0]),
   (0x00800, c.p.toList.flatMap (fun x => bytesOfNat 32 x.toNat)),
   (0x00A00, c.v.toList.flatMap (fun x => bytesOfNat 4 x.tag.toNat)),
   (0x00A80, c.v.toList.flatMap sideBytes),
   (0x01080, bytesOfWords (c.perf.toList ++ List.replicate 21 0)),
   (0x01180, List.replicate 3712 0),
   (0x02000, c.v.toList.flatMap VVal.bytes),
   (0x04000, (cells ++ List.replicate (72 - cells.length) Cell.empty).flatMap Cell.bytes),
   (0x0A000, (List.range 128).flatMap (fun e => (look c.pat e (List.replicate 256 0)).flatMap (fun h => bytesOfNat 2 h.toNat))),
   (0x1A000, padTo 32 (c.tiles.flatMap (fun t => bytesOfNat 4 (s.core.tiles.getD t ⟨0, []⟩).tag.toNat))),
   (0x1A020, List.replicate 24544 0)] ++
  (c.tiles.zipIdx.map (fun e => (0x20000 + 98304 * e.2,
    (List.range 128).flatMap (fun i => ((s.core.tiles.getD e.1 ⟨0, []⟩).row i).flatMap (fun w => bytesOfNat 4 w.toNat)))))

/-- The key of the accesses to a context's image. -/
def Ctx.imageWho (c : Ctx) : Who :=
  { core := none, key := 2 ^ 40 + 4 * c.core + c.slot, stream := 6928, launch := c.launch, agency := c.agency }

/-- Write the parts of an image. -/
def imageWrite (w : Who) (base : Nat) : Nat → List (Nat × List Byte) → E Unit
  | _, [] => pure ()
  | k, (off, bs) :: t => do
    engWriteAll w k (pagesOf (base + off) bs.length) bs
    imageWrite w base (k + 10) t

/-! ## Forced pre-emption (R103) -/

/-- How a pre-emption of one context ends. -/
inductive Preempted where
  | done (s : State)
  | waits (s : State)
  | bad (s : State)
  deriving DecidableEq, Repr

/-- The waits in which a bundle has committed nothing: the boundary before it is a bundle boundary (R101, R103). -/
def WaitKind.boundary : WaitKind → Bool
  | .flag | .barrier | .step | .mwait | .slwait | .twait | .acquire | .port | .fullCq | .postQueue => true
  | _ => false

/-- Whether the focus context stands at a bundle boundary in task mode. What it has queued, posts and pushed words, goes out before its
image is written; until then it issues nothing (log 128, DESIGN CHOICE). -/
def State.preemptible (s : State) : Bool :=
  !s.ctx.sv && s.ctx.posts.isEmpty && s.ctx.pushes.isEmpty && s.ctx.vpld.isEmpty
  && (s.ctx.status == .ready || s.ctx.status == .parked || s.ctx.status == .faulted)
  && (match s.ctx.stallAt with
      | none => true
      | some (_, k) => k.boundary)

/-- Pre-empt the focus context (R103): results are captured, beats complete, the image is written at `ssave`, the core is
free. An image that cannot be written ends the launch (log 24, DESIGN CHOICE). -/
def State.preempt (s : State) : Preempted :=
  let rank := s.ctx.rank s.now
  let held := s.holding
  let s1 := if held then s.switchAway false else s
  let c := s1.ctx
  let waits := s.ctx.status == .parked && (match s.ctx.stallAt with
    | some (_, .mwait) => true
    | _ => false)
  let c := { c with perf := (s.ctx.count 8 1).perf, mwaitAt := if waits then c.mwaitAt else none,
                    mon := if waits then c.mon else none, shadow := Vector.replicate 4 CmdRegs.zero }
  let s1 := { s1 with ctx := c }
  match imageWrite c.imageWho c.ssave.toNat 0 s1.image s1 with
  | .error (.pend f) => .waits (f s)
  | .error (.fault _ log) => .bad (((log s).engForget c.imageWho).endLaunch c.launch)
  | .ok (_, s2) =>
    let k := s2.core
    let k := if k.running = some c.slot then { k with running := none, idleSince := some s2.now } else k
    let k := if k.owner = some c.slot then { k with owner := none, el := Vector.replicate 4 Latch.zero, mode := none } else k
    .done { s2 with core := k, saved := s2.saved ++ [⟨{ c with stallAt := none }, rank, [], false⟩],
                    ctx := Ctx.idle c.core c.slot }

/-- Pre-empt the contexts in a list of places. -/
def State.preemptAll : State → List (Nat × Nat) → Preempted
  | s, [] => .done s
  | s, (n, k) :: t =>
    match (s.focus n k).preempt with
    | .done s' => s'.preemptAll t
    | .waits s' => .waits s'
    | .bad s' => .bad s'

/-- The contexts that a pre-emption of the focus context takes: all of a lockstep launch (R84). -/
def State.preemptSet (s : State) : List (Nat × Nat) :=
  if s.ctx.lock then
    (s.allCtxs.filter (fun c => c.lock && c.launch == s.ctx.launch && c.status.resident)).map (fun c => (c.core, c.slot))
  else [(s.ctx.core, s.ctx.slot)]

/-- Whether the contexts that a pre-emption of the focus context takes all stand at a bundle boundary, none of them having
issued in this cycle before another (R84). -/
def State.commonBoundary (s : State) : Bool :=
  s.preemptSet.all (fun e => (s.focus e.1 e.2).preemptible
    && (!s.ctx.lock || !((s.focus e.1 e.2).ctx.lastIssue == s.now && decide (0 < (s.focus e.1 e.2).ctx.seq))))

/-- FORCED_PREEMPTION of the focus context, at one common boundary of its set. While a page of the image lies in another
package the pre-emption is tried again from the start. -/
def State.forcePreempt (s : State) : State :=
  let set_ := s.preemptSet
  if !s.commonBoundary then s
  else match s.preemptAll set_ with
    | .done t =>
      let t := set_.foldl (fun (t : State) e => match s.ctxAt e.1 e.2 with
        | some c => t.engForget c.imageWho
        | none => t) t
      t.focus s.ctx.core s.ctx.slot
    | .waits t => { s with fab := t.fab, draw := t.draw }
    | .bad t => t.focus s.ctx.core s.ctx.slot

def execForcedPreemption (s : State) : Out := .next s.forcePreempt

/-! ## Restoring (R98, R105, R166, R409, R413) -/

/-- Whether a cell is valid (R104, R105): its word names a register and a latency, and its tag is well formed whatever its file. A cell
whose reserved bits or bytes are not zero is invalid as a record is (R4; log 130, DEDUCED). -/
def cellOk (bs : List Byte) : Bool :=
  let w := (wordsOfBytes 1 bs).headD 0
  let file := bits w 9 8
  let reg := bits w 7 0
  let k := bits w 14 10
  bits w 63 44 == 0 && ((bs.drop 312).take 8).all (fun b => b == 0) && tagOk (BitVec.ofNat 24 (bits w 43 20))
  && (file == 3 || (decide (1 ≤ k) && decide (k ≤ 23) && (match file with
    | 0 => !(decide (8 ≤ reg) && decide (reg ≤ 23)) && !(decide (32 ≤ reg) && decide (reg ≤ 127))
    | 1 => decide (reg < 32)
    | _ => decide (reg < 16))))

/-- The tickets of captured pushes to a port, in order. -/
def portTickets (l : List Snap) (k : Nat) : List Nat := l.filterMap (fun e => match e.res.dest with
  | .port p t => if p = k then some t else none
  | _ => none)

/-- A vector value from bytes: of the sidecar, the entries of the tag's groups; the others read as zero (R63). -/
def vecOfBytes (bs side : List Byte) (tag : Nat) : VVal :=
  let t : BitVec 24 := BitVec.ofNat 24 tag
  let n := if tagGrp t = 0 then 0 else groupCount (tagF t) (tagGrp t)
  ⟨dataOfBytes bs, t, Vector.ofFn (fun i : Fin 16 =>
    if i.val < n then BitVec.ofNat 24 (natOfBytes ((side.drop (3 * i.val)).take 3)) else 0)⟩

/-- A captured result read back from its cell. -/
def snapOfCell (bs : List Byte) (old : List Snap) (nth : Nat) : Option Snap :=
  let w := (wordsOfBytes 1 bs).headD 0
  let v := (bs.drop 8).take 256
  let reg := bits w 7 0
  let res := fun (d : Dest) (x : ResVal) => (⟨bits w 14 10, ⟨0, 0, 0, d, true, x, BitVec.ofNat 5 (bits w 19 15), false⟩⟩ : Snap)
  let word := ResVal.word (w64 (natOfBytes (v.take 8)))
  match bits w 9 8 with
  | 0 =>
    if 24 ≤ reg ∧ reg ≤ 30 then
      (match (portTickets old (reg - 24))[nth]? with
       | some t => some (res (.port (reg - 24) t) word)
       | none => some (res .none word))
    else some (res (if reg = 0 then .none else .scalar reg) word)
  | 1 => some (res (.vector reg) (.vec (vecOfBytes v ((bs.drop 264).take 48) (bits w 43 20)) fullMask))
  | 2 => some (res (if reg = 0 then .none else .pred reg)
      (.pred (BitVec.ofNat 256 (natOfBytes (v.take 32))) (BitVec.allOnes 256)))
  | _ => none

/-- Whether a captured result has no cell: it stays with the saved context (log 24, DESIGN CHOICE). -/
def Snap.residue (e : Snap) : Bool := match e.res.dest with
  | .sreg _ | .seed _ | .mode | .loop | .brl | .wbase => true
  | _ => false

/-- Cut bytes into n pieces of a size. -/
def piecesOf (size : Nat) : Nat → List Byte → List (List Byte)
  | 0, _ => []
  | n + 1, bs => bs.take size :: piecesOf size n (bs.drop size)

/-- The cells as captured results. -/
def snapsOfCells (cells : List (List Byte)) (old : List Snap) : List Snap :=
  (cells.foldl (fun (acc : List Snap × List Nat) bs =>
    let reg := bits ((wordsOfBytes 1 bs).headD 0) 7 0
    let nth := acc.2.count reg
    (acc.1 ++ (snapOfCell bs old nth).toList, acc.2 ++ [reg])) ([], [])).1

/-- The context that an image gives, with what only the saved context holds; none when the image is refused (R105). -/
def Ctx.ofImage (c : Ctx) (img : Nat → Nat → List Byte) : Option Ctx :=
  let ws := fun (off n : Nat) => wordsOfBytes n (img off (8 * n))
  let tags := wordsOfBytes 0 [] ++ (piecesOf 4 32 (img 0xA00 128)).map (fun b => w64 (natOfBytes b))
  let tileTags := (piecesOf 4 c.tiles.length (img 0x1A000 32)).map natOfBytes
  let cells := piecesOf 320 72 (img 0x4000 23040)
  let sr := ws 0x500 64
  let s := ws 0 32
  let w := ws 0x7C0 4
  let ok := tags.all (fun t => tagOk (BitVec.ofNat 24 t.toNat)) && tileTags.all (fun t => tileTagOk (BitVec.ofNat 24 t))
    && cells.all cellOk
  if !ok then none
  else
    let vb := piecesOf 256 32 (img 0x2000 8192)
    let sb := piecesOf 48 32 (img 0xA80 1536)
    let pats := piecesOf 512 128 (img 0xA000 65536)
    let n := fun (k : Nat) => (sr.getD k 0)
    some { c with
      s := Vector.ofFn (fun i : Fin 8 => if i.val = 0 then 0 else s.getD i.val 0), s31 := s.getD 31 0,
      win := Vector.ofFn (fun i : Fin 128 => (ws 0x100 128).getD i.val 0),
      sg := Vector.ofFn (fun i : Fin 16 => (ws 0x700 16).getD i.val 0),
      f := Vector.ofFn (fun i : Fin 32 => ((halvesOfBytes 32 (img 0x780 64)).getD i.val 0)),
      patBank := bitAt (w.getD 0 0) 0,
      q0 := qOfWord (w.getD 1 0), q1 := qOfWord (w.getD 2 0), q2 := qOfWord (w.getD 3 0), cursor := 0,
      p := Vector.ofFn (fun i : Fin 16 => if i.val = 0 then BitVec.allOnes 256
        else BitVec.ofNat 256 (natOfBytes ((piecesOf 32 16 (img 0x800 512)).getD i.val []))),
      v := Vector.ofFn (fun i : Fin 32 => vecOfBytes (vb.getD i.val []) (sb.getD i.val []) (tags.getD i.val 0).toNat),
      perf := Vector.ofFn (fun i : Fin 11 => (ws 0x1080 11).getD i.val 0),
      pat := ((pats.map (fun b => halvesOfBytes 256 b)).zipIdx.filter (fun e => e.1.any (fun h => h != 0))).map
        (fun e => (e.2, e.1)),
      snap := snapsOfCells cells c.snap ++ c.snap.filter Snap.residue,
      ie := bitAt (n 0) 2, il := c.companion || bitAt (n 0) 0,
      fpflags := BitVec.ofNat 5 (n 1).toNat, fptrap := BitVec.ofNat 5 (n 2).toNat, lc := n 3, ec := n 4,
      vrb := BitVec.ofNat 4 (n 5).toNat, wsp := n 6, wbase := Nat.min 112 (n 7).toNat, budget := n 0x19, bleft := n 0x1A,
      epcq0 := n 0x20 &&& 0x3FFF1, epcq1 := n 0x21 &&& 0x3FFF1, epcq2 := n 0x22 &&& 0x3FFF1,
      tcause := n 0x23 &&& 0xBFF, tmask := BitVec.ofNat 4 (n 0x24).toNat,
      taddr := n 0x25, tdetail := n 0x26, tvec := n 0x27, ssave := n 0x28, bkpt0 := n 0x29 &&& 0x3FFF1,
      bkpt1 := n 0x2A &&& 0x3FFF1, ienable := BitVec.ofNat 2 (n 0x2B).toNat,
      ipend := BitVec.ofNat 2 (n 0x2C).toNat ||| c.ipend &&& 0b10, cqsrc := n 0x30, rkey := n 0x32, rctr := n 0x33 }

/-- The parts of the image that are read, by offset and size. -/
def imageParts (c : Ctx) : List (Nat × Nat) :=
  [(0x0, 0x1180), (0x2000, 0x2000), (0x4000, 23040), (0xA000, 65536), (0x1A000, 32)]
  ++ c.tiles.zipIdx.map (fun e => (0x20000 + 98304 * e.2, 98304))

/-- Read the parts of an image. -/
def imageRead (w : Who) (base : Nat) : Nat → List (Nat × Nat) → E (List (Nat × List Byte))
  | _, [] => pure []
  | k, (off, n) :: t => do
    let bs ← engReadAll w k (pagesOf (base + off) n)
    let r ← imageRead w base (k + 10) t
    pure ((off, bs) :: r)

/-- n bytes at an offset of the parts. -/
def partsAt (l : List (Nat × List Byte)) (off n : Nat) : List Byte :=
  match l.find? (fun e => decide (e.1 ≤ off) && decide (off < e.1 + e.2.length)) with
  | some e => (e.2.drop (off - e.1)).take n
  | none => []

/-- The posts and the signal that came while the context was away go into its image before it is read (R166, R409). -/
def imagePatch (w : Who) (v : Saved) : E Unit := do
  let base := v.ctx.ssave.toNat
  let fb ← engRead w 1000 (base + 0x780) 64
  let f : List (BitVec 16) := v.posts.foldl (fun (l : List (BitVec 16)) e => l.set e.1 (satFlag (l.getD e.1 0) e.2)) (halvesOfBytes 32 fb)
  (if v.posts.isEmpty then pure () else engWrite w 1001 (base + 0x780) (f.flatMap (fun x => bytesOfNat 2 x.toNat)))
  (if v.signal then do
    let b ← engRead w 1002 (base + 0x500 + 8 * 0x2C) 1
    engWrite w 1003 (base + 0x500 + 8 * 0x2C) (bytesOfNat 1 (natOfBytes b % 2 + 2 * (natOfBytes b / 2) ||| 1))
  else pure ())

/-- Whether posts or a SIGNAL came to a saved context that its image does not show yet. -/
def Saved.owed (v : Saved) : Bool := v.signal || !v.posts.isEmpty

/-- What came to a saved context goes into its image as it acts (R166, R409); while a page of the image lies in another package the
answers are waited for. -/
def State.imagePatched (s : State) (v : Saved) : State :=
  match imagePatch v.ctx.imageWho v s with
  | .ok (_, t) =>
    let t := t.engForget v.ctx.imageWho
    { t with saved := t.saved.map (fun x => if x == v then { x with posts := [], signal := false } else x) }
  | .error (.pend f) => f s
  | .error (.fault _ _) => s

/-- Whether an image can be patched now: no fault, and no answer is awaited. -/
def State.patchable (s : State) (v : Saved) : Bool :=
  v.owed && s.fab.out.all (fun o => !(o.core == 255 && o.slot == v.ctx.imageWho.key && o.answer.isNone))
    && (match imagePatch v.ctx.imageWho v s with
        | .error (.fault _ _) => false
        | _ => true)

/-- Read an image back. -/
def restoreE (w : Who) (v : Saved) : E (List (Nat × List Byte)) := do
  imagePatch w v
  imageRead w v.ctx.ssave.toNat 2000 (imageParts v.ctx)

/-- Whether a context was stopped for having run four times its stated run (R101). -/
def Ctx.overran (c : Ctx) : Bool :=
  let r := bits c.budget 62 0
  !bitAt c.budget 63 && decide (0 < r) && decide (4 * r ≤ c.held)

/-- A saved context with its launch's place on the core: whether its slot is free and no lockstep launch holds its core; one of a
lockstep launch takes its core exclusively (R83, R413). -/
def State.restorable (s : State) (c : Ctx) : Bool :=
  s.allCtxs.all (fun x => !(x.core == c.core && x.status != .free && (x.slot == c.slot || c.lock || x.lock)))

/-- A saved context is read back from its image into its slot; it is a candidate with the rank it had. A refused image, or one
that cannot be read, ends the launch (R105). -/
def State.restoreOne (s : State) (v : Saved) : Preempted :=
  let c := v.ctx
  let w := c.imageWho
  let gone := fun (s : State) => { s with saved := s.saved.erase v }
  match restoreE w v s with
  | .error (.pend f) => .waits (f s)
  | .error (.fault _ log) => .bad (((log s).engForget w).endLaunch c.launch)
  | .ok (parts, s1) =>
    let s1 := s1.engForget w
    match c.ofImage (partsAt parts) with
    | none =>
      .bad ((s1.endLaunch c.launch).flowsFaulted c.launch)
    | some c' =>
      let s1 := gone s1
      let kc := s1.coreAt c.core
      let tiles := c.tiles.zipIdx.foldl (fun (ts : Vector Tile 8) e =>
        let bs := partsAt parts (0x20000 + 98304 * e.2) 98304
        let tag := BitVec.ofNat 24 (natOfBytes ((partsAt parts 0x1A000 32).drop (4 * e.2) |>.take 4))
        let rows := (piecesOf 768 128 bs).zipIdx.filterMap (fun r =>
          let ws := (piecesOf 4 192 r.1).map (fun b => BitVec.ofNat 32 (natOfBytes b))
          if ws.all (fun x => x == 0) then none else some (r.2, ws))
        ts.setIfInBounds e.1 ⟨tag, rows⟩) kc.tiles
      let s1 := s1.setCore { kc with tiles := tiles }
      let ran := c.overran
      let c' := { c' with
        status := if c.pfault.isSome then .faulted else .ready, stallAt := none, issuedQ := false,
        lastIssue := s1.now - msCycles * (v.rank - c.prio),
        bleft := if ran then w64 (bits c'.budget 62 0) else c'.bleft, held := if ran then 0 else c.held }
      let s1 := s1.putCtx c'
      .done (match c.pfault with
      | some f => s1.report 11 f.req.taddr
      | none => s1)

/-- Restore saved contexts one after another. -/
def State.restoreAll : State → List Saved → Preempted
  | s, [] => .done s
  | s, v :: t => match s.restoreOne v with
    | .done s' => s'.restoreAll t
    | r => r

/-- The saved contexts that come back with one of them: all of a lockstep launch, in one cycle (R83). -/
def State.restoreSet (s : State) (v : Saved) : List Saved :=
  if v.ctx.lock then s.saved.filter (fun x => x.ctx.lock && x.ctx.launch == v.ctx.launch) else [v]

/-- CONTEXT_RESTORE (R105, R413): the k-th saved context, and with it those of its lockstep launch, comes back to its slot when
that is free. While a page of an image lies in another package the restore is tried again from the start. -/
def State.restore (s : State) (k : Nat) : State :=
  match s.saved[k]? with
  | none => s
  | some v =>
    let vs := s.restoreSet v
    if !vs.all (fun x => s.restorable x.ctx) then s
    else match s.restoreAll vs with
      | .done t => t
      | .waits t => { s with fab := t.fab, draw := t.draw }
      | .bad t => t

def execContextRestore (k : Nat) (s : State) : Out := .next (s.restore k)

/-! ## The firmware's answer to a page fault (R100, R219, R345, R373) -/

/-- The focus context goes on after its page fault was answered. When nothing holds the core it runs in 24 cycles. -/
def State.goOn (s : State) : State :=
  let s := { s with ctx := { s.ctx with status := .ready, pfault := none } }
  if s.core.running.isSome then s else s.switchIn s.ctx.slot

/-- The answer for a context. -/
def State.ctxAnswer (s : State) (mapped : Bool) : State :=
  match s.ctx.pfault with
  | none => s
  | some f =>
    if s.ctx.status ≠ .faulted then s
    else if mapped then
      ({ s with ctx := { s.ctx with tcause := f.tcause, tmask := f.tmask, taddr := f.taddr, tdetail := f.detail,
                                    cursor := if f.req.cause = cSpill then bits f.req.detail 7 1 else 0 } }).goOn
    else if s.ctx.sv then ({ s with ctx := { s.ctx.runOut with pfault := none } }).doubleFault f.req f.mask
    else match f.defer, s.ctx.bind with
    | true, some b => (({ s with ctx := { s.ctx.runOut with pfault := none } }).deferFault f.req f.mask).promote b.h b.slice
    | _, _ => ({ s with ctx := s.ctx.enter f.req f.mask }).goOn

/-- The answer for a copy channel (R219): it resumes, or the fault stands for the waits of its issuer. -/
def State.chanAnswer (s : State) (ch : Nat) (mapped : Bool) : State :=
  let c := s.core.chan ch
  if !(c.flt && c.offered) then s
  else if mapped then s.chanResume ch
  else s.setChan ch { c with offered := false }

def execPageFaultAnswer (who : Faulted) (mapped : Bool) (s : State) : Out :=
  match who with
  | .context core slot => .next (((s.focus core slot).ctxAnswer mapped).focus s.ctx.core s.ctx.slot)
  | .channel core ch => .next (((s.focusCore core).chanAnswer ch mapped).focus s.ctx.core s.ctx.slot)
  | .flow r => .next (s.flowAnswer r mapped)
  | .sweep h => .next (s.sweepAnswer h mapped)

end Sys2Proof.Machine
end

