-- ==== Sys2Proof/Machine/MemInstr.lean ====
section
/-! DEFINITION. Loads, stores, gathers, scatters, atomics, sync objects, fences, maintenance and PHASE (spec/07 R146, R147;
spec/10 R187 to R201; spec/06 R116, R119). -/

namespace Sys2Proof.Machine

/-! ## Addresses -/

/-- The value a scalar source would give, without popping a port. -/
def peekS (byp : Bool) (n : BitVec 5) : M Word := fun s =>
  let v := if byp then (s.ctx.lat.getD (n.toNat % 4) (.scalar 0)).word
    else if n.toNat = 30 ∧ s.ctx.companion then
      match (s.queue (chamberOf s.ctx.core)).items with
      | e :: _ => e.word
      | [] => 0
    else s.ctx.scalar n.toNat
  .ok (v, s)

/-- Whether an address is near the context: its own scratchpad, or a companion's local memory (R193, R381). -/
def isNear (c : Ctx) (ea : Word) : Bool :=
  decide (ea.toNat < 2 ^ 32) && (!c.companion || ea.toNat / 2 ^ 24 == 1)

/-- The base of an access, popped at the latency that the access will have (R383). -/
def readBase (p : Pos) (byp : Bool) (base : BitVec 5) (add : Word) (latNear latFar : Nat) : M Word := do
  let v ← peekS byp base
  let c ← getCtx
  readS p (if isNear c (v + add) then latNear else latFar) byp base

/-! ## Scalar loads and stores (R146, R147) -/

/-- A scalar load of n bytes. -/
def ldM (p : Pos) (n : Nat) (signed : Bool) (d base : BitVec 5) (pol : BitVec 3) (off : BitVec 13) : M Unit := do
  let b ← readBase p p.bypA base (effAddr p 0 off) 4 6
  let ea := effAddr p b off
  let (bs, lat) ← loadM ea.toNat n n (sizeCode n) (policyOf pol) (n == 8) 4 6
  let v := natOfBytes bs
  writeS p lat d (if signed then sextTo (8 * n) v else w64 v)

/-- A scalar store of the low n bytes of s[d]. -/
def stM (p : Pos) (n : Nat) (d base : BitVec 5) (pol : BitVec 3) (off : BitVec 13) : M Unit := do
  let b ← readS p 1 p.bypA base
  let v ← readS p 1 p.bypB d
  storeM (effAddr p b off).toNat n (sizeCode n) (policyOf pol) true (bytesOfNat n v.toNat)

def execLdB (p : Pos) (d base : BitVec 5) (pol : BitVec 3) (off : BitVec 13) (s : State) : Out :=
  finish p (ldM p 1 true d base pol off) s
def execLdH (p : Pos) (d base : BitVec 5) (pol : BitVec 3) (off : BitVec 13) (s : State) : Out :=
  finish p (ldM p 2 true d base pol off) s
def execLdW (p : Pos) (d base : BitVec 5) (pol : BitVec 3) (off : BitVec 13) (s : State) : Out :=
  finish p (ldM p 4 true d base pol off) s
def execLdD (p : Pos) (d base : BitVec 5) (pol : BitVec 3) (off : BitVec 13) (s : State) : Out :=
  finish p (ldM p 8 true d base pol off) s
def execLdBN (p : Pos) (d base : BitVec 5) (pol : BitVec 3) (off : BitVec 13) (s : State) : Out :=
  finish p (ldM p 1 false d base pol off) s
def execLdHN (p : Pos) (d base : BitVec 5) (pol : BitVec 3) (off : BitVec 13) (s : State) : Out :=
  finish p (ldM p 2 false d base pol off) s
def execLdWN (p : Pos) (d base : BitVec 5) (pol : BitVec 3) (off : BitVec 13) (s : State) : Out :=
  finish p (ldM p 4 false d base pol off) s
def execStB (p : Pos) (d base : BitVec 5) (pol : BitVec 3) (off : BitVec 13) (s : State) : Out :=
  finish p (stM p 1 d base pol off) s
def execStH (p : Pos) (d base : BitVec 5) (pol : BitVec 3) (off : BitVec 13) (s : State) : Out :=
  finish p (stM p 2 d base pol off) s
def execStW (p : Pos) (d base : BitVec 5) (pol : BitVec 3) (off : BitVec 13) (s : State) : Out :=
  finish p (stM p 4 d base pol off) s
def execStD (p : Pos) (d base : BitVec 5) (pol : BitVec 3) (off : BitVec 13) (s : State) : Out :=
  finish p (stM p 8 d base pol off) s

/-! ## Vector loads and stores (R194) -/

def execLdv (p : Pos) (d base : BitVec 5) (pol : BitVec 3) (off : BitVec 13) (s : State) : Out :=
  finish p (do
    let b ← readS p 5 p.bypA base
    let (bs, lat) ← loadM (effAddr p b off).toNat 256 64 4 (policyOf pol) false 5 8
    writeV p lat d (VVal.mk' (dataOfBytes bs) 0)) s

def execStv (p : Pos) (d base : BitVec 5) (pol : BitVec 3) (off : BitVec 13) (s : State) : Out :=
  finish p (do
    let b ← readS p 1 p.bypA base
    let v ← readV false d
    storeM (effAddr p b off).toNat 64 4 (policyOf pol) true v.bytes) s

/-! ## Gathers and scatters (R195) -/

/-- The enabled lanes of a gather or scatter with their addresses. -/
def laneAddrs (base : Word) (idx : VVal) (pred : BitVec 256) (e : Nat) : List (Nat × Nat) :=
  (List.range (256 / e)).filterMap (fun i =>
    if enabled pred (8 * e) i then some (i, (base + w64 (idx.lane (8 * e) i * e)).toNat) else none)

/-- One part for each lane, in ascending order: the first lane that fails traps. -/
def laneParts (e : Nat) (write : Bool) : List (Nat × Nat) → M (List Part)
  | [] => pure []
  | (_, va) :: t => do
    let ps ← planAccess va e 1 0 write
    noMcast false write ps
    let r ← laneParts e write t
    pure (ps ++ r)

/-- Load the lanes that lie in this package, each checked as it is reached: of several poisoned lanes the lowest-numbered one's sector
is named, whatever their addresses (R195, R206; log 126, DESIGN CHOICE). -/
def gatherHere (pol : Policy) (e : Nat) : List (Nat × Nat) → M (List (Part × List Byte) × Bool)
  | [] => pure ([], false)
  | (_, va) :: t => do
    let ps ← planAccess va e 1 0 false
    noMcast false false ps
    let (here, late) ← loadHere pol ps
    let (r, late') ← gatherHere pol e t
    pure (ps.zip here ++ r, late || late')

def execVgth (p : Pos) (d a b : BitVec 5) (pol : BitVec 3) (pred : BitVec 4) (size : BitVec 2) (s : State) : Out :=
  finish p (do
    let e := 2 ^ size.toNat
    let base ← readS p 10 p.bypA a
    let idx ← readV false b
    let en ← readPred pred
    alignTo base.toNat e size.toNat
    let lanes := laneAddrs base idx en e
    let (qs, late) ← gatherHere (policyOf pol) e lanes
    let bs ← loadThere (policyOf pol) none 0 qs
    let lat := if nearParts (qs.map (·.1)) then 10 else 14
    lateData lat late
    -- the bytes of disabled lanes are masked out
    let data := (List.range (256 / e)).flatMap (fun i =>
      match lanes.findIdx? (fun l => l.1 == i) with
      | some k => (bs.drop (k * e)).take e
      | none => List.replicate e 0)
    writeV p lat d (VVal.mk' (dataOfBytes data) 0) (elemMask en (8 * e))) s

def execVsct (p : Pos) (d a b : BitVec 5) (pol : BitVec 3) (pred : BitVec 4) (size : BitVec 2) (s : State) : Out :=
  finish p (do
    let e := 2 ^ size.toNat
    let base ← readS p 1 p.bypA a
    let v ← readV false d
    let idx ← readV false b
    let en ← readPred pred
    alignTo base.toNat e size.toNat
    let lanes := laneAddrs base idx en e
    let ps ← laneParts e true lanes
    let qs := ps.zip (lanes.map (fun l => bytesOfNat e (v.lane (8 * e) l.1)))
    notifyReady ps
    storeHere (policyOf pol) qs
    storeThere (policyOf pol) 0 qs) s

/-! ## Atomics (R196) -/

def execAmo (p : Pos) (d a b : BitVec 5) (op : BitVec 4) (dword far : Bool) (s : State) : Out :=
  finish p (do
    let n := if dword then 8 else 4
    let ea ← readBase p p.bypA a 0 8 12
    let c ← getCtx
    let pop := if isNear c ea then 8 else 12
    let y ← readS p pop p.bypB b
    let expect ← (if op = 9 then readOld p pop d else pure 0)
    let (old, lat) ← amoM ea.toNat n op.toNat far y expect
    writeS p lat d (sextTo (8 * n) old)) s

/-! ## Sync objects and fences -/

def execAcqX (p : Pos) (a : BitVec 5) (s : State) : Out := finish p (acqM .acqX p a) s
def execAcqS (p : Pos) (a : BitVec 5) (s : State) : Out := finish p (acqM .acqS p a) s
def execRel (p : Pos) (a : BitVec 5) (s : State) : Out := finish p (relM p a) s

/-- FENCE.core (R119). -/
def execFenceCore (p : Pos) (s : State) : Out := finish p (settle false) s

/-- FENCE.dev (R119). -/
def execFenceDev (p : Pos) (s : State) : Out :=
  finish p (do
    settle false
    needL1
    drained dropL1
    freezeAfter) s

/-- FENCE.fab (R119). -/
def execFenceFab (p : Pos) (s : State) : Out :=
  finish p (do
    settle true
    needL1
    drained dropL1
    freezeAfter) s

/-! ## Maintenance (R199 to R201) -/

/-- The bytes of a range, cut at 2^57. -/
def rangeEnd (a n : Word) : Nat := Nat.min (a.toNat + n.toNat) (2 ^ 57)

def execInvro (p : Pos) (a b : BitVec 5) (s : State) : Out :=
  finish p (do
    let x ← readS p 1 p.bypA a
    let n ← readS p 1 p.bypB b
    fun s => .ok ((), { s with ro := s.ro.filter (fun l =>
      !(l.chamber == chamberOf s.ctx.core && l.launch == s.ctx.launch
        && decide (x.toNat < rangeEnd x n) && decide (x.toNat < 32 * l.sector + 32)
        && decide (32 * l.sector < rangeEnd x n))) })) s

def execFlushr (p : Pos) (a b : BitVec 5) (s : State) : Out :=
  finish p (do
    let x ← readS p 1 p.bypA a
    let n ← readS p 1 p.bypB b
    needL1
    performed State.farClear (fun s => .ok ((), s.flushCore s.ctx.core (fun l => l.launch == s.ctx.launch
      && decide (x.toNat < rangeEnd x n) && l.overlaps x.toNat (rangeEnd x n))))) s

/-- The granules allotted to any launch on a core. -/
def State.allotted (s : State) (core : Nat) : List (Nat × Nat) :=
  ((s.allCtxs.filter (fun c => c.core == core && c.status != .free)).map (fun c => (c.scrBase, c.scrSize)))
  ++ ((s.saved.filter (fun v => v.ctx.core == core)).map (fun v => (v.ctx.scrBase, v.ctx.scrSize)))

/-- The lines that a smaller L1 gives up: which lines lie in the part given up is open (log 10, DESIGN CHOICE), and no more
stay than fit. -/
def givenUp (draw old new : Nat) (l : List L1Line) : List L1Line × List L1Line :=
  let marked := l.zipIdx.map (fun x => (x.1, decide (Config.pick (draw + x.2) % old < new)))
  let stay := (marked.filter (·.2)).map (·.1)
  (stay.take (1024 * new), stay.drop (1024 * new) ++ (marked.filter (fun x => !x.2)).map (·.1))

def execPhase (p : Pos) (a : BitVec 5) (s : State) : Out :=
  finish p (do
    let x ← readS p 1 p.bypA a
    let n := x.toNat
    trapIf (decide (4 < n)) cProtect 0 0x20
    fun s =>
      let old := s.core.l1Size
      let lo := 2 ^ 21 - n * 2 ^ 17
      let hi := 2 ^ 21 - old * 2 ^ 17
      if decide (old < n) && (s.allotted s.ctx.core).any (fun g => decide (g.1 < hi) && decide (lo < g.1 + g.2)) then
        .error (.trap ⟨cProtect, 0, 0x20⟩)
      else if s.core.phaseEnd.isSome then .error (.wait .phase)
      else
        let (stay, go) := if n < old then givenUp s.draw old n s.core.l1 else (s.core.l1, [])
        let s := go.foldl (fun s l => s.writeBack l (BitVec.allOnes 128) s.ctx.agent) s
        -- the bytes given back to the scratchpad read zero
        let inside := fun (k : Nat) => decide (n < old) && decide (scrKey s.ctx.core hi ≤ k)
          && decide (k < scrKey s.ctx.core lo)
        .ok ((), { s with scr := s.scr.filter (fun e => !inside e.1), scrBad := s.scrBad.filter (fun k => !inside k),
                          draw := s.draw + go.length + stay.length,
                          core := { s.core with l1 := stay, l1Next := n, phaseEnd := some (s.now + 2049) } })) s

/-- PREF (R201). -/
def execPref (p : Pos) (base : BitVec 5) (pol : BitVec 3) (off : BitVec 13) (s : State) : Out :=
  finish p (do
    let b ← readS p 1 p.bypA base
    let ea := (effAddr p b off).toNat
    let pol := policyOf pol
    fun s =>
      if ea < 2 ^ 32 ∨ pol = .str ∨ pol = .far then .ok ((), s)
      else match s.locate ea 1 false with
        | (.ok (.mem pa false), s) =>
          if pol = .l1 ∧ 0 < s.core.l1Size then
            (if s.closed then .error (.wait .phase)
             else .ok ((), (s.l1Load s.ctx.launch (ea / 32 * 32) 32 (pa / 32 * 32)).2.2.2))
          else if pol = .ro then .ok ((), (s.roLoad (chamberOf s.ctx.core) s.ctx.launch ea 1 pa).2.2)
          else .ok ((), (s.homeRead (pa / 32 * 32) 32 .l2 s.ctx.agency).2)
        | (_, _) => .ok ((), s)) s

end Sys2Proof.Machine
end

