-- ==== Sys2Proof/Machine/Dispatch.lean ====
section
/-! DEFINITION. One arm per instruction: each is one direct call of its meaning. -/

namespace Sys2Proof.Machine

def exec (i : Instr) (s : State) : Host.Outcome State Fault Refusal :=
  match i with
  | .add p d a b => Sys2Proof.Machine.execAdd p d a b s
  | .sub p d a b => Sys2Proof.Machine.execSub p d a b s
  | .and p d a b => Sys2Proof.Machine.execAnd p d a b s
  | .or p d a b => Sys2Proof.Machine.execOr p d a b s
  | .xor p d a b => Sys2Proof.Machine.execXor p d a b s
  | .andn p d a b => Sys2Proof.Machine.execAndn p d a b s
  | .shl p d a b => Sys2Proof.Machine.execShl p d a b s
  | .shr p d a b => Sys2Proof.Machine.execShr p d a b s
  | .sar p d a b => Sys2Proof.Machine.execSar p d a b s
  | .min p d a b => Sys2Proof.Machine.execMin p d a b s
  | .max p d a b => Sys2Proof.Machine.execMax p d a b s
  | .minn p d a b => Sys2Proof.Machine.execMinn p d a b s
  | .maxn p d a b => Sys2Proof.Machine.execMaxn p d a b s
  | .sel p d a b => Sys2Proof.Machine.execSel p d a b s
  | .slt p cc d a b => Sys2Proof.Machine.execSlt p cc d a b s
  | .mul p d a b => Sys2Proof.Machine.execMul p d a b s
  | .mulh p d a b => Sys2Proof.Machine.execMulh p d a b s
  | .mulhn p d a b => Sys2Proof.Machine.execMulhn p d a b s
  | .div p d a b => Sys2Proof.Machine.execDiv p d a b s
  | .divn p d a b => Sys2Proof.Machine.execDivn p d a b s
  | .rem p d a b => Sys2Proof.Machine.execRem p d a b s
  | .remn p d a b => Sys2Proof.Machine.execRemn p d a b s
  | .clz p d a => Sys2Proof.Machine.execClz p d a s
  | .ctz p d a => Sys2Proof.Machine.execCtz p d a s
  | .popc p d a => Sys2Proof.Machine.execPopc p d a s
  | .addSat p d a b => Sys2Proof.Machine.execAddSat p d a b s
  | .subSat p d a b => Sys2Proof.Machine.execSubSat p d a b s
  | .addI p d a imm => Sys2Proof.Machine.execAddI p d a imm s
  | .andI p d a imm => Sys2Proof.Machine.execAndI p d a imm s
  | .orI p d a imm => Sys2Proof.Machine.execOrI p d a imm s
  | .xorI p d a imm => Sys2Proof.Machine.execXorI p d a imm s
  | .shlI p d a sh => Sys2Proof.Machine.execShlI p d a sh s
  | .shrI p d a sh => Sys2Proof.Machine.execShrI p d a sh s
  | .sarI p d a sh => Sys2Proof.Machine.execSarI p d a sh s
  | .minI p d a imm => Sys2Proof.Machine.execMinI p d a imm s
  | .maxI p d a imm => Sys2Proof.Machine.execMaxI p d a imm s
  | .mulI p d a imm => Sys2Proof.Machine.execMulI p d a imm s
  | .lih p d a imm => Sys2Proof.Machine.execLih p d a imm s
  | .bfx p d a len pos => Sys2Proof.Machine.execBfx p d a len pos s
  | .bfi p d a len pos => Sys2Proof.Machine.execBfi p d a len pos s
  | .br p a b cc annul disp => Sys2Proof.Machine.execBr p a b cc annul disp s
  | .brp p pr cc annul disp => Sys2Proof.Machine.execBrp p pr cc annul disp s
  | .brl p annul disp => Sys2Proof.Machine.execBrl p annul disp s
  | .loop p a b => Sys2Proof.Machine.execLoop p a b s
  | .j p disp => Sys2Proof.Machine.execJ p disp s
  | .call p frame disp => Sys2Proof.Machine.execCall p frame disp s
  | .callr p a frame => Sys2Proof.Machine.execCallr p a frame s
  | .jr p a => Sys2Proof.Machine.execJr p a s
  | .ret p frame => Sys2Proof.Machine.execRet p frame s
  | .yield p n => Sys2Proof.Machine.execYield p n s
  | .endTask p => Sys2Proof.Machine.execEndTask p s
  | .trap p code => Sys2Proof.Machine.execTrap p code s
  | .eret p => Sys2Proof.Machine.execEret p s
  | .modeI p => Sys2Proof.Machine.execModeI p s
  | .modeE p => Sys2Proof.Machine.execModeE p s
  | .srr p d r => Sys2Proof.Machine.execSrr p d r s
  | .srw p a r => Sys2Proof.Machine.execSrw p a r s
  | .srs p a r => Sys2Proof.Machine.execSrs p a r s
  | .src p a r => Sys2Proof.Machine.execSrc p a r s
  | .waitf p f n => Sys2Proof.Machine.execWaitf p f n s
  | .postf p f n => Sys2Proof.Machine.execPostf p f n s
  | .postr p f a n => Sys2Proof.Machine.execPostr p f a n s
  | .ftest p d f n => Sys2Proof.Machine.execFtest p d f n s
  | .gnew p d a => Sys2Proof.Machine.execGnew p d a s
  | .join p a => Sys2Proof.Machine.execJoin p a s
  | .leave p a => Sys2Proof.Machine.execLeave p a s
  | .barw p a => Sys2Proof.Machine.execBarw p a s
  | .bara p a => Sys2Proof.Machine.execBara p a s
  | .barg p d a => Sys2Proof.Machine.execBarg p d a s
  | .step p a => Sys2Proof.Machine.execStep p a s
  | .monitor p a => Sys2Proof.Machine.execMonitor p a s
  | .mwait p a => Sys2Proof.Machine.execMwait p a s
  | .ldB p d base pol off => Sys2Proof.Machine.execLdB p d base pol off s
  | .ldH p d base pol off => Sys2Proof.Machine.execLdH p d base pol off s
  | .ldW p d base pol off => Sys2Proof.Machine.execLdW p d base pol off s
  | .ldD p d base pol off => Sys2Proof.Machine.execLdD p d base pol off s
  | .ldBN p d base pol off => Sys2Proof.Machine.execLdBN p d base pol off s
  | .ldHN p d base pol off => Sys2Proof.Machine.execLdHN p d base pol off s
  | .ldWN p d base pol off => Sys2Proof.Machine.execLdWN p d base pol off s
  | .stB p d base pol off => Sys2Proof.Machine.execStB p d base pol off s
  | .stH p d base pol off => Sys2Proof.Machine.execStH p d base pol off s
  | .stW p d base pol off => Sys2Proof.Machine.execStW p d base pol off s
  | .stD p d base pol off => Sys2Proof.Machine.execStD p d base pol off s
  | .ldv p d base pol off => Sys2Proof.Machine.execLdv p d base pol off s
  | .stv p d base pol off => Sys2Proof.Machine.execStv p d base pol off s
  | .ldq p d a b pol => Sys2Proof.Machine.execLdq p d a b pol s
  | .stq p d a b pol => Sys2Proof.Machine.execStq p d a b pol s
  | .vgth p d a b pol pred size => Sys2Proof.Machine.execVgth p d a b pol pred size s
  | .vsct p d a b pol pred size => Sys2Proof.Machine.execVsct p d a b pol pred size s
  | .amo p d a b op dword far => Sys2Proof.Machine.execAmo p d a b op dword far s
  | .acqX p a => Sys2Proof.Machine.execAcqX p a s
  | .acqS p a => Sys2Proof.Machine.execAcqS p a s
  | .rel p a => Sys2Proof.Machine.execRel p a s
  | .fenceCore p => Sys2Proof.Machine.execFenceCore p s
  | .fenceDev p => Sys2Proof.Machine.execFenceDev p s
  | .fenceFab p => Sys2Proof.Machine.execFenceFab p s
  | .invro p a b => Sys2Proof.Machine.execInvro p a b s
  | .flushr p a b => Sys2Proof.Machine.execFlushr p a b s
  | .phase p a => Sys2Proof.Machine.execPhase p a s
  | .pref p base pol off => Sys2Proof.Machine.execPref p base pol off s
  | .xferSv p d a lane => Sys2Proof.Machine.execXferSv p d a lane s
  | .xferVs p d a lane => Sys2Proof.Machine.execXferVs p d a lane s
  | .vext p d a b fmt => Sys2Proof.Machine.execVext p d a b fmt s
  | .ewr p a r => Sys2Proof.Machine.execEwr p a r s
  | .erd p d r => Sys2Proof.Machine.execErd p d r s
  | .ego p d ch => Sys2Proof.Machine.execEgo p d ch s
  | .egoP p d a ch => Sys2Proof.Machine.execEgoP p d a ch s
  | .ecan p ch => Sys2Proof.Machine.execEcan p ch s
  | .twait p a ch => Sys2Proof.Machine.execTwait p a ch s
  | .twaitn p a ch => Sys2Proof.Machine.execTwaitn p a ch s
  | .qfence p mask => Sys2Proof.Machine.execQfence p mask s
  | .pbinv p a => Sys2Proof.Machine.execPbinv p a s
  | .bcast p a b => Sys2Proof.Machine.execBcast p a b s
  | .blatch p a => Sys2Proof.Machine.execBlatch p a s
  | .rsgo p d a b => Sys2Proof.Machine.execRsgo p d a b s
  | .rsstat p d a => Sys2Proof.Machine.execRsstat p d a s
  | .rsstop p a => Sys2Proof.Machine.execRsstop p a s
  | .ckpt p a b => Sys2Proof.Machine.execCkpt p a b s
  | .slopen p h d a => Sys2Proof.Machine.execSlopen p h d a s
  | .slbind p h d a b => Sys2Proof.Machine.execSlbind p h d a b s
  | .sldone p h => Sys2Proof.Machine.execSldone p h s
  | .slgdone p h => Sys2Proof.Machine.execSlgdone p h s
  | .slstat p h d a => Sys2Proof.Machine.execSlstat p h d a s
  | .sljump p h d a => Sys2Proof.Machine.execSljump p h d a s
  | .slpfx p h d => Sys2Proof.Machine.execSlpfx p h d s
  | .slinfo p h d a b => Sys2Proof.Machine.execSlinfo p h d a b s
  | .slwait p h a => Sys2Proof.Machine.execSlwait p h a s
  | .slretire p h d => Sys2Proof.Machine.execSlretire p h d s
  | .slrecycle p h d => Sys2Proof.Machine.execSlrecycle p h d s
  | .slrefresh p h a => Sys2Proof.Machine.execSlrefresh p h a s
  | .slclose p h => Sys2Proof.Machine.execSlclose p h s
  | .seedw p k a => Sys2Proof.Machine.execSeedw p k a s
  | .seedr p d k => Sys2Proof.Machine.execSeedr p d k s
  | .vtgr p d a => Sys2Proof.Machine.execVtgr p d a s
  | .pcnt p d n => Sys2Proof.Machine.execPcnt p d n s
  | .vadd p vd va vb pred rm fmt => Sys2Proof.Machine.execVadd p vd va vb pred rm fmt s
  | .vsub p vd va vb pred rm fmt => Sys2Proof.Machine.execVsub p vd va vb pred rm fmt s
  | .vmul p vd va vb pred rm fmt => Sys2Proof.Machine.execVmul p vd va vb pred rm fmt s
  | .vfma p vd va vb pred rm fmt => Sys2Proof.Machine.execVfma p vd va vb pred rm fmt s
  | .vfms p vd va vb pred rm fmt => Sys2Proof.Machine.execVfms p vd va vb pred rm fmt s
  | .vfnma p vd va vb pred rm fmt => Sys2Proof.Machine.execVfnma p vd va vb pred rm fmt s
  | .vmin p vd va vb pred fmt => Sys2Proof.Machine.execVmin p vd va vb pred fmt s
  | .vmax p vd va vb pred fmt => Sys2Proof.Machine.execVmax p vd va vb pred fmt s
  | .vabs p vd va pred rm fmt => Sys2Proof.Machine.execVabs p vd va pred rm fmt s
  | .vneg p vd va pred rm fmt => Sys2Proof.Machine.execVneg p vd va pred rm fmt s
  | .vcmpEq p pd va vb pred fmt => Sys2Proof.Machine.execVcmpEq p pd va vb pred fmt s
  | .vcmpNe p pd va vb pred fmt => Sys2Proof.Machine.execVcmpNe p pd va vb pred fmt s
  | .vcmpLt p pd va vb pred fmt => Sys2Proof.Machine.execVcmpLt p pd va vb pred fmt s
  | .vcmpGe p pd va vb pred fmt => Sys2Proof.Machine.execVcmpGe p pd va vb pred fmt s
  | .vsel p vd va vb pred fmt => Sys2Proof.Machine.execVsel p vd va vb pred fmt s
  | .vand p vd va vb pred fmt => Sys2Proof.Machine.execVand p vd va vb pred fmt s
  | .vor p vd va vb pred fmt => Sys2Proof.Machine.execVor p vd va vb pred fmt s
  | .vxor p vd va vb pred fmt => Sys2Proof.Machine.execVxor p vd va vb pred fmt s
  | .vnot p vd va pred fmt => Sys2Proof.Machine.execVnot p vd va pred fmt s
  | .vshl p vd va vb pred fmt => Sys2Proof.Machine.execVshl p vd va vb pred fmt s
  | .vshr p vd va vb pred fmt => Sys2Proof.Machine.execVshr p vd va vb pred fmt s
  | .vsar p vd va vb pred fmt => Sys2Proof.Machine.execVsar p vd va vb pred fmt s
  | .vdot p vd va vb pred rm => Sys2Proof.Machine.execVdot p vd va vb pred rm s
  | .vli p vd fmt pred imm => Sys2Proof.Machine.execVli p vd fmt pred imm s
  | .vmov p vd va => Sys2Proof.Machine.execVmov p vd va s
  | .vdiv p vd va vb pred rm fmt => Sys2Proof.Machine.execVdiv p vd va vb pred rm fmt s
  | .vsqrt p vd va pred rm fmt => Sys2Proof.Machine.execVsqrt p vd va pred rm fmt s
  | .vrcp p vd va pred rm fmt => Sys2Proof.Machine.execVrcp p vd va pred rm fmt s
  | .vrsq p vd va pred rm fmt => Sys2Proof.Machine.execVrsq p vd va pred rm fmt s
  | .vexp2 p vd va pred rm fmt => Sys2Proof.Machine.execVexp2 p vd va pred rm fmt s
  | .vlog2 p vd va pred rm fmt => Sys2Proof.Machine.execVlog2 p vd va pred rm fmt s
  | .vtanh p vd va pred rm fmt => Sys2Proof.Machine.execVtanh p vd va pred rm fmt s
  | .vsinpi p vd va pred rm fmt => Sys2Proof.Machine.execVsinpi p vd va pred rm fmt s
  | .vcospi p vd va pred rm fmt => Sys2Proof.Machine.execVcospi p vd va pred rm fmt s
  | .vredSum p vd va pred rm fmt => Sys2Proof.Machine.execVredSum p vd va pred rm fmt s
  | .vredMax p vd va pred fmt => Sys2Proof.Machine.execVredMax p vd va pred fmt s
  | .vredMin p vd va pred fmt => Sys2Proof.Machine.execVredMin p vd va pred fmt s
  | .vmaxi p vd va pred fmt => Sys2Proof.Machine.execVmaxi p vd va pred fmt s
  | .vshuf p vd va vb entry => Sys2Proof.Machine.execVshuf p vd va vb entry s
  | .vpld p va vb entry => Sys2Proof.Machine.execVpld p va vb entry s
  | .vpsw p => Sys2Proof.Machine.execVpsw p s
  | .vcvt p vd va srcFmt pred rm fmt => Sys2Proof.Machine.execVcvt p vd va srcFmt pred rm fmt s
  | .vnr p vd va run block group rotate seed fmt => Sys2Proof.Machine.execVnr p vd va run block group rotate seed fmt s
  | .vwd p vd va run block rotate seed fmt => Sys2Proof.Machine.execVwd p vd va run block rotate seed fmt s
  | .vrot p vd va block seed fmt => Sys2Proof.Machine.execVrot p vd va block seed fmt s
  | .vtag p vd va rot grp seed fmt => Sys2Proof.Machine.execVtag p vd va rot grp seed fmt s
  | .pand p pd pa pb => Sys2Proof.Machine.execPand p pd pa pb s
  | .por p pd pa pb => Sys2Proof.Machine.execPor p pd pa pb s
  | .pxor p pd pa pb => Sys2Proof.Machine.execPxor p pd pa pb s
  | .pnot p pd pa => Sys2Proof.Machine.execPnot p pd pa s
  | .pfirst p pd pa => Sys2Proof.Machine.execPfirst p pd pa s
  | .pset p pd imm => Sys2Proof.Machine.execPset p pd imm s
  | .mset p fa fb grp zp reg => Sys2Proof.Machine.execMset p fa fb grp zp reg s
  | .mload p latch desc meta_ row half reg fmt => Sys2Proof.Machine.execMload p latch desc meta_ row half reg fmt s
  | .mfeed p latch tile row ovw desc half reg => Sys2Proof.Machine.execMfeed p latch tile row ovw desc half reg s
  | .mdrain p vd tile row seg zero rm fmt => Sys2Proof.Machine.execMdrain p vd tile row seg zero rm fmt s
  | .mfill p va tile row seg fmt => Sys2Proof.Machine.execMfill p va tile row seg fmt s
  | .mzero p tile row cnt clear => Sys2Proof.Machine.execMzero p tile row cnt clear s
  | .rndRead d => Sys2Proof.Machine.execRndRead d s
  | .postDelivery => Sys2Proof.Machine.execPostDelivery s
  | .taggedSendLanded g inc => Sys2Proof.Machine.execTaggedSendLanded g inc s
  | .monitorWake core slot => Sys2Proof.Machine.execMonitorWake core slot s
  | .mwaitTimeout => Sys2Proof.Machine.execMwaitTimeout s
  | .farAccessAck sector => Sys2Proof.Machine.execFarAccessAck sector s
  | .acqRetry => Sys2Proof.Machine.execAcqRetry s
  | .phaseWindowEnd => Sys2Proof.Machine.execPhaseWindowEnd s
  | .channelFaultWrite ch => Sys2Proof.Machine.execChannelFaultWrite ch s
  | .copyCommandStart ch => Sys2Proof.Machine.execCopyCommandStart ch s
  | .copyCommandComplete ch => Sys2Proof.Machine.execCopyCommandComplete ch s
  | .copyChannelFault ch => Sys2Proof.Machine.execCopyChannelFault ch s
  | .calendarRotationStart => Sys2Proof.Machine.execCalendarRotationStart s
  | .calendarLineIssue ch => Sys2Proof.Machine.execCalendarLineIssue ch s
  | .calendarLineRead k => Sys2Proof.Machine.execCalendarLineRead k s
  | .calendarLineLanding k => Sys2Proof.Machine.execCalendarLineLanding k s
  | .calendarHold k delay => Sys2Proof.Machine.execCalendarHold k delay s
  | .busArrival => Sys2Proof.Machine.execBusArrival s
  | .flowstoneSoGranted r => Sys2Proof.Machine.execFlowstoneSoGranted r s
  | .flowstoneRowSend r => Sys2Proof.Machine.execFlowstoneRowSend r s
  | .flowstoneRowReceive k => Sys2Proof.Machine.execFlowstoneRowReceive k s
  | .flowstoneRowAck r k => Sys2Proof.Machine.execFlowstoneRowAck r k s
  | .flowstoneCommit r => Sys2Proof.Machine.execFlowstoneCommit r s
  | .flowstoneRunDone r => Sys2Proof.Machine.execFlowstoneRunDone r s
  | .flowstoneFault r cause detail => Sys2Proof.Machine.execFlowstoneFault r cause detail s
  | .ckptChunkSend r => Sys2Proof.Machine.execCkptChunkSend r s
  | .sweepSignal k => Sys2Proof.Machine.execSweepSignal k s
  | .patternEntryWrite => Sys2Proof.Machine.execPatternEntryWrite s
  | .latchRowWrite => Sys2Proof.Machine.execLatchRowWrite s
  | .tileRowLanding => Sys2Proof.Machine.execTileRowLanding s
  | .resultLands => Sys2Proof.Machine.execResultLands s
  | .freezeEnd => Sys2Proof.Machine.execFreezeEnd s
  | .trapEntry cause mask taddr detail => Sys2Proof.Machine.execTrapEntry cause mask taddr detail s
  | .interruptTaken => Sys2Proof.Machine.execInterruptTaken s
  | .breakpoint => Sys2Proof.Machine.execBreakpoint s
  | .budgetOverrun => Sys2Proof.Machine.execBudgetOverrun s
  | .forcedPreemption => Sys2Proof.Machine.execForcedPreemption s
  | .contextRestore k => Sys2Proof.Machine.execContextRestore k s
  | .snapshotReplay => Sys2Proof.Machine.execSnapshotReplay s
  | .pageFaultAnswer who mapped => Sys2Proof.Machine.execPageFaultAnswer who mapped s
  | .waitStallYield => Sys2Proof.Machine.execWaitStallYield s
  | .parkedContextReady slot => Sys2Proof.Machine.execParkedContextReady slot s
  | .idleSwitchIn => Sys2Proof.Machine.execIdleSwitchIn s
  | .taskEndReport => Sys2Proof.Machine.execTaskEndReport s
  | .quantumBoundary => Sys2Proof.Machine.execQuantumBoundary s
  | .sumpFilterClear stack => Sys2Proof.Machine.execSumpFilterClear stack s
  | .scrubPass pa inSump found => Sys2Proof.Machine.execScrubPass pa inSump found s
  | .flitReceive l passed oldKey f => Sys2Proof.Machine.execFlitReceive l passed oldKey f s
  | .transitForward k => Sys2Proof.Machine.execTransitForward k s
  | .routeTableLoad table => Sys2Proof.Machine.execRouteTableLoad table s
  | .requestResendTimer dst stream num => Sys2Proof.Machine.execRequestResendTimer dst stream num s
  | .mappedRequestSend k => Sys2Proof.Machine.execMappedRequestSend k s
  | .fabricRequestArrival k => Sys2Proof.Machine.execFabricRequestArrival k s
  | .fabricResponseArrival k => Sys2Proof.Machine.execFabricResponseArrival k s
  | .portPacketArrival k => Sys2Proof.Machine.execPortPacketArrival k s
  | .multicastMemberArrival l k => Sys2Proof.Machine.execMulticastMemberArrival l k s
  | .multicastMerge l src stream num word ord => Sys2Proof.Machine.execMulticastMerge l src stream num word ord s
  | .ackWordMerge core launch word ord => Sys2Proof.Machine.execAckWordMerge core launch word ord s
  | .ackWordRead d => Sys2Proof.Machine.execAckWordRead d s
  | .collectiveCombine group op low k => Sys2Proof.Machine.execCollectiveCombine group op low k s
  | .collectiveResult group op k => Sys2Proof.Machine.execCollectiveResult group op k s
  | .linkModeWrite l w => Sys2Proof.Machine.execLinkModeWrite l w s
  | .linkKeyInstall l key salt => Sys2Proof.Machine.execLinkKeyInstall l key salt s
  | .queueService => Sys2Proof.Machine.execQueueService s
  | .notifyReport sector => Sys2Proof.Machine.execNotifyReport sector s
  | .nbaseWrite w => Sys2Proof.Machine.execNbaseWrite w s
  | .signalAck core slot => Sys2Proof.Machine.execSignalAck core slot s
  | .launch uid => Sys2Proof.Machine.execLaunch uid s
  | .launchRelease uid => Sys2Proof.Machine.execLaunchRelease uid s
  | .bufs uid => Sys2Proof.Machine.execBufs uid s
  | .signal uid => Sys2Proof.Machine.execSignal uid s
  | .waitso uid => Sys2Proof.Machine.execWaitso uid s
  | .graph uid => Sys2Proof.Machine.execGraph uid s
  | .graphNodeDispatch uid node => Sys2Proof.Machine.execGraphNodeDispatch uid node s
  | .patch uid => Sys2Proof.Machine.execPatch uid s
  | .reshard uid => Sys2Proof.Machine.execReshard uid s
  | .horizon uid => Sys2Proof.Machine.execHorizon uid s
  | .pkCkpt uid => Sys2Proof.Machine.execPkCkpt uid s
  | .packetComplete uid => Sys2Proof.Machine.execPacketComplete uid s
  | .hostControlRead addr => Sys2Proof.Machine.execHostControlRead addr s
  | .hostControlWrite addr w => Sys2Proof.Machine.execHostControlWrite addr w s
  | .tlbInvalidate launch range => Sys2Proof.Machine.execTlbInvalidate launch range s
  | .mrExt index digest => Sys2Proof.Machine.execMrExt index digest s
  | .powerOnBoot steps => Sys2Proof.Machine.execPowerOnBoot steps s
  | .getVersion peer => Sys2Proof.Machine.execGetVersion peer s
  | .getCapabilities peer => Sys2Proof.Machine.execGetCapabilities peer s
  | .negotiateAlgorithms peer accepted => Sys2Proof.Machine.execNegotiateAlgorithms peer accepted s
  | .getDigests peer cslot => Sys2Proof.Machine.execGetDigests peer cslot s
  | .getCertificate peer cslot => Sys2Proof.Machine.execGetCertificate peer cslot s
  | .challenge peer cslot summary nonce => Sys2Proof.Machine.execChallenge peer cslot summary nonce s
  | .getMeasurements peer index signed nonce => Sys2Proof.Machine.execGetMeasurements peer index signed nonce s
  | .keyExchange peer both share => Sys2Proof.Machine.execKeyExchange peer both share s
  | .finish peer verified => Sys2Proof.Machine.execFinish peer verified s
  | .spdmUnsupported peer version => Sys2Proof.Machine.execSpdmUnsupported peer version s
  | .energyInterval dies hub hbm => Sys2Proof.Machine.execEnergyInterval dies hub hbm s
  | .thermalThrottle cores quanta => Sys2Proof.Machine.execThermalThrottle cores quanta s
  | .thermalShutdown => Sys2Proof.Machine.execThermalShutdown s
  | .linkTrainingDone l => Sys2Proof.Machine.execLinkTrainingDone l s
  | .linkStopGo l vc stop => Sys2Proof.Machine.execLinkStopGo l vc stop s
  | .replayRequest l first => Sys2Proof.Machine.execReplayRequest l first s
  | .powerLoss => Sys2Proof.Machine.execPowerLoss s

end Sys2Proof.Machine
end

