-- ==== Sys2Proof/Machine/Issue.lean ====
section
/-! DEFINITION. The issue of a bundle: which registers its slots name, the checks of spec/02 R31 to R35, waits before traps
(spec/06 R121), the smallest cause (spec/05 R93), what all slots commit, the advance of the PC queue (spec/07 R150), lockstep
sets (R83, R84). The meanings of slot operations come in as `ex`. -/

namespace Sys2Proof.Machine

/-! ## Registers a slot names -/

/-- A register or latch that a slot operation names. -/
inductive RegName where
  | s (n : Nat)
  | v (n : Nat)
  | p (n : Nat)
  | latch (k : Nat)
  deriving DecidableEq, Repr

/-- A source field: a register, or a latch when the header lends the bypass bit. -/
def fieldName (byp : Bool) : Field → List RegName
  | .scalar n => [if byp then .latch (n.toNat % 4) else .s n.toNat]
  | .vector n => [if byp then .latch (n.toNat % 4) else .v n.toNat]
  | _ => []

/-- The predicate that an operation's `pred` field names. -/
def predOf : Instr → Option Nat
  | .vgth _ _ _ _ _ pred _ | .vsct _ _ _ _ _ pred _ | .vadd _ _ _ _ pred _ _ | .vsub _ _ _ _ pred _ _
  | .vmul _ _ _ _ pred _ _ | .vfma _ _ _ _ pred _ _ | .vfms _ _ _ _ pred _ _ | .vfnma _ _ _ _ pred _ _
  | .vmin _ _ _ _ pred _ | .vmax _ _ _ _ pred _ | .vabs _ _ _ pred _ _ | .vneg _ _ _ pred _ _
  | .vcmpEq _ _ _ _ pred _ | .vcmpNe _ _ _ _ pred _ | .vcmpLt _ _ _ _ pred _ | .vcmpGe _ _ _ _ pred _
  | .vsel _ _ _ _ pred _ | .vand _ _ _ _ pred _ | .vor _ _ _ _ pred _ | .vxor _ _ _ _ pred _ | .vnot _ _ _ pred _
  | .vshl _ _ _ _ pred _ | .vshr _ _ _ _ pred _ | .vsar _ _ _ _ pred _ | .vdot _ _ _ _ pred _ | .vli _ _ _ pred _
  | .vdiv _ _ _ _ pred _ _ | .vsqrt _ _ _ pred _ _ | .vrcp _ _ _ pred _ _ | .vrsq _ _ _ pred _ _
  | .vexp2 _ _ _ pred _ _ | .vlog2 _ _ _ pred _ _ | .vtanh _ _ _ pred _ _ | .vsinpi _ _ _ pred _ _
  | .vcospi _ _ _ pred _ _ | .vredSum _ _ _ pred _ _ | .vredMax _ _ _ pred _ | .vredMin _ _ _ pred _
  | .vmaxi _ _ _ pred _ | .vcvt _ _ _ _ pred _ _ => some pred.toNat
  | .brp _ pr _ _ _ => some (pr.toNat % 16)
  | _ => none

/-- Sources beside the source fields: old destinations, data, pairs, runs, predicates. -/
def extraReads : Instr → List RegName
  | .sel _ d _ _ | .bfi _ d _ _ _ | .rsgo _ d _ _ => [.s d.toNat]
  | .amo _ d _ _ op _ _ => if op = 9 then [.s d.toNat] else []
  | .ret _ _ => [.s 8]
  | .stq _ d _ _ _ | .vsct _ d _ _ _ _ _ => [.v d.toNat]
  | .stv _ d _ _ _ => [.v d.toNat]
  | .vfma _ vd _ _ _ _ _ | .vfms _ vd _ _ _ _ _ | .vfnma _ vd _ _ _ _ _ | .vdot _ vd _ _ _ _ => [.v vd.toNat]
  | .mset _ _ _ _ zp reg => if zp then [.s reg.toNat] else []
  | .mload _ _ desc _ _ _ reg _ | .mfeed _ _ _ _ _ desc _ reg =>
      if desc then [.s reg.toNat, .s (reg.toNat + 1)] else []
  | .vnr _ _ va run _ _ _ _ _ => (List.range (runRegs run)).map (fun k => .v (va.toNat + k))
  | .pand _ _ pa pb | .por _ _ pa pb | .pxor _ _ pa pb => [.p pa.toNat, .p pb.toNat]
  | .pnot _ _ pa | .pfirst _ _ pa => [.p pa.toNat]
  | _ => []

/-- Every register and latch an operation reads. -/
def readsOf (i : Instr) : List RegName :=
  (match i.shape with
   | some (p, sh) => fieldName p.bypA sh.srcA ++ fieldName p.bypB sh.srcB
   | none => []) ++ extraReads i ++ ((predOf i).map RegName.p).toList

/-- The registers an operation writes by its encoding; RSGO reads its d and never counts as a writer (R52). -/
def writesOf : Instr → List RegName
  | .add _ d _ _ | .sub _ d _ _ | .and _ d _ _ | .or _ d _ _ | .xor _ d _ _ | .andn _ d _ _ | .shl _ d _ _
  | .shr _ d _ _ | .sar _ d _ _ | .min _ d _ _ | .max _ d _ _ | .minn _ d _ _ | .maxn _ d _ _ | .sel _ d _ _
  | .slt _ _ d _ _ | .mul _ d _ _ | .mulh _ d _ _ | .mulhn _ d _ _ | .div _ d _ _ | .divn _ d _ _ | .rem _ d _ _
  | .remn _ d _ _ | .clz _ d _ | .ctz _ d _ | .popc _ d _ | .addSat _ d _ _ | .subSat _ d _ _ | .addI _ d _ _
  | .andI _ d _ _ | .orI _ d _ _ | .xorI _ d _ _ | .shlI _ d _ _ | .shrI _ d _ _ | .sarI _ d _ _ | .minI _ d _ _
  | .maxI _ d _ _ | .mulI _ d _ _ | .lih _ d _ _ | .bfx _ d _ _ _ | .bfi _ d _ _ _ | .srr _ d _ | .ftest _ d _ _
  | .gnew _ d _ | .barg _ d _ | .ldB _ d _ _ _ | .ldH _ d _ _ _ | .ldW _ d _ _ _ | .ldD _ d _ _ _ | .ldBN _ d _ _ _
  | .ldHN _ d _ _ _ | .ldWN _ d _ _ _ | .amo _ d _ _ _ _ _ | .xferVs _ d _ _ | .vext _ d _ _ _ | .erd _ d _
  | .ego _ d _ | .egoP _ d _ _ | .rsstat _ d _ | .slopen _ _ d _ | .slbind _ _ d _ _
  | .slstat _ _ d _ | .sljump _ _ d _ | .slpfx _ _ d | .slinfo _ _ d _ _ | .slretire _ _ d | .slrecycle _ _ d
  | .seedr _ d _ | .vtgr _ d _ | .pcnt _ d _ => [.s d.toNat]
  | .ldv _ d _ _ _ | .ldq _ d _ _ _ | .vgth _ d _ _ _ _ _ | .xferSv _ d _ _ => [.v d.toNat]
  | .vadd _ vd _ _ _ _ _ | .vsub _ vd _ _ _ _ _ | .vmul _ vd _ _ _ _ _ | .vfma _ vd _ _ _ _ _ | .vfms _ vd _ _ _ _ _
  | .vfnma _ vd _ _ _ _ _ | .vmin _ vd _ _ _ _ | .vmax _ vd _ _ _ _ | .vabs _ vd _ _ _ _ | .vneg _ vd _ _ _ _
  | .vsel _ vd _ _ _ _ | .vand _ vd _ _ _ _ | .vor _ vd _ _ _ _ | .vxor _ vd _ _ _ _ | .vnot _ vd _ _ _
  | .vshl _ vd _ _ _ _ | .vshr _ vd _ _ _ _ | .vsar _ vd _ _ _ _ | .vdot _ vd _ _ _ _ | .vli _ vd _ _ _
  | .vmov _ vd _ | .vdiv _ vd _ _ _ _ _ | .vsqrt _ vd _ _ _ _ | .vrcp _ vd _ _ _ _ | .vrsq _ vd _ _ _ _
  | .vexp2 _ vd _ _ _ _ | .vlog2 _ vd _ _ _ _ | .vtanh _ vd _ _ _ _ | .vsinpi _ vd _ _ _ _ | .vcospi _ vd _ _ _ _
  | .vredSum _ vd _ _ _ _ | .vredMax _ vd _ _ _ | .vredMin _ vd _ _ _ | .vmaxi _ vd _ _ _ | .vshuf _ vd _ _ _
  | .vcvt _ vd _ _ _ _ _ | .vnr _ vd _ _ _ _ _ _ _ | .vrot _ vd _ _ _ _ | .vtag _ vd _ _ _ _ _
  | .mdrain _ vd _ _ _ _ _ _ => [.v vd.toNat]
  | .vwd _ vd _ run _ _ _ _ => (List.range (runRegs run)).map (fun k => .v (vd.toNat + k))
  | .vcmpEq _ pd _ _ _ _ | .vcmpNe _ pd _ _ _ _ | .vcmpLt _ pd _ _ _ _ | .vcmpGe _ pd _ _ _ _ | .pand _ pd _ _
  | .por _ pd _ _ | .pxor _ pd _ _ | .pnot _ pd _ | .pfirst _ pd _ | .pset _ pd _ => [.p pd.toNat]
  | _ => []

/-- The descriptor pair of a beat that reads through one. -/
def pairOf : Instr → Option Nat
  | .mload _ _ desc _ _ _ reg _ | .mfeed _ _ _ _ _ desc _ reg => if desc then some reg.toNat else none
  | _ => none

/-- The position of an operation. -/
def instrPos (i : Instr) : Pos := match i.shape with
  | some (p, _) => p
  | none => Pos.plain 0

/-- A place in a register file as the trap record names it (R93): file and physical register. -/
def Ctx.place (c : Ctx) : RegName → Option (Nat × Nat)
  | .s n => if n = 0 ∨ (24 ≤ n ∧ n ≤ 30) then none else some (0, c.phys n)
  | .v n => some (1, c.vphys n)
  | .p n => if n = 0 then none else some (2, n)
  | .latch _ => none

/-- The port that a scalar name denotes. -/
def portOf : RegName → Option Nat
  | .s n => if 24 ≤ n ∧ n ≤ 30 then some (n - 24) else none
  | _ => none

/-- The callee's s8 of a CALL with frame f (R137), in the stack as it stands before a spill. -/
def Ctx.calleePlace (c : Ctx) (f : BitVec 5) : Nat × Nat := (0, 128 + (c.wnext + f.toNat) % 128)

/-- The places an operation writes: an auto-incrementing beat writes its pair (R286), CALL the callee's s8 (R137), LOOP and BRL
p8 to p15 (R152, R153, log 103, DEDUCED). -/
def Ctx.writePlaces (c : Ctx) (i : Instr) : List (Nat × Nat) :=
  let named := if (instrPos i).wbs then [] else (writesOf i).filterMap c.place
  let pair := match pairOf i with
    | some r => if bitAt (c.scalar (r + 1)) 0 then [RegName.s r, RegName.s (r + 1)].filterMap c.place else []
    | none => []
  named ++ pair ++ (match i with
    | .call _ f _ => [c.calleePlace f]
    | .callr _ _ f => [c.calleePlace f]
    | .loop .. | .brl .. => (List.range 8).map (fun k => (2, 8 + k))
    | _ => [])

/-! ## The scoreboard of interlocked mode (R31, R159) -/

/-- The register places a result in flight will write. -/
def Res.places (r : Res) : List (Nat × Nat) :=
  if !r.wb then []
  else match r.dest with
    | .scalar ph => [(0, ph)]
    | .vector ph => [(1, ph)]
    | .pred n => [(2, n)]
    | .loop | .brl => (List.range 8).map (fun k => (2, 8 + k))
    | _ => []

/-- All results on their way: in flight, or captured and to be replayed. -/
def Ctx.pendingRes (c : Ctx) : List Res := c.infl ++ c.snap.map (·.res)

/-- Whether an operation names a register or latch with a result on its way. The delay bundles of a BRL see the old p8 to p15,
so its update holds nothing up (R153). -/
def Ctx.interlocked (c : Ctx) (i : Instr) : Bool :=
  let busy := (c.pendingRes.filter (fun r => !r.steers)).flatMap Res.places
  let rs := readsOf i
  (rs.filterMap c.place ++ c.writePlaces i).any (fun x => busy.contains x)
  || rs.any (fun x => match x with
      | .latch k => c.infl.any (fun r => r.latch && r.slot == k)
      | _ => false)

/-! ## Illegal bundles (R32, R33) -/

/-- The detail that names a file and register (R93). -/
def placeDetail (x : Nat × Nat) : Word := w64 (x.1 + 4 * (x.2 % 256))

/-- The mask of slots. -/
def slotMask (l : List Nat) : BitVec 4 := l.foldl (fun m k => m ||| BitVec.ofNat 4 (2 ^ k)) 0

/-- The operations of a bundle by slot. -/
def bundleOps (b : Bundle) : List (Nat × Instr) :=
  [b.s0, b.s1, b.s2, b.s3].zipIdx.filterMap (fun e => match e.1 with
    | .op i => some (e.2, i)
    | _ => none)

/-- The places that more than one slot writes, each with the slots that write it: those are the slots that name a contested register; one
that only reads it, or names it as a destination that is not written, is not marked (R32; log 104, DESIGN CHOICE). -/
def Ctx.contested (c : Ctx) (ops : List (Nat × Instr)) : List ((Nat × Nat) × List Nat) :=
  let all := ops.flatMap (fun e => (c.writePlaces e.2).eraseDups.map (fun x => (x, e.1)))
  ((all.map (·.1)).eraseDups.map (fun x => (x, (all.filter (fun y => y.1 == x)).map (·.2)))).filter
    (fun e => decide (1 < e.2.length))

/-- The ports that are pushed or popped more than once: port and the slots involved. -/
def oversubscribed (ops : List (Nat × Instr)) : List (Nat × List Nat) :=
  let pops := ops.flatMap (fun e => ((readsOf e.2).filterMap portOf).map (fun k => (k, e.1)))
  let pushes := ops.flatMap (fun e => ((writesOf e.2).filterMap portOf).map (fun k => (k, e.1)))
  let twice := fun (l : List (Nat × Nat)) => (List.range 7).filterMap (fun k =>
    let m := (l.filter (fun x => x.1 == k)).map (·.2)
    if 1 < m.length then some (k, m) else none)
  twice pops ++ twice pushes

/-- The lowest of a list of places. -/
def lowestPlace (l : List (Nat × Nat)) : Option (Nat × Nat) :=
  l.foldl (fun (o : Option (Nat × Nat)) x => match o with
    | some y => if x.1 < y.1 ∨ (x.1 = y.1 ∧ x.2 < y.2) then some x else some y
    | none => some x) none

/-- The illegal-bundle trap of a bundle, if it is one. Where several registers or ports are concerned, the detail names the
lowest register (file before number), else the lowest port popped twice, else the lowest port pushed twice (log 104, DESIGN
CHOICE). -/
def Ctx.illegalBundle (c : Ctx) (ops : List (Nat × Instr)) : Option (TrapReq × BitVec 4) :=
  let bad := c.contested ops
  let ports := oversubscribed ops
  let mask := slotMask (bad.flatMap (·.2) ++ ports.flatMap (·.2))
  match lowestPlace (bad.map (·.1)) with
  | some x => some (⟨cBundle, 0, placeDetail x⟩, mask)
  | none => (ports.head?).map (fun e => (⟨cBundle, 0, placeDetail (3, e.1)⟩, mask))

/-! ## Trying slots -/

/-- What a slot operation would do on a state. -/
inductive Tried where
  | ran (t : State)
  | trapped (r : TrapReq)
  | waits (k : WaitKind) (t : State)
  | other (o : Out)

/-- Try an operation. -/
def tryOp (ex : Instr → State → Out) (i : Instr) (s : State) : Tried :=
  match ex i s with
  | .next t => match t.sig with
    | .ran => .ran t
    | .trapped r => .trapped r
    | .waits k => .waits k t
  | o => .other o

/-- The results that a trial added. -/
def newResults (s t : State) : List Res := t.ctx.infl.drop s.ctx.infl.length

/-! ## Write-port collisions (R34, R98, R154) -/

/-- The value that a scalar source field will read, a word popped from a port included. -/
def State.peekField (s : State) (byp : Bool) (n : BitVec 5) : Word :=
  if !byp && 24 ≤ n.toNat && n.toNat ≤ 29 then ((s.core.inq.getD (n.toNat - 24) []).headD []).headD 0
  else match peekS byp n s with
    | .ok (w, _) => w
    | .error _ => 0

/-- Whether a load or atomic stays near the context (R193, R381). -/
def State.nearBy (s : State) (i : Instr) : Bool :=
  let ea := fun (p : Pos) (b : BitVec 5) (off : BitVec 13) => isNear s.ctx (effAddr p (s.peekField p.bypA b) off)
  match i with
  | .ldB p _ b _ o | .ldH p _ b _ o | .ldW p _ b _ o | .ldD p _ b _ o | .ldBN p _ b _ o | .ldHN p _ b _ o | .ldWN p _ b _ o
  | .ldv p _ b _ o => ea p b o
  | .ldq p _ a _ _ => isNear s.ctx (s.peekField p.bypA a)
  | .amo p _ a _ _ _ _ => isNear s.ctx (s.peekField p.bypA a)
  | .vgth p _ a b _ pred size =>
    (laneAddrs (s.peekField p.bypA a) (s.ctx.vec b.toNat) (s.ctx.pred pred.toNat) (2 ^ size.toNat)).all
      (fun l => isNear s.ctx (w64 l.2))
  | _ => true

/-- The latency of the register result of an operation (R141, R193, R207, R237, R258, R266 to R277, R293); 1 where its chapter
gives a scalar result of latency 1. -/
def State.latencyOf (s : State) (i : Instr) : Nat :=
  let near := s.nearBy i
  match i with
  | .mul .. | .mulh .. | .mulhn .. | .mulI .. => latMul
  | .div .. | .divn .. | .rem .. | .remn .. => latDiv
  | .ldB .. | .ldH .. | .ldW .. | .ldD .. | .ldBN .. | .ldHN .. | .ldWN .. => if near then 4 else 6
  | .amo .. => if near then 8 else 12
  | .ldv .. => if near then 5 else 8
  | .ldq .. => if near then 6 else 9
  | .vgth .. => if near then 10 else 14
  | .erd .. | .xferSv .. | .vadd .. | .vsub .. | .vmin .. | .vmax .. | .vabs .. | .vneg .. | .vcmpEq .. | .vcmpNe ..
  | .vcmpLt .. | .vcmpGe .. | .vsel .. | .vand .. | .vor .. | .vxor .. | .vnot .. | .vshl .. | .vshr .. | .vsar ..
  | .vli .. | .vmov .. | .vtag .. => 2
  | .xferVs .. | .vext .. | .vtgr .. | .vshuf .. => 3
  | .vmul .. | .vfma .. | .vfms .. | .vfnma .. | .vdot .. | .vcvt .. => 4
  | .vredSum .. | .vredMax .. | .vredMin .. | .vmaxi .. | .mdrain .. => 6
  | .vdiv .. | .vsqrt .. | .vrcp .. | .vrsq .. | .vexp2 .. | .vlog2 .. | .vtanh .. | .vsinpi .. | .vcospi .. => 12
  | .vnr _ _ _ _ block _ _ _ _ | .vwd _ _ _ _ block _ _ _ | .vrot _ _ _ block _ _ => blockLat block
  | _ => 1

/-- The places that an operation issued now will write, each with the clock at which its result lands. -/
def State.landings (s : State) (i : Instr) : List ((Nat × Nat) × Nat) :=
  let c := s.ctx
  let at_ := fun (lat : Nat) => (c.writePlaces i).map (fun x => (x, c.clk + lat))
  match i with
  | .brl .. => if decide (0 < c.lc.toNat) || decide (1 < c.ec.toNat) then at_ 3 else []
  | _ => at_ (s.latencyOf i)

/-- The place of an earlier result, in flight or captured, that lands in a register and cycle in which an operation issued now
would write (R34, R98, R154). -/
def State.collides (s : State) (i : Instr) : Option (Nat × Nat) :=
  let c := s.ctx
  let old := c.infl.map (fun r => (r.land, r))
    ++ (match c.replayU with
        | some u => c.snap.map (fun e => (u + e.k, e.res))
        | none => [])
  lowestPlace (((s.landings i).filter (fun x => old.any (fun o => o.1 == x.2 && o.2.places.contains x.1))).map (·.1))

/-- The slots of a bundle that collide, each with the place, in exposed mode. -/
def State.collisions (s : State) (ops : List (Nat × Instr)) : List (Nat × (Nat × Nat)) :=
  if s.ctx.exposed then ops.filterMap (fun e => (s.collides e.2).map (fun x => (e.1, x))) else []

/-- What the issue of a bundle comes to. -/
inductive Verdict where
  | goes (t : State)
  | stops (t : State)
  | waits (k : WaitKind) (t : State)
  | other (o : Out)

/-- Run the operations of a bundle in slot order; ERET comes last, with the handler's own results known to have landed. -/
def commit (ex : Instr → State → Out) : List Instr → State → Verdict
  | [], s => .goes s
  | i :: rest, s =>
    match tryOp ex i s with
    | .ran t => commit ex rest t
    | .waits k t => .waits k t
    | .trapped _ => (match ex i s with
      | .next t => .stops t
      | o => .other o)
    | .other o => .other o

/-- ERET with the other slots of its bundle, whose results stay in flight and refill no latch: they were not issued after the
loss (R29). -/
def commitEret (ex : Instr → State → Out) (i : Instr) (rest : List Instr) (s : State) : Verdict :=
  match commit ex rest s with
  | .goes t =>
    let extra := newResults s t
    (match tryOp ex i { t with ctx := { t.ctx with infl := s.ctx.infl } } with
     | .ran u => .goes { u with ctx := { u.ctx with infl := u.ctx.infl ++ extra.map (fun r => { r with latch := false }) } }
     | .waits k u => .waits k u
     | .trapped _ => .stops t
     | .other o => .other o)
  | v => v

/-- The traps that the trials of a bundle raise: slot and request. -/
def trapsOf : List (Nat × Tried) → List (Nat × TrapReq)
  | [] => []
  | (k, .trapped r) :: t => (k, r) :: trapsOf t
  | _ :: t => trapsOf t

/-- The flags that the slots of a bundle raise (R72). -/
def flagsOf (s : State) (l : List (Nat × Tried)) : BitVec 5 :=
  l.foldl (fun f e => match e.2 with
    | .trapped r => if r.cause = cFp then f ||| BitVec.ofNat 5 r.detail.toNat else f
    | .ran t => (newResults s t).foldl (fun f r => f ||| r.flags) f
    | _ => f) 0

/-- Take the traps of a bundle: the smallest cause, marking every slot that raises it, the record of the lowest (R93). -/
def takeTraps (ex : Instr → State → Out) (ops : List (Nat × Instr)) (l : List (Nat × Tried)) (s : State)
    (traps : List (Nat × TrapReq)) : Verdict :=
  let c := traps.foldl (fun (m : BitVec 8) e => if e.2.cause < m then e.2.cause else m) 0xFF
  let mine := traps.filter (fun e => e.2.cause == c)
  let mask := slotMask (mine.map (·.1))
  match mine with
  | [] => .goes s
  | (k, r) :: _ =>
    if c = cFp then
      let r' := { r with detail := (r.detail &&& ~~~(0x1F : Word)) ||| w64 (flagsOf s l).toNat }
      .stops { (s.takeTrap r' mask) with sig := .trapped r' }
    else match ops.find? (fun e => e.1 == k) with
      | some (_, i) => (match ex i { s with mask := mask } with
        | .next t => .stops t
        | o => .other o)
      | none => .stops { (s.takeTrap r mask) with sig := .trapped r }

/-- The slots with an illegal opcode by their encoding (R43, R91, R380). -/
def Ctx.illegalSlots (c : Ctx) (b : Bundle) : List Nat :=
  [b.s0, b.s1, b.s2, b.s3].zipIdx.filterMap (fun e => match e.1 with
    | .bad _ => some e.2
    | .op i => if (if c.companion then i.legalOnCompanion else i.legalOnChamber) then none else some e.2
    | .nop => none)

/-- The first wait among trials. -/
def firstWait (p : WaitKind → Bool) : List (Nat × Tried) → Option (WaitKind × State)
  | [] => none
  | (_, .waits k t) :: r => if p k then some (k, t) else firstWait p r
  | _ :: r => firstWait p r

/-- An outcome that no slot operation has. -/
def firstOther : List (Nat × Tried) → Option Out
  | [] => none
  | (_, .other o) :: _ => some o
  | _ :: r => firstOther r

/-- Everything a bundle commits. -/
def commitAll (ex : Instr → State → Out) (ops : List (Nat × Instr)) (s : State) : Verdict :=
  match ops with
  | (_, .eret p) :: rest => commitEret ex (.eret p) (rest.map (·.2)) s
  | _ => commit ex (ops.map (·.2)) s

/-- The trap of a bundle's form (R35): an illegal opcode in any slot, an illegal bundle, a write-port collision. `bad` are the
slots with an illegal opcode, `bs` the bundle's bytes. -/
def State.formTrap (s : State) (ops : List (Nat × Instr)) (bad : List Nat) (bs : List Byte) : Option (TrapReq × BitVec 4) :=
  match bad with
  | k :: _ => some (⟨cIllegal, 0, w64 (wordOfBytes ((bs.drop (4 * k)).take 4)).toNat⟩, slotMask bad)
  | [] => match s.ctx.illegalBundle ops with
    | some x => some x
    | none => match s.collisions ops with
      | (k, x) :: t => some (⟨cCollision, 0, placeDetail x⟩, slotMask (k :: t.map (·.1)))
      | [] => none

/-- The issue of the focus context's next bundle, up to what its slots do (R35, R93, R121): waits come first, then illegal
opcodes, illegal bundles and collisions, the traps of its slots, at last the wait for another package's answer, and after that the one for
Rimstone's (R364). -/
def State.tryBundle (s : State) (ex : Instr → State → Out) : Verdict :=
  let c := s.ctx
  if c.q0.an then .goes s
  else if c.imSize ≤ c.q0.addr then
    let r : TrapReq := ⟨cProtect, w64 c.q0.addr, 0⟩
    .stops { (s.takeTrap r 0) with sig := .trapped r }
  else
    let bs := s.fetch c.q0.addr
    let b := decodeBytes bs
    let ops := bundleOps b
    if !c.exposed && ops.any (fun e => c.interlocked e.2) then .waits .interlock (s.waits .interlock)
    else
      let l := (ops.filter (fun e => !(c.illegalSlots b).contains e.1)).map (fun e => (e.1, tryOp ex e.2 s))
      let late := (trapsOf l).filterMap (fun e => if e.2.cause = cIllegal then some e.1 else none)
      let bad := (List.range 4).filter (fun k => (c.illegalSlots b).contains k || late.contains k)
      match firstOther l, firstWait (fun k => k != .access && k != .sweep) l with
      | some o, _ => .other o
      | none, some (k, t) => .waits k t
      | none, none =>
        match s.formTrap ops bad bs with
        | some (r, m) => .stops { (s.takeTrap r m) with sig := .trapped r }
        | none =>
          if !(trapsOf l).isEmpty then takeTraps ex ops l s (trapsOf l)
          else match (firstWait (fun k => k == .access) l).or (firstWait (fun _ => true) l) with
            | some (k, t) => .waits k t
            | none => commitAll ex ops s

/-! ## Retiring a bundle -/

/-- The PC queue after a bundle (R150). -/
def Ctx.advance (c : Ctx) : Ctx :=
  let st := c.steer
  let q2 : QEnt := match st.target with
    | some t => ⟨t, false⟩
    | none => ⟨c.q2.addr + 16, false⟩
  { c with q0 := ⟨c.q1.addr, c.q1.an || st.annul⟩, q1 := ⟨c.q2.addr, c.q2.an || st.annul⟩, q2 := q2 }

/-- The M beats and V slots of a bundle (R107, R424). -/
def bundleCounts (b : Bundle) : Nat × Nat :=
  let isM : Slot → Bool := fun x => match x with
    | .op (.mset ..) | .op (.mload ..) | .op (.mfeed ..) | .op (.mdrain ..) | .op (.mfill ..) | .op (.mzero ..) => true
    | _ => false
  let isOp : Slot → Bool := fun x => match x with
    | .op _ => true
    | _ => false
  let m := if isM b.s3 then 1 else 0
  (m, (if isOp b.s2 then 1 else 0) + (if isOp b.s3 && !isM b.s3 then 1 else 0))

/-- A core cycle of a context's agency: it counts, and on its compute die for the division of that die's energy (R7, R424). -/
def State.coreCycle (s : State) (c : Ctx) : State :=
  let s := s.account c.agency 0 1
  let k := 64 * (chamberOf c.core / 6) + c.agency
  { s with plat := { s.plat with mark := put s.plat.mark k (look s.plat.mark k 0 + 1) } }

/-- Count a bundle for its agency. -/
def State.countBundle (s : State) (m v : Nat) : State :=
  let s := if m = 0 then s else s.account s.ctx.agency 1 m
  let s := if v = 0 then s else s.account s.ctx.agency 2 v
  if s.ctx.companion then s.coreCycle s.ctx else s

/-- A bundle has issued: `b` is what it held, `annulled` whether it was annulled. The queue advances, unless the bundle ended
the task or returned from a handler; a task that a handler ends still has its captured results land (R156), and one of a
lockstep set takes the whole launch with it (R84). -/
def State.retire (s : State) (b : Bundle) (annulled : Bool) : State :=
  let st := s.ctx.steer
  let (m, v) := if annulled then (0, 0) else bundleCounts b
  let s := s.countBundle m v
  let c := (((s.ctx.count 1 1).count 2 (if annulled then 1 else 0)).count 4 m).count 5 v
  let c := if st.eret then c else { c with bpskip := false, cursor := 0 }
  let c := if st.ends || st.eret then c else c.advance
  let c := if st.ends && c.replayU.isNone && !c.snap.isEmpty then { c with replayU := some c.clk } else c
  let c := { c with clk := c.clk + 1, lclk := if c.sv || st.eret then c.lclk else c.lclk + 1, seq := c.seq + 1,
                    lastIssue := s.now, issuedQ := true, stallAt := none,
                    handlerAt := if c.sv || st.eret then s.now + 1 else c.handlerAt,
                    steer := { yield := st.yield } }
  let s := { s with ctx := if st.ends then { c with status := .ending } else c,
                    core := { s.core with readyAt := s.now + 1 } }
  let s := s.forget
  if st.ends && c.sv && c.lock then s.endLaunch c.launch else s

/-- Waits that let the issue clock run on, so that what they wait for can land. -/
def WaitKind.bubbles : WaitKind → Bool
  | .modeWait | .eret | .interlock => true
  | _ => false

/-- In a stall of interlocked mode or a MODE wait, the updates that take effect with a branch's target move with the bundles,
so that the delay bundles still see what stood before (R137, R153, log 102, DEDUCED). -/
def Ctx.keepSteers (c : Ctx) (k : WaitKind) : Ctx :=
  if k = .interlock ∨ k = .modeWait then
    { c with infl := c.infl.map (fun r => if r.steers then { r with land := r.land + 1 } else r),
             snap := if c.replayU.isSome then c.snap.map (fun e => if e.res.steers then { e with k := e.k + 1 } else e) else c.snap }
  else c

/-- A cycle in which the core is frozen. -/
def State.frozen (s : State) (k : Option WaitKind) : State :=
  let c : Ctx := s.ctx.count 3 1
  let c : Ctx := match k with
    | some k =>
      let c : Ctx := { c with
        stallAt := (if c.stallAt.any (fun x => x.2 == k) then c.stallAt else some (s.now, k)),
        clk := if k.bubbles then c.clk + 1 else c.clk }
      c.keepSteers k
    | none => c
  { s with ctx := c, core := { s.core with readyAt := s.now + 1 } }

/-- The issue of the focus context's next bundle. -/
def State.issue (s : State) (ex : Instr → State → Out) : Out :=
  match s.tryBundle ex with
  | .goes t => .next (t.retire (decodeBytes (s.fetch s.ctx.q0.addr)) s.ctx.q0.an)
  | .stops t => .next t
  | .waits k t => .next (t.frozen (some k))
  | .other o => o

/-! ## Forced pre-emption of a running context (R101, R103, R413) -/

/-- The cores that a waiting LAUNCH of priority 7 finds without a free context (R413, R417). -/
def State.wantedCores (s : State) : List Nat :=
  (s.fe.packets.filter (fun p => p.typ == 1 && p.phase == 0 && qdPrio (s.qd p.queue 0) == 7 && s.barOpen p)).flatMap (fun p =>
    let lock := bitAt (p.body 0) 63
    p.cores.filter (fun n => decide (n < 192) && ((s.freeSlot n).isNone
      || (lock && s.allCtxs.any (fun c => c.core == n && c.status != .free)))))

/-- The context of a core that such a LAUNCH pre-empts: the lowest rank not launched from a priority-7 queue. -/
def State.victim (s : State) (n : Nat) : Option Ctx :=
  let cs := s.allCtxs.filter (fun c => c.core == n && c.prio != 7
    && (c.status == .ready || c.status == .parked || c.status == .faulted))
  cs.foldl (fun (o : Option Ctx) c => match o with
    | some x => if x.precedes c s.now then some c else some x
    | none => some c) none

/-- Whether the front end forces the pre-emption of a context for its own sake (R103). -/
def State.preemptWanted (s : State) (c : Ctx) : Bool :=
  !c.companion && (c.overran || (s.wantedCores.contains c.core
    && (s.victim c.core).any (fun v => v.slot == c.slot)))

/-- Whether the front end forces the pre-emption of a context: for its own sake or, in a lockstep launch, for the sake of any
member (R84). -/
def State.preemptDue (s : State) (c : Ctx) : Bool :=
  if c.lock then s.allCtxs.any (fun x => x.lock && x.launch == c.launch && x.status.resident && s.preemptWanted x)
  else s.preemptWanted c

/-! ## Asynchronous events (R101, R102) -/

/-- Whether an asynchronous event may be taken now: at a fresh boundary, or in a wait that stands at one (R101). -/
def Ctx.atBoundary (c : Ctx) : Bool := match c.stallAt with
  | none => true
  | some (_, k) => k.boundary

/-- Whether a lockstep launch is to be pre-empted while another of its members has not come to a boundary: those at one stop issuing
until all are (R84, R103). A handler of a member goes on until its ERET. -/
def State.preemptHeld (s : State) : Bool :=
  s.ctx.lock && s.preemptDue s.ctx && s.preemptSet.all (fun e => !(s.focus e.1 e.2).ctx.sv)

/-- The asynchronous event that comes before the next bundle (R102). A lockstep launch is pre-empted at a boundary that all its
members share (R84). -/
def State.asyncEvent (s : State) : Option Act :=
  let c := s.ctx
  if !c.atBoundary then none
  else if !c.sv && s.preemptDue c && (!c.lock || s.commonBoundary) then some execForcedPreemption
  else if s.preemptHeld then some (fun s => .next (s.frozen none))
  else if c.interrupting then some execInterruptTaken
  else if c.overPend && !c.sv then some execBudgetOverrun
  else if c.stallAt.isNone && c.atBreakpoint then some execBreakpoint
  else none

/-! ## Lockstep sets (R83, R84) -/

/-- Whether the focus context's core is frozen by late data, a calendar line held for it, or throttling (R88, R232, R426). -/
def State.coreFrozen (s : State) : Bool :=
  s.ctx.late.any (fun e => decide (e.1 ≤ s.ctx.clk) && decide (s.now < e.2))
  || decide (s.now < s.core.throttle)
  || (s.core :: s.cores).any (fun k => k.lines.any (fun l =>
      l.core == s.core.id && decide (l.at_ + 520 ≤ s.now) && (!l.read || decide (s.now < l.land))))

/-- The other members of the focus context's lockstep set. -/
def State.peers (s : State) : List Ctx :=
  if s.ctx.lock then s.ctxs.filter (fun c => c.lock && c.launch == s.ctx.launch && c.core != s.ctx.core
    && chamberOf c.core == chamberOf s.ctx.core && c.status.resident)
  else []

/-- Whether a member stops its lockstep set, whatever the others do: it is parked for a page fault, it runs a handler, or its ERET
has issued in this cycle, so that its EPCQ0 re-issues in the next one, with the others (R83, R84). -/
def Ctx.stopsSet (c : Ctx) (now : Nat) : Bool := c.sv || c.status == .faulted || c.handlerAt == now + 1

/-- Whether a member of a lockstep set holds the focus context back in this cycle: it is parked for a page fault, it runs a
handler, it is frozen on its own account, or it takes a trap (a synchronous or an asynchronous one) while the focus context does
not. Two members in handlers at once do not hold each other, but for a page fault of one (log 124, DESIGN CHOICE). -/
def State.heldBy (s : State) (ex : Instr → State → Out) (c : Ctx) (trapping : Bool) : Bool :=
  if s.ctx.sv then
    (if c.sv then c.status == .faulted else false)
  else if c.stopsSet s.now then true
  else if c.status != .ready then false
  else if (c.lastIssue = s.now ∧ 0 < c.seq) ∨ c.heldAt = s.now + 1 then false
  else
    let t := s.focus c.core c.slot
    decide (s.now < t.core.readyAt) || t.coreFrozen || (!trapping && t.asyncEvent.isSome) || (match t.tryBundle ex with
      | .waits _ _ => true
      | .stops _ => !trapping
      | _ => false)

/-- Whether the focus context must stand still for its lockstep set; one that waits on its own account stands still for
that, and takes no event while a handler of another member runs. -/
def State.heldBack (s : State) (ex : Instr → State → Out) : Bool :=
  match s.peers with
  | [] => false
  | ps =>
    if !s.ctx.sv && ps.any (fun c => c.stopsSet s.now) then true
    else match s.tryBundle ex with
    | .waits _ _ => false
    | .stops _ => ps.any (fun c => s.heldBy ex c true)
    | _ => ps.any (fun c => s.heldBy ex c s.asyncEvent.isSome)

/-- A cycle in which its lockstep set holds the focus context. -/
def State.held (s : State) : State :=
  let s := s.frozen none
  { s with ctx := { s.ctx with heldAt := s.now + 1 } }

/-! ## The turn of a core -/

/-- After an event of the turn: a context that still holds its core and has nothing else to wait for tries again in the next
cycle. -/
def State.again (s : State) : State :=
  if s.core.readyAt ≤ s.now then { s with core := { s.core with readyAt := s.now + 1 } } else s

/-- The turn of the focus core, whose running context is the focus context and may issue in this cycle. At a YIELD's yield point the
switch comes before an interrupt that has become pending after its issue; that waits for the return (log 123, DESIGN CHOICE). -/
def State.turn (s : State) (ex : Instr → State → Out) : Out :=
  if s.ctx.status != .ready then
    .next { s with ctx := { s.ctx with clk := s.ctx.clk + 1 }, core := { s.core with readyAt := s.now + 1 } }
  else if s.coreFrozen then .next (s.frozen none)
  else if s.heldBack ex then .next s.held
  else if s.ctx.steer.yield then
    let s := { s with ctx := { s.ctx with steer := { s.ctx.steer with yield := false } } }
    .next (if s.ctx.switchable then s.yieldPoint false else s)
  else match s.asyncEvent with
    | some f => (match f s with
      | .next t => .next t.again
      | o => o)
    | none =>
      if s.stalledLong then execWaitStallYield s
      else s.issue ex

end Sys2Proof.Machine
end

