-- ==== Sys2Proof/Machine/Schedule.lean ====
section
/-! DEFINITION. What the package does next: input events, steps that are due in a cycle, steps of engines that may come in any
order (spec/06 R122, R123; log 5, DESIGN CHOICE), the turns of the cores, the end of a cycle. -/

namespace Sys2Proof.Machine

/-! ## Input events -/

/-- Whether a row of the table comes from outside the package: the fabric, the host and firmware, the platform (log 4, DESIGN
CHOICE). -/
def fromOutside : Instr → Bool
  | .flitReceive .. | .routeTableLoad .. | .linkModeWrite .. | .linkKeyInstall .. | .linkStopGo .. | .replayRequest ..
  | .linkTrainingDone .. | .nbaseWrite .. | .hostControlRead .. | .hostControlWrite .. | .tlbInvalidate ..
  | .pageFaultAnswer .. | .scrubPass .. | .mrExt .. | .powerOnBoot .. | .getVersion .. | .getCapabilities ..
  | .negotiateAlgorithms .. | .getDigests .. | .getCertificate .. | .challenge .. | .getMeasurements .. | .keyExchange ..
  | .finish .. | .spdmUnsupported .. | .energyInterval .. | .thermalThrottle .. | .thermalShutdown | .powerLoss => true
  | _ => false

/-- Whether an input event acts on a package that is not running: its boot, the firmware's measurements, the hub's SPDM
answers, a loss of power. -/
def whenDown : Instr → Bool
  | .powerOnBoot .. | .mrExt .. | .getVersion .. | .powerLoss => true
  | _ => false

/-- The place of an input event among those of its cycle: host commands come first (R416). -/
def inputClass : Instr → Nat
  | .hostControlRead .. | .hostControlWrite .. | .nbaseWrite .. | .tlbInvalidate .. => 0
  | _ => 1

/-- Whether an input event comes before another: by cycle, host commands first. -/
def inputBefore (a b : Nat × Instr) : Bool :=
  decide (a.1 < b.1) || (a.1 == b.1 && decide (inputClass a.2 < inputClass b.2))

/-- The input event that is due, and the state without it; an event that has no meaning here is none. -/
def State.dueInput (s : State) : Option (Option Instr × State) :=
  let first := (s.inputs.filter (fun e => decide (e.1 ≤ s.now))).foldl (fun (o : Option (Nat × Instr)) e => match o with
    | some x => if inputBefore e x then some e else some x
    | none => some e) none
  match first with
  | none => none
  | some e =>
    let ok := fromOutside e.2 && (s.plat.power == .running || s.plat.power == .shut || whenDown e.2)
    some (if ok then some e.2 else none, { s with inputs := s.inputs.erase e })

/-! ## Steps that are due -/

/-- An event of a context. -/
def onCtx (c : Ctx) (f : Act) : Act := fun s => f (s.focus c.core c.slot)

/-- An event of a core. -/
def onCore (k : Core) (f : Act) : Act := fun s => f (s.focusCore k.id)

/-- All cores that are not idle since reset, the focus core first. -/
def State.allCores (s : State) : List Core := s.core :: s.cores

/-- The first step that a list of things gives. -/
def firstAct {α : Type} (l : List α) (f : α → Option Act) : Option Act :=
  match l with
  | [] => none
  | x :: t => match f x with
    | some a => some a
    | none => firstAct t f

/-- Whether a context runs on its core. -/
def State.runs (s : State) (c : Ctx) : Bool := (s.coreAt c.core).running == some c.slot

/-- What is due in a context by its own clock and by the cycle: pattern entries, MWAIT timeouts, captured and fresh results,
late data that has come. What its clock makes due comes at the start of a cycle in which its core has a turn, and at any time
when its task has ended off the core. -/
def State.ctxDue (s : State) (c : Ctx) : Option Act :=
  if c.vpld.any (fun w => decide (w.due ≤ s.now)) then some (onCtx c execPatternEntryWrite)
  else if c.mwaitAt.any (fun d => decide (d ≤ s.now)) then some (onCtx c execMwaitTimeout)
  else if (s.runs c && decide ((s.coreAt c.core).readyAt ≤ s.now)) || (c.over && !s.runs c) then
    (if c.freshFirst then some (onCtx c execResultLands)
    else if c.dueSnap.isSome then some (onCtx c execSnapshotReplay)
    else if c.dueRes.isSome then some (onCtx c execResultLands)
    else if c.late.any (fun e => decide (e.1 ≤ c.clk) && decide (e.2 ≤ s.now)) then some (onCtx c execFreezeEnd)
    else none)
  else none

/-- The context that stands for a core. -/
def State.faceOf (s : State) (k : Core) : Option Ctx := s.ctxAt k.id k.face

/-- The calendar lines of a core with their numbers. -/
def Core.numbered (k : Core) : List (Nat × CalLine) := k.lines.zipIdx.map (fun e => (e.2, e.1))

/-- What a calendar line needs next (R217, R231, R232): its read at slot + 12, a hold when its channel serves too many, its
landing. -/
def State.lineDue (s : State) (k : Core) (e : Nat × CalLine) : Option Act :=
  let l := e.2
  let asked := l.dev.isSome && s.fab.out.any (fun o => o.core == k.id && o.slot == 16 + l.chan && o.step == l.index
    && o.pkt.stream == 6144 + 4 * k.id + l.chan && o.answer.isNone)
  if !l.read then (if decide (l.at_ + 12 ≤ s.now) && !asked then some (onCore k (execCalendarLineRead e.1)) else none)
  else if decide (l.at_ + 12 = s.now) && decide (l.land = l.at_ + 520) && s.calLate l then
    some (onCore k (fun s => execCalendarHold e.1 (s.calDelay l (Config.delay s.draw)) { s with draw := s.draw + 1 }))
  else if l.land = 0 ∨ s.now < l.land then none
  else if !l.stored then some (onCore k (execCalendarLineLanding e.1))
  else if s.scrPending (l.agent k.id) then none
  else some (onCore k (fun s => .next (s.calLanded e.1)))

/-- Whether the next line of a channel is due at its slot (R217). -/
def Core.issueDue (k : Core) (now ch : Nat) : Bool :=
  let c := k.chan ch
  match c.queue with
  | q :: _ => c.active && !c.flt && q.regs.cal && !q.regs.empty && decide (c.issued < q.regs.lineCount) && decide (c.readyAt ≤ now)
  | [] => false

/-- The channels of a core whose oldest line has landed with poison (R233). -/
def Core.poisoned (k : Core) : Option Nat := (List.range 4).find? (fun ch => match k.linesOf ch with
  | l :: _ => l.land == 0
  | [] => false)

/-- What is due in a core's store: the end of a PHASE window, stores and captures on their way. A capture of a cycle comes before the
calendar lines that land in it, whichever core's channel they belong to (R221). -/
def State.scrDue (s : State) (k : Core) : Option Act :=
  if k.phaseEnd.any (fun e => decide (e ≤ s.now)) then some (onCore k execPhaseWindowEnd)
  else if k.later.any (fun w => decide (w.due ≤ s.now)) then some (onCore k (fun s => .next s.scrLand))
  else none

/-- What is due in a core besides: writes of the matrix array, the calendar, a quantum boundary. -/
def State.coreDue (s : State) (k : Core) : Option Act :=
  let clk := match s.faceOf k with
    | some c => c.clk
    | none => 0
  if decide (k.readyAt ≤ s.now) && k.beats.any (fun b => decide (b.due ≤ clk)) then some (onCore k execTileRowLanding)
  else if decide (k.readyAt ≤ s.now) && k.latchW.any (fun b => decide (b.due ≤ clk)) then some (onCore k execLatchRowWrite)
  else if s.now % 256 = 0 ∧ k.calNext.isSome ∧ k.calSince < s.now then some (onCore k execCalendarRotationStart)
  else match firstAct k.numbered (s.lineDue k) with
    | some f => some f
    | none =>
      match k.poisoned with
      | some ch => some (onCore k (execCopyChannelFault (BitVec.ofNat 2 ch)))
      | none =>
        match k.slotOwner s.now with
        | some ch => if k.issueDue s.now ch then some (onCore k (execCalendarLineIssue (BitVec.ofNat 2 ch)))
            else if k.qEnd ≤ s.now then some (onCore k execQuantumBoundary) else none
        | none => if k.qEnd ≤ s.now then some (onCore k execQuantumBoundary) else none

/-- What is due in a context beyond its own clock: a post to its own flags (R167), the report of its end (R156), the end of
the wait it is parked in (R87). -/
def State.taskDue (s : State) (c : Ctx) : Option Act :=
  if c.pushes.any (fun e => s.pushReady c e.2.2) then some (onCtx c (fun s => .next s.pushWords))
  else if c.posts.any Post.isOwn && (s.focus c.core c.slot).settled false then some (onCtx c execPostDelivery)
  else if (c.status == .ending || c.status == .halted) && (s.focus c.core c.slot).endSettled then
    some (onCtx c execTaskEndReport)
  else if c.status == .parked && (s.focus c.core c.slot).waitOver then
    some (fun s => execParkedContextReady c.slot (s.focusCore c.core))
  else none

/-- An idle core with a ready context (R85). -/
def State.idleDue (s : State) (k : Core) : Option Act :=
  if k.running.isNone && s.allCtxs.any (fun c => c.candidate k.id) then some (onCore k execIdleSwitchIn) else none

/-- The requests whose timer has expired (R311). -/
def State.timersDue (s : State) : Option Act :=
  (s.fab.out.find? (fun o => o.due != 0 && o.answer.isNone && decide (o.due ≤ s.now))).map (fun o =>
    execRequestResendTimer o.pkt.dst o.pkt.stream o.pkt.num)

/-- A keyed link whose requester must run a new exchange (R423). -/
def State.rekeyDue (s : State) : Option Act :=
  ((List.range 6).find? s.rekeys).map (fun l => fun s => .next (s.asksFor l))

/-- The word of a core store that an uncorrectable error marks, when one has come about (R206). -/
def State.storeDue (s : State) : Option Act :=
  (s.upsets.find? (fun u => u.place == .store && decide (u.at_ ≤ s.now))).map (fun u => fun s => .next (s.struck u))

/-- The saved context whose image shows next what came to it (R166, R409). -/
def State.patchDue (s : State) : Option Act := (s.saved.find? s.patchable).map (fun v => fun s => .next (s.imagePatched v))

/-- What the end of a task, a context that becomes ready, or what comes to a saved one brings about (R85, R87, R156, R409). -/
def State.ctxChange (s : State) : Option Act :=
  (firstAct s.allCtxs s.taskDue).or ((firstAct s.allCores s.idleDue).or s.patchDue)

/-- The next step that is due in this cycle. Calendar reads come before every access of the cycle: the order of a read at slot + 12
and an `.l2` store of that cycle is the arbiter's (R235, log 111, DESIGN CHOICE). -/
def State.timedAct (s : State) : Option Act :=
  match firstAct s.allCtxs s.ctxDue with
  | some f => some f
  | none => match s.storeDue.or ((firstAct s.allCores s.scrDue).or (firstAct s.allCores s.coreDue)) with
    | some f => some f
    | none => s.ctxChange.or (s.timersDue.or (s.rekeyDue.or (s.filtersDue.head?.map (fun k => execSumpFilterClear k))))

/-! ## Steps of engines -/

/-- The deliveries of queued posts that may come next (R164, R166). -/
def State.postActs (s : State) : List Act :=
  s.allCtxs.filterMap (fun c =>
    if !c.posts.isEmpty && (s.focus c.core c.slot).settled false then some (onCtx c execPostDelivery) else none)

/-- What a channel shows of its progress. -/
def Channel.mark (c : Channel) : Nat × Nat × Nat × Bool := (c.queue.length, c.count, c.off, c.flt)

/-- The work of a copy channel that can go on (R122, R210, R219): all that can be done, or one element; a fault when the
next element meets one. -/
def State.copyActs (s : State) (k : Core) (ch : Nat) : List Act :=
  let c := k.chan ch
  let halts := c.halting && s.allCtxs.any (fun x => x.core == k.id && x.stallAt.any (fun w => w.2 == .channel))
  if halts || !(c.active && !c.flt && decide (c.readyAt ≤ s.now)) then []
  else
    let t := s.focusCore k.id
    let u := t.copyWork ch 1
    let moved := (u.core.chan ch).mark != c.mark || u.fab.out.length != s.fab.out.length
    let b := BitVec.ofNat 2 ch
    if !moved then []
    else if (u.core.chan ch).flt then [onCore k (execCopyChannelFault b)]
    else [onCore k (execCopyCommandComplete b), fun s => .next ((s.focusCore k.id).copyWork ch 1)]

/-- All copy work that can go on. -/
def State.allCopyActs (s : State) : List Act := s.allCores.flatMap (fun k => (List.range 4).flatMap (fun ch => s.copyActs k ch))

/-- What the router does with a packet that has reached it by link l (6 for the package itself), if it can. -/
def State.packetAct (s : State) (e : Nat × Pkt) : Option Act :=
  let (l, k) := e
  match k.body with
  | .mcast .. => some (execMulticastMemberArrival l k)
  | .collUp g op low _ =>
    if l ≠ 6 ∧ k.dst ≠ s.fab.dev then some (execTransitForward k) else some (execCollectiveCombine g op low k)
  | .collDown g op _ =>
    if k.dst ≠ s.fab.dev then some (execTransitForward k)
    else if s.collRoom g then some (execCollectiveResult g op k) else none
  | .response w bs busy =>
    if 8192 ≤ k.stream then
      some (if busy then fun s => .next ((s.taken k).mergeTold l k.dst k.stream k.num w bs)
        else fun s => execMulticastMerge l (k.dst) k.stream k.num w (ordOf bs) (s.taken k))
    else if k.dst ≠ s.fab.dev then some (execTransitForward k)
    else if 6912 ≤ k.stream ∧ k.stream < 6920 ∧ s.fab.out.any (fun o => o.core == 254 && o.pkt.dst == k.src
        && o.pkt.stream == k.stream && o.pkt.num == k.num) then some (execFlowstoneRowAck (k.stream - 6912) k)
    else if 6920 ≤ k.stream ∧ k.stream < 6928 ∧ s.fab.out.any (fun o => o.pkt.vc == 3 && o.pkt.dst == k.src
        && o.pkt.stream == k.stream && o.pkt.num == k.num) then some (execSweepSignal k)
    else some (execFabricResponseArrival k)
  | .port _ => if k.dst ≠ s.fab.dev then some (execTransitForward k) else some (execPortPacketArrival k)
  | .row h _ _ _ _ _ _ =>
    if k.dst ≠ s.fab.dev then some (execTransitForward k)
    else if s.rowReady h then some (execFlowstoneRowReceive k) else none
  | .other ws =>
    if k.vc = 6 ∧ l < 6 then some (fun s => .next ((s.taken k).linkSpdm l ws))
    else if k.dst ≠ s.fab.dev then some (execTransitForward k)
    else if k.vc = 3 then some (execSweepSignal k)
    else some (execFabricRequestArrival k)
  | _ =>
    if k.dst ≠ s.fab.dev then some (execTransitForward k)
    else some (execFabricRequestArrival k)

/-- The first request of each stream among some that have not left. -/
def firstOfStreams : List Nat → List Outstanding → List Outstanding
  | _, [] => []
  | seen, o :: t =>
    if seen.contains o.pkt.stream then firstOfStreams seen t else o :: firstOfStreams (o.pkt.stream :: seen) t

/-- The requests that may leave (R314): those of one stream leave in order (R311, R312). -/
def State.sendActs (s : State) : List Act :=
  (firstOfStreams [] (s.fab.out.filter (fun o => o.due == 0 && o.answer.isNone))).map (fun o => execMappedRequestSend o.pkt)

/-- The steps of a Flowstone run that may come next (R339 to R343). -/
def State.flowActs (s : State) (r : Run) : List Act :=
  let soReady := s.answeredAll r.soWho.key
  let recReady := s.answeredAll r.recWho.key
  (if s.flowGrantable r && soReady then [execFlowstoneSoGranted r.slot] else [])
  ++ (if s.flowSends r && s.answeredAll r.who.key then
      [if r.ckpt then execCkptChunkSend r.slot else execFlowstoneRowSend r.slot] else [])
  ++ (if s.flowCommits r && recReady then [execFlowstoneCommit r.slot] else [])
  ++ (if (s.flowDone r && r.quiet && recReady) || (r.rstate == 4 && r.quiet && r.wait.isNone && soReady) then [execFlowstoneRunDone r.slot]
      else [])

/-- The sweeps that may go on (R355, R360), and the events of horizons that another package has answered for (R372). -/
def State.sweepActs (s : State) : List Act :=
  s.rim.filterMap (fun z => (s.sweepDue z.h).map (fun k => execSweepSignal k))
  ++ (List.range 8).filterMap (fun h =>
    if s.rimEvents.any (fun e => e.h == h) && s.answeredAll (96 + h) then some (fun s => .next (s.eventNext h)) else none)

/-- The acknowledgements of far accesses and the spurious wakes of monitors (R179, R229). -/
def State.homeActs (s : State) : List Act :=
  ((s.far.filter (fun h => h.far)).map (fun h => execFarAccessAck h.sector))
  ++ s.allCtxs.filterMap (fun c => match c.mon with
      | some m => if m.woken then none else some (execMonitorWake c.core c.slot)
      | none => none)

/-- The saved contexts that may be restored: their places are free, and no LAUNCH of priority 7 waits for a core of theirs
(R413). -/
def State.restoreActs (s : State) : List Act :=
  s.saved.zipIdx.filterMap (fun e =>
    if (s.restoreSet e.1).all (fun v => s.restorable v.ctx && !s.wantedCores.contains v.ctx.core
        && s.answeredAll v.ctx.imageWho.key) then some (execContextRestore e.2)
    else none)

/-- The contexts that do not run and are to be pre-empted (R103, R413). -/
def State.preemptActs (s : State) : List Act :=
  s.allCtxs.filterMap (fun c =>
    if (c.status == .parked || c.status == .faulted || c.status == .ready) && !s.runs c && s.preemptDue c
        && s.answeredAll c.imageWho.key
        && (s.focus c.core c.slot).commonBoundary then
      some (onCtx c execForcedPreemption) else none)

/-- Every step of an engine that may come now. -/
def State.engineActs (s : State) : List Act :=
  s.postActs ++ s.allCopyActs ++ s.fab.loop.filterMap s.packetAct ++ s.sendActs ++ s.flows.flatMap s.flowActs
  ++ s.sweepActs ++ s.homeActs

/-- The front end's own steps that may come now: services and packets, restores, pre-emptions. Its arbiter accepts them after
every other event of the cycle (R416). -/
def State.frontActs (s : State) : List Act := s.feSteps ++ s.restoreActs ++ s.preemptActs

/-- One of a list of steps, or none, by a free choice (log 5, DESIGN CHOICE). -/
def State.chosen (s : State) (l : List Act) : Option Act × State :=
  match l with
  | [] => (none, s)
  | l =>
    let (k, s') := s.drawn
    (l[k % (l.length + 1)]?, s')

/-! ## Turns of the cores -/

/-- Whether a core's running context has its turn in this cycle. -/
def Core.hasTurn (k : Core) (now : Nat) : Bool := k.running.isSome && decide (k.readyAt ≤ now)

/-- The cores that have their turn in this cycle, in ascending order. -/
def State.turns (s : State) : List Nat :=
  (s.allCores.filter (fun k => k.hasTurn s.now)).foldl (fun l k => insertNat l k.id) []

/-- Whether a core waits for its turn: the companion queue of its chamber has fewer places left than the chamber's cores in the
list, which then push in ascending index and before the companion pops (R383, R394, log 54, DESIGN CHOICE), and a lower one is
in the list. -/
def State.pushesLater (s : State) (l : List Nat) (n : Nat) : Bool :=
  let mine := l.filter (fun k => decide (k < 192) && chamberOf k == chamberOf n)
  decide (256 < (s.queue (chamberOf n)).items.length + mine.length) && mine.any (fun k => decide (k < n))

/-- The core that has its turn next; which of several comes first is a free choice (R18, logs 5 and 54, DESIGN CHOICE). -/
def State.turnCore (s : State) : Option Nat × State :=
  match s.turns.filter (fun n => !s.pushesLater s.turns n) with
  | [] => (none, s)
  | [n] => (some n, s)
  | l =>
    let (k, s') := s.drawn
    (l[k % l.length]?, s')

/-! ## The end of a cycle -/

/-- A cycle in which a context holds its core: it is counted, and its stated run goes down (R101, R107). -/
def Ctx.heldCycle (c : Ctx) : Ctx :=
  let c := c.count 0 1
  let left := if c.bleft = 0 then 0 else c.bleft - 1
  { c with bleft := left, held := c.held + 1,
           overPend := c.overPend || (c.bleft == 1 && bitAt c.budget 63) }

/-- The cycle's core time goes to the agencies (R424); a companion's counts by issued bundles. -/
def State.accountCycle (s : State) : State :=
  (s.allCtxs.filter (fun c => s.runs c && !c.companion)).foldl State.coreCycle s

/-- Bus arrivals without a capture are gone (R220). -/
def State.expire (s : State) : State :=
  (s.allCores.filter (fun k => !k.bus.isEmpty)).foldl (fun (s : State) k =>
    match execBusArrival (s.focusCore k.id) with
    | .next t => t.focus s.ctx.core s.ctx.slot
    | _ => s) s

/-- The next cycle: the front end has accepted the reports of this one (R416). -/
def State.nextCycle (s : State) : State :=
  let s := s.acceptReports
  { s with now := s.now + 1, part := .events }

/-- The end of a cycle. -/
def State.tick (s : State) : State :=
  let s := s.expire.accountCycle
  (s.mapCtx (fun c => s.runs c) Ctx.heldCycle).nextCycle

/-! ## The package's step, without the meanings of slot operations -/

/-- The last part of a cycle: a step of the front end, then the end of the cycle (R416). -/
def State.frontPart (s : State) : Out :=
  match ({ s with part := .front }).ctxChange with
  | some f => f { s with part := .front }
  | none => match ({ s with part := .front }).chosen ({ s with part := .front }).frontActs with
    | (some f, v) => f v
    | (none, v) => .next v.tick

/-- The turns of the cores, one after another. -/
def State.turnPart (s : State) (ex : Instr → State → Out) : Out :=
  match ({ s with part := .turns }).turnCore with
  | (some n, u) => (u.focusCore n).turn ex
  | (none, u) => u.frontPart

/-- A step of a running package: what is due, an engine's step, a core's turn, a step of the front end, the end of the cycle.
What engines do comes before the turns of its cycle, so that a post of the cycle applies before a test of it (R167); what follows
from a turn comes in the next cycle. -/
def State.running (s : State) (ex : Instr → State → Out) : Out :=
  match s.part with
  | .events => (match s.timedAct with
    | some f => f s
    | none => match s.chosen s.engineActs with
      | (some f, t) => f t
      | (none, t) => t.turnPart ex)
  | .turns => s.turnPart ex
  | .front => s.frontPart

/-- A step of the package (R419, R421, R426): an input event, or what its power allows. -/
def State.stepWith (s : State) (ex : Instr → State → Out) : Out :=
  match s.dueInput with
  | some (some i, t) => ex i t
  | some (none, t) => .next t
  | none => match s.plat.power with
    | .running | .shut => s.running ex
    | .booting | .stuck => .next s.nextCycle
    | .off => if s.inputs.isEmpty then .fault .powerless else .next s.nextCycle

/-- The slot in which a table word stands: the first position, in the order C, X, V, M, whose table assigns it (log 11, DESIGN
CHOICE). -/
def slotOfWord (nbits w : Nat) : Nat := match decodeTableWord nbits w with
  | some i => (instrPos i).slot.toNat
  | none => 0

/-- A bundle with a word in a slot and NOPs in the others. -/
def bundleOfWord (k w : Nat) : List Byte :=
  let sw := BitVec.ofNat 32 w
  match k with
  | 0 => bundleBytes sw 0 0 0
  | 1 => bundleBytes 0 sw 0 0
  | 2 => bundleBytes 0 0 sw 0
  | _ => bundleBytes 0 0 0 sw

/-- A bundle placed where the focus context fetches next, with the package running and that context holding its core
(log 3, DESIGN CHOICE). -/
def State.placed_ (s : State) (bs : List Byte) : State :=
  let c := s.ctx
  let size := Nat.max c.imSize (c.q0.addr + 16)
  let s := if c.companion then { s with loc := memPutN s.loc (locKey (chamberOf c.core) (c.imBase + c.q0.addr)) bs }
    else { s with imem := memPutN s.imem (imKey c.core (c.imBase + c.q0.addr)) bs }
  { s with
    part := .events, plat := { s.plat with power := .running },
    ctx := { c with status := .ready, imSize := size, stallAt := none, steer := {}, q0 := ⟨c.q0.addr, false⟩ },
    core := { s.core with running := some c.slot, owner := some c.slot, readyAt := s.now, idleSince := none } }

end Sys2Proof.Machine
end

