-- ==== Sys2Proof/Machine/Step.lean ====
section
/-! DEFINITION. The one step of the machine: `State.stepWith` (Schedule.lean) with the meanings of Dispatch.lean. -/

namespace Sys2Proof.Machine

/-- One step of the package. -/
def step (s : State) : Host.Outcome State Fault Refusal := s.stepWith exec

/-- The state with one table word placed where the next step fetches, alone in its bundle; it stands for the load of a
program by POWER_ON_BOOT, LAUNCH and LAUNCH_RELEASE (log 3, DESIGN CHOICE). -/
def State.withFetchWord (s : State) (nbits w : Nat) : State := s.placed_ (bundleOfWord (slotOfWord nbits w) w)

end Sys2Proof.Machine
end

