-- ==== Sys2Proof/Safety.lean ====
section
/-! DEFINITION. What counts as a safe run, and the terms the statements use: a step that is neither a fault nor a refusal, byte
memories in canonical form, a slot operation that has run, results sent to registers. -/

namespace Sys2Proof.Machine

/-- A step is safe when it answers a next state: it is neither a fault nor a refusal. -/
def Out.Safe (o : Out) : Prop := ∃ t, o = .next t

/-- Every byte memory stands in canonical form: addresses strictly rising, no listed byte zero (log 2, DESIGN CHOICE). -/
def State.MemWf (s : State) : Prop :=
  Memory.wf s.mem = true ∧ Memory.wf s.scr = true ∧ Memory.wf s.loc = true ∧ Memory.wf s.imem = true

/-- The state once a slot operation has run (R35). -/
def State.ran (s : State) : State := { s with sig := .ran }

/-- The state in which a slot operation takes a trap for a request (R35, R93): the record marks this slot beside the ones
already marked. -/
def State.traps (s : State) (p : Pos) (r : TrapReq) : State :=
  { s.takeTrap r (s.mask ||| maskBit p) with sig := .trapped r, mask := 0 }

/-- A scalar register field that names no port (R134, R135). -/
def PlainReg (n : BitVec 5) : Prop := n.toNat < 24 ∨ n.toNat = 31

/-- What a scalar source field gives when it reads a latch or a register (R27, R134). -/
def State.source (s : State) (byp : Bool) (n : BitVec 5) : Word :=
  if byp then (s.ctx.lat.getD (n.toNat % 4) (.scalar 0)).word else s.ctx.scalar n.toNat

/-- What a vector source field gives (R27, R236). -/
def State.vsource (s : State) (byp : Bool) (n : BitVec 5) : VVal :=
  if byp then (s.ctx.lat.getD (n.toNat % 4) (.scalar 0)).vec else s.ctx.vec n.toNat

/-- A scalar result on its way to register d, to land `lat` issued cycles later; s0 takes none (R28, R30, R134). -/
def State.sent (s : State) (p : Pos) (lat : Nat) (d : BitVec 5) (w : Word) : State :=
  if d.toNat = 0 then s.push p lat .none (.word w) 0
  else s.push p lat (.scalar (s.ctx.phys d.toNat)) (.word w) 0 (!p.wbs)

/-- A vector result on its way (R28, R30, R75). -/
def State.sentV (s : State) (p : Pos) (lat : Nat) (d : BitVec 5) (v : VVal) (mask : BitVec 256 := fullMask)
    (flags : BitVec 5 := 0) : State :=
  s.push p lat (.vector (s.ctx.vphys d.toNat)) (.vec v mask) flags (!p.wbs)

/-- A predicate result on its way; p0 takes none (R22, R236). -/
def State.sentP (s : State) (p : Pos) (lat : Nat) (d : BitVec 4) (v mask : BitVec 256) (flags : BitVec 5 := 0) : State :=
  s.push p lat (if d = 0 then .none else .pred d.toNat) (.pred v mask) flags (!p.wbs)

end Sys2Proof.Machine
end

