-- ==== Sys2Proof/Certificates/Slice0/Obligations.lean ====
section
/-! DEFINITION. The statements for the provers: what the numbered rules of spec/ say the instructions and the machine do. -/

open Sys2Proof Sys2Proof.Machine

/-! ## The machine as a whole -/

/-- What the spec says of package reset: no boot has run (R419), the measurement registers read as zero (R420), transfer IDs and
the channels' registers are at reset (R207, R209), the calendar map is (R216), nothing is launched, memory reads as the model's choice of log 2, DESIGN CHOICE says. -/
def Obligations.ResetLeavesTheSpecValues : Prop :=
  State.reset.plat.power = .booting ∧ State.reset.plat.mr = Vector.replicate 8 (List.replicate 64 0)
  ∧ (∀ n, (State.reset.coreAt n).running = none ∧ (State.reset.coreAt n).mode = none
      ∧ (State.reset.coreAt n).chans = Vector.replicate 4 Channel.reset ∧ (State.reset.coreAt n).calMap = calReset)
  ∧ State.reset.launches = [] ∧ State.reset.groups = [] ∧ State.reset.rim = [] ∧ State.reset.flows = []
  ∧ (∀ a n, memGetN State.reset.mem a n = List.replicate n 0)

/-- The canonical form (log 2, DESIGN CHOICE) holds at reset. -/
def Obligations.ResetMemoryIsCanonical : Prop := State.reset.MemWf

/-- R81's table: what every context holds when its launch is released. -/
def Obligations.ReleasedContextStartsAsTheTableSays : Prop :=
  ∀ (x : Machine.Place) (p : Packet) (num prio slot gran piece : Nat) (tiles : List Nat),
    let c := x.ctx p num prio (slot, gran, tiles, piece)
    c.q0 = ⟨x.entry, false⟩ ∧ c.q1 = ⟨x.entry + 16, false⟩ ∧ c.q2 = ⟨x.entry + 32, false⟩
    ∧ c.scalar 1 = w64 x.pblk ∧ c.scalar 31 = x.top
    ∧ (∀ n, n ≠ 1 → n ≠ 31 → c.scalar n = 0) ∧ (∀ k, c.win.getD k 0 = 0)
    ∧ (∀ n, n < 32 → c.vec n = VVal.zero) ∧ c.pred 0 = BitVec.allOnes 256 ∧ (∀ n, 1 ≤ n → n ≤ 15 → c.pred n = 0)
    ∧ (∀ k : BitVec 5, c.flag k = bits (x.flags.getD (k.toNat / 4) 0) (16 * (k.toNat % 4) + 15) (16 * (k.toNat % 4)))
    ∧ (∀ k, c.sg.getD k 0 = 0) ∧ (∀ b e, c.pattern b e = List.replicate 256 0)
    ∧ (∀ k : Fin 4, (c.lat[k]).word = 0 ∧ (c.lat[k]).vec = VVal.zero)
    ∧ c.il = decide (192 ≤ x.core) ∧ c.sv = false ∧ c.ie = true ∧ c.ienable = BitVec.ofNat 2 x.ien
    ∧ c.fpflags = 0 ∧ c.fptrap = 0 ∧ c.lc = 0 ∧ c.ec = 0 ∧ c.vrb = 0 ∧ c.wbase = 0 ∧ (∀ k, c.perf.getD k 0 = 0)
    ∧ c.tiles = tiles

/-- In the part of a cycle in which the cores have their turns, when one context holds the only core with a turn and nothing comes before
its bundle, a step of the running package is the issue of that bundle. -/
def QuietTurn (s : State) : Prop :=
  s.dueInput = none ∧ s.plat.power = .running ∧ s.part = .turns ∧ s.turns = [s.core.id]
  ∧ s.core.running = some s.ctx.slot ∧ s.ctx.core = s.core.id ∧ s.ctx.status = .ready ∧ s.coreFrozen = false ∧ s.peers = []
  ∧ s.ctx.steer = {} ∧ s.asyncEvent = none ∧ s.stalledLong = false

/-- A bundle at the program counter that holds the one operation i, legally placed and free of hazards. -/
def HoldsOnly (s : State) (i : Instr) : Prop :=
  s.ctx.q0.an = false ∧ s.ctx.q0.addr < s.ctx.imSize
  ∧ bundleOps s.bundle = [((instrPos i).slot.toNat, i)] ∧ s.ctx.illegalSlots s.bundle = []
  ∧ s.ctx.illegalBundle [((instrPos i).slot.toNat, i)] = none
  ∧ (s.ctx.exposed || !s.ctx.interlocked i) = true

/-- No result of an operation issued now lands with an earlier one in the same register and cycle, or the scoreboard keeps the two
apart (R31, R34). -/
def NoCollision (s : State) (i : Instr) : Prop := s.ctx.exposed = false ∨ s.collides i = none

/-- The state in which the bundle of an operation takes a trap of its form. -/
def formTrapped (s : State) (i : Instr) (r : TrapReq) : State :=
  { s.takeTrap r (maskBit (instrPos i)) with sig := .trapped r }

/-- A step runs the decoded instruction: where the bytes at the program counter hold one operation, the step is `exec` of that
operation. When it runs, the bundle retires (the queue advances, the clocks and counters go on); when it traps, the trap record
marks its slot (R93); when it waits, the core is frozen for a cycle. An operation that turns out to have no meaning on its core is
an illegal opcode, and one whose result would land with an earlier one in the same register and cycle traps for that, whatever
larger cause it raises itself (R34, R35, R93). A wait comes before such a collision, but not a wait for an access's answer: the model's
reading (logs 38 and 39, DEDUCED). A cycle comes to the turns once nothing is due and no engine has a step (log 5, DESIGN CHOICE). -/
def Obligations.StepRunsTheDecodedInstruction : Prop :=
  (∀ s : State, s.dueInput = none → s.plat.power = .running → s.part = .events → s.timedAct = none → s.engineActs = [] →
    step s = step { s with part := .turns })
  ∧ ∀ (s t : State) (i : Instr), QuietTurn s → HoldsOnly s i → exec i s = .next t →
    let word := (wordOfBytes (((s.fetch s.ctx.q0.addr).drop (4 * (instrPos i).slot.toNat)).take 4)).toNat
    (t.sig = .ran → NoCollision s i → step s = .next (t.retire s.bundle false))
    ∧ (∀ r, t.sig = .trapped r → NoCollision s i → step s = if r.cause = cFp then .next (formTrapped s i r)
        else if r.cause = cIllegal then .next (formTrapped s i ⟨cIllegal, 0, w64 word⟩)
        else exec i { s with mask := maskBit (instrPos i) })
    ∧ (∀ k, t.sig = .waits k → ((k ≠ .access ∧ k ≠ .sweep) ∨ NoCollision s i) → step s = .next (t.frozen (some k)))
    ∧ (∀ x, s.ctx.exposed = true → s.collides i = some x →
        t.sig = .ran ∨ t.sig = .waits .access ∨ t.sig = .waits .sweep ∨ (∃ r, t.sig = .trapped r ∧ r.cause ≠ cIllegal) →
        step s = .next (formTrapped s i ⟨cCollision, 0, placeDetail x⟩))

/-- An annulled bundle does nothing but retire (R150): no slot of it is decoded, checked or run. -/
def AnnulledBundleOnlyRetires : Prop :=
  ∀ s : State, QuietTurn s → s.ctx.q0.an = true → step s = .next (s.retire s.bundle true)

/-- Retiring a bundle moves the queue (R150): the second and third entries move up, the branch's annulment falls on both, the
last is the branch's target or the bundle after the third; the bundle counts, and its steering is spent. -/
def QueueAdvancesWithTheBundle : Prop :=
  ∀ (s : State) (b : Bundle) (an : Bool), s.ctx.steer.ends = false → s.ctx.steer.eret = false →
    let t := s.retire b an
    t.ctx.q0 = ⟨s.ctx.q1.addr, s.ctx.q1.an || s.ctx.steer.annul⟩
    ∧ t.ctx.q1 = ⟨s.ctx.q2.addr, s.ctx.q2.an || s.ctx.steer.annul⟩
    ∧ (∀ a, s.ctx.steer.target = some a → t.ctx.q2 = ⟨a, false⟩)
    ∧ (s.ctx.steer.target = none → t.ctx.q2 = ⟨s.ctx.q2.addr + 16, false⟩)
    ∧ t.ctx.clk = s.ctx.clk + 1 ∧ t.ctx.seq = s.ctx.seq + 1 ∧ t.ctx.steer.target = none ∧ t.ctx.steer.annul = false
    ∧ t.ctx.infl = s.ctx.infl ∧ t.core.readyAt = s.now + 1 ∧ t.mem = s.mem ∧ t.scr = s.scr
    ∧ t.ctx.perf.getD 1 0 = s.ctx.perf.getD 1 0 + 1

/-- A bundle that is annulled only retires, and retiring moves the queue (R150). -/
def Obligations.RetiringMovesTheQueue : Prop := AnnulledBundleOnlyRetires ∧ QueueAdvancesWithTheBundle

/-! ## Decoding -/

/-- Words of the spec's own examples (LOOP, VTGR, SLPFX), and one word of each family written out bit by bit from the tables of
spec/03, decode in their slot to what they stand for. -/
def Obligations.SpecWordsDecode : Prop :=
  decodeSlot 0 false 0 0x58053000 = .ok (.loop (Pos.plain 0) 5 6)
  ∧ decodeSlot 1 false 0 0xB4C40000 = .ok (.vtgr (Pos.plain 1) 6 4)
  ∧ decodeSlot 1 false 0 0xACA00206 = .ok (.slpfx (Pos.plain 1) 2 5)
  ∧ decodeSlot 0 false 0 0b000001_00110_00100_01001_00000000000 = .ok (.add (Pos.plain 0) 6 4 9)
  ∧ decodeSlot 0 false 0 0b001110_00110_00100_0000_100101_100101 = .ok (.bfx (Pos.plain 0) 6 4 37 37)
  ∧ decodeSlot 0 false 0 0b000100_00110_00100_011_01_01010100101 = .ok (.br (Pos.plain 0) 6 4 3 1 677)
  ∧ decodeSlot 0 false 0 0b011000_00110_010101011110011011110 = .ok (.call (Pos.plain 0) 6 703710)
  ∧ decodeSlot 0 false 0 0b100010_00000_00110_0000_000000010000 = .ok (.srw (Pos.plain 0) 6 16)
  ∧ decodeSlot 0 false 0 0b100101_00000_00110_0001001000110100 = .ok (.waitf (Pos.plain 0) 6 4660)
  ∧ decodeSlot 0 false 0 0b101001_00110_00100_0000000000000000 = .ok (.gnew (Pos.plain 0) 6 4)
  ∧ decodeSlot 1 false 0 0b010011_00110_00100_001_0000100100011 = .ok (.ldD (Pos.plain 1) 6 4 1 291)
  ∧ decodeSlot 1 false 0 0b011111_00110_00100_01001_001_1011_10_00 = .ok (.vgth (Pos.plain 1) 6 4 9 1 11 2)
  ∧ decodeSlot 1 false 0 0b100001_00110_00100_01001_0010_1_1_00000 = .ok (.amo (Pos.plain 1) 6 4 9 2 true true)
  ∧ decodeSlot 1 false 0 0b100111_00110_0000000000000000000_10 = .ok (.ego (Pos.plain 1) 6 2)
  ∧ decodeSlot 1 false 0 0b101011_00110_00100_01001_011_00000111 = .ok (.slinfo (Pos.plain 1) 3 6 4 9)
  ∧ decodeSlot 2 false 0 0b000001_00110_00100_01001_1011_01_01001 = .ok (.vadd (Pos.plain 2) 6 4 9 11 1 9)
  ∧ decodeSlot 2 false 0 0b011000_00110_00101_01011_0100_0100011 = .ok (.vli (Pos.plain 2) 6 5 4 1443)
  ∧ decodeSlot 2 false 0 0b101101_00110_00100_01001_101001_00000 = .ok (.vshuf (Pos.plain 2) 6 4 9 41)
  ∧ decodeSlot 2 false 0 0b110001_00110_00100_01_01_1_1001_1_0_01111 = .ok (.vnr (Pos.plain 2) 6 4 1 1 true true 9 15)
  ∧ decodeSlot 2 false 0 0b111011_0_0110_00000_01011_0000_0100011 = .ok (.pset (Pos.plain 2) 6 1443)
  ∧ decodeSlot 3 false 0 0b100001_10_1_1_00000101_0_01110_000_01111 = .ok (.mload (Pos.plain 3) 2 true true 5 false 14 15)
  ∧ decodeSlot 3 false 0 0b100010_10_100_1010101_1_1_0_01110_000000 = .ok (.mfeed (Pos.plain 3) 2 4 85 true true false 14)
  ∧ decodeSlot 3 false 0 0b100011_00110_100_1010101_01_1_01_0_01010 = .ok (.mdrain (Pos.plain 3) 6 4 85 1 true 1 10)

/-- Decoding an encoded instruction gives it back: every well-formed instruction, every operand at every value, in its slot with
what its header lends. -/
def Obligations.EveryInstructionRoundTrips : Prop :=
  ∀ (i : Instr) (p : Pos) (sh : Shape), i.shape = some (p, sh) → i.wellFormed = true →
    decodeSlot p.slot p.hdr (encodeLend p) (encode i) = .ok i

/-- Every well-formed instruction, placed alone in a bundle's sixteen bytes (with a header where something is lent), is what a
fetch of those bytes runs: it stands in its own slot and no other slot holds an operation or an illegal word. -/
def Obligations.EveryBundleRoundTrips : Prop :=
  ∀ (i : Instr) (bs : List Byte) (s : State), i.wellFormed = true → bundleOf i = some bs →
    s.fetch s.ctx.q0.addr = bs →
      bs.length = 16 ∧ bundleOps s.bundle = [((instrPos i).slot.toNat, i)]
      ∧ (∀ e, s.bundle.s0 ≠ .bad e ∧ s.bundle.s1 ≠ .bad e ∧ s.bundle.s2 ≠ .bad e ∧ s.bundle.s3 ≠ .bad e)

/-! ## Operands and results -/

/-- What a scalar source field reads (R27, R134, R135, R383): a latch, a register of its bank, a window position, a word of a
port; which ports trap and which wait. -/
def ScalarSourcesReadAsTheFileSays : Prop :=
  ∀ (p : Pos) (lat : Nat) (n : BitVec 5) (s : State),
    readS p lat true n s = .ok ((s.ctx.lat.getD (n.toNat % 4) (.scalar 0)).word, s)
    ∧ (n.toNat = 0 → readS p lat false n s = .ok (0, s))
    ∧ (1 ≤ n.toNat → n.toNat ≤ 7 →
        readS p lat false n s = .ok (if s.ctx.sv then s.ctx.sup.getD n.toNat 0 else s.ctx.s.getD n.toNat 0, s))
    ∧ (8 ≤ n.toNat → n.toNat ≤ 23 → s.ctx.wbase ≤ 112 →
        readS p lat false n s = .ok (s.ctx.win.getD (s.ctx.wbase + (n.toNat - 8)) 0, s))
    ∧ (n.toNat = 31 → readS p lat false n s = .ok (if s.ctx.sv then s.ctx.sup.getD 0 0 else s.ctx.s31, s))
    ∧ (24 ≤ n.toNat → n.toNat ≤ 29 → s.ctx.companion = false → s.ctx.ports = false →
        readS p lat false n s = .error (.trap ⟨cProtect, 0, 0x40⟩))
    ∧ (∀ w ws rest, 24 ≤ n.toNat → n.toNat ≤ 29 → s.ctx.companion = false → s.ctx.ports = true →
        s.core.inq.getD (n.toNat - 24) [] = (w :: ws) :: rest →
        readS p lat false n s = .ok (w, { s with core := { s.core with
          inq := s.core.inq.setIfInBounds (n.toNat - 24) (if ws.isEmpty then rest else ws :: rest) } }))
    ∧ (24 ≤ n.toNat → n.toNat ≤ 29 → s.ctx.companion = false → s.ctx.ports = true →
        s.core.inq.getD (n.toNat - 24) [] = [] → readS p lat false n s = .error (.wait .port))
    ∧ (n.toNat = 30 → s.ctx.companion = false → readS p lat false n s = .error (.trap ⟨cProtect, 0, 0x200⟩))
    ∧ (24 ≤ n.toNat → n.toNat ≤ 29 → s.ctx.companion = true →
        readS p lat false n s = .error (.trap ⟨cProtect, 0, 0x200⟩))
    ∧ (∀ e rest, n.toNat = 30 → s.ctx.companion = true → (s.queue (chamberOf s.ctx.core)).items = e :: rest →
        e.landed = true → ∃ t, readS p lat false n s = .ok (e.word, t)
          ∧ (t.queue (chamberOf s.ctx.core)).items = rest)
    ∧ (n.toNat = 30 → s.ctx.companion = true → (s.queue (chamberOf s.ctx.core)).items = [] →
        readS p lat false n s = .error (.wait .port))

/-- What a scalar destination field does (R28, R30, R134, R135, R383): s0 takes nothing, a register takes its result when it
lands, unless the header lends `wbs`; a port of a companion, or of a task without ports, traps. -/
def ScalarDestinationsTakeTheResult : Prop :=
  ∀ (p : Pos) (lat : Nat) (d : BitVec 5) (w : Word) (s : State),
    (d.toNat = 0 → writeS p lat d w 0 s = .ok ((), s.push p lat .none (.word w) 0))
    ∧ (d.toNat ≠ 0 → PlainReg d →
        writeS p lat d w 0 s = .ok ((), s.push p lat (.scalar (s.ctx.phys d.toNat)) (.word w) 0 (!p.wbs)))
    ∧ (24 ≤ d.toNat → d.toNat ≤ 30 → s.ctx.companion = true →
        writeS p lat d w 0 s = .error (.trap ⟨cProtect, 0, 0x200⟩))
    ∧ (24 ≤ d.toNat → d.toNat ≤ 29 → s.ctx.companion = false → s.ctx.ports = false →
        writeS p lat d w 0 s = .error (.trap ⟨cProtect, 0, 0x40⟩))
    ∧ (24 ≤ d.toNat → d.toNat ≤ 29 → s.ctx.companion = false → s.ctx.ports = true →
        awaitedWords 65 (s.core.outq.getD (d.toNat - 24) []) ≠ none → (s.core.outq.getD (d.toNat - 24) []).length < 64 →
        ∃ t, writeS p lat d w 0 s = .ok ((), t)
          ∧ t.core.outq.getD (d.toNat - 24) [] = s.core.outq.getD (d.toNat - 24) [] ++ [(w, false)])
    ∧ (d.toNat = 30 → s.ctx.companion = false → s.companionLaunch (chamberOf s.ctx.core) = some s.ctx.launch →
        256 ≤ (s.queue (chamberOf s.ctx.core)).items.length → writeS p lat d w 0 s = .error (.wait .fullCq))

/-- What a scalar source field reads and what a scalar destination field does (R27, R28, R30, R134, R135, R383). -/
def Obligations.ScalarFieldsReadAndWriteTheFile : Prop := ScalarSourcesReadAsTheFileSays ∧ ScalarDestinationsTakeTheResult

/-- A scalar result that lands is in its register, every other register of the file is as it was, and its slot's latch holds it
(R28, R134, R136). `RESULT_LANDS` always completes so for a due result of a scalar register. -/
def Obligations.LandedScalarResultIsInItsRegister : Prop :=
  ∀ (s : State) (r : Res) (n : Nat) (w : Word), s.ctx.dueRes = some r → s.ctx.wbase ≤ 112 →
    1 ≤ n → n ≤ 23 ∨ n = 31 → r.dest = .scalar (s.ctx.phys n) → r.val = .word w → r.wb = true → r.slot < 4 →
    ∃ t, exec .resultLands s = .next t ∧ t.ctx.scalar n = w ∧ (∀ m, m ≤ 31 → m ≠ n → t.ctx.scalar m = s.ctx.scalar m)
      ∧ t.ctx.infl = s.ctx.infl.erase r ∧ t.ctx.fpflags = s.ctx.fpflags ||| r.flags
      ∧ (r.latch = true → s.ctx.il = false → (t.ctx.lat.getD r.slot (.scalar 0)).word = w)
      ∧ t.mem = s.mem ∧ t.scr = s.scr ∧ t.ctx.v = s.ctx.v ∧ t.ctx.p = s.ctx.p

/-! ## The scalar ALU -/

/-- A two-source instruction of the scalar ALU with its latency and what its result is, as R141 to R143 give it. -/
def aluTwo : List ((Pos → BitVec 5 → BitVec 5 → BitVec 5 → Instr) × Nat × (Word → Word → Word)) :=
  [(.add, 1, fun x y => x + y), (.sub, 1, fun x y => x - y), (.and, 1, fun x y => x &&& y), (.or, 1, fun x y => x ||| y),
   (.xor, 1, fun x y => x ^^^ y), (.andn, 1, fun x y => x &&& ~~~y),
   (.shl, 1, fun x y => BitVec.ofNat 64 (x.toNat * 2 ^ (y.toNat % 64))),
   (.shr, 1, fun x y => BitVec.ofNat 64 (x.toNat / 2 ^ (y.toNat % 64))),
   (.sar, 1, fun x y => BitVec.ofInt 64 (x.toInt / (2 ^ (y.toNat % 64) : Nat))),
   (.min, 1, fun x y => if x.toInt < y.toInt then x else y), (.max, 1, fun x y => if x.toInt < y.toInt then y else x),
   (.minn, 1, fun x y => if x.toNat < y.toNat then x else y), (.maxn, 1, fun x y => if x.toNat < y.toNat then y else x),
   (.addSat, 1, fun x y => BitVec.ofInt 64 (Min.min (2 ^ 63 - 1) (Max.max (-(2 ^ 63)) (x.toInt + y.toInt)))),
   (.subSat, 1, fun x y => BitVec.ofInt 64 (Min.min (2 ^ 63 - 1) (Max.max (-(2 ^ 63)) (x.toInt - y.toInt)))),
   (.mul, 3, fun x y => BitVec.ofInt 64 (x.toInt * y.toInt)),
   (.mulh, 3, fun x y => BitVec.ofInt 64 (x.toInt * y.toInt / 2 ^ 64)),
   (.mulhn, 3, fun x y => BitVec.ofNat 64 (x.toNat * y.toNat / 2 ^ 64)),
   (.div, 24, fun x y => if y = 0 then BitVec.ofInt 64 (-1) else BitVec.ofInt 64 (x.toInt.tdiv y.toInt)),
   (.divn, 24, fun x y => if y = 0 then BitVec.ofNat 64 (2 ^ 64 - 1) else BitVec.ofNat 64 (x.toNat / y.toNat)),
   (.rem, 24, fun x y => if y = 0 then x else BitVec.ofInt 64 (x.toInt.tmod y.toInt)),
   (.remn, 24, fun x y => if y = 0 then x else BitVec.ofNat 64 (x.toNat % y.toNat))]

/-- The two-source instructions of the scalar ALU complete with the result R142 and R143 give: whatever the source fields read
(`ScalarSourcesReadAsTheFileSays`) and wherever the destination field sends it (`ScalarDestinationsTakeTheResult`); with plain
registers or latches that is the register's value at issue, and the result on its way to the destination. -/
def AluTwoSourceResults : Prop :=
  ∀ e ∈ aluTwo, ∀ (p : Pos) (d a b : BitVec 5) (s s1 s2 t : State) (x y : Word),
    (readS p e.2.1 p.bypA a s = .ok (x, s1) → readS p e.2.1 p.bypB b s1 = .ok (y, s2) →
      writeS p e.2.1 d (e.2.2 x y) 0 s2 = .ok ((), t) → exec (e.1 p d a b) s = .next t.ran)
    ∧ ((p.bypA = true ∨ PlainReg a) → (p.bypB = true ∨ PlainReg b) → PlainReg d →
      exec (e.1 p d a b) s = .next (s.sent p e.2.1 d (e.2.2 (s.source p.bypA a) (s.source p.bypB b))).ran)

/-- The set-on-compare instruction: 1 when the condition holds, else 0 (R22, R142). -/
def SltSetsOneWhenTheConditionHolds : Prop :=
  ∀ (p : Pos) (cc : BitVec 3) (d a b : BitVec 5) (s s1 s2 t : State) (x y v : Word), cc.toNat ≤ 5 →
    readS p 1 p.bypA a s = .ok (x, s1) → readS p 1 p.bypB b s1 = .ok (y, s2) →
    v = (match cc.toNat with
      | 0 => if x = y then 1 else 0
      | 1 => if x ≠ y then 1 else 0
      | 2 => if x.toInt < y.toInt then 1 else 0
      | 3 => if y.toInt ≤ x.toInt then 1 else 0
      | 4 => if x.toNat < y.toNat then 1 else 0
      | _ => if y.toNat ≤ x.toNat then 1 else 0) →
    writeS p 1 d v 0 s2 = .ok ((), t) → exec (.slt p cc d a b) s = .next t.ran

/-- The register forms of the scalar ALU complete with the results of R142 and R143. -/
def Obligations.AluRegisterFormsComplete : Prop := AluTwoSourceResults ∧ SltSetsOneWhenTheConditionHolds

/-- A one-source instruction of the scalar ALU, with its immediate fields, its latency and its result (R26, R142, R144). -/
def aluOne (p : Pos) (d a : BitVec 5) (imm : BitVec 16) (sh len : BitVec 6) : List (Instr × Nat × (Word → Word)) :=
  [(.clz p d a, 1, fun x => w64 (((List.range 64).find? (fun k => x.getLsbD (63 - k))).getD 64)),
   (.ctz p d a, 1, fun x => w64 (((List.range 64).find? (fun k => x.getLsbD k)).getD 64)),
   (.popc p d a, 1, fun x => w64 ((List.range 64).countP (fun k => x.getLsbD k))),
   (.addI p d a imm, 1, fun x => x + imm16S p imm), (.andI p d a imm, 1, fun x => x &&& imm16Z p imm),
   (.orI p d a imm, 1, fun x => x ||| imm16Z p imm), (.xorI p d a imm, 1, fun x => x ^^^ imm16Z p imm),
   (.minI p d a imm, 1, fun x => if x.toInt < (imm16S p imm).toInt then x else imm16S p imm),
   (.maxI p d a imm, 1, fun x => if x.toInt < (imm16S p imm).toInt then imm16S p imm else x),
   (.mulI p d a imm, 3, fun x => x * imm16S p imm),
   (.shlI p d a sh, 1, fun x => BitVec.ofNat 64 (x.toNat * 2 ^ sh.toNat)),
   (.shrI p d a sh, 1, fun x => BitVec.ofNat 64 (x.toNat / 2 ^ sh.toNat)),
   (.sarI p d a sh, 1, fun x => BitVec.ofInt 64 (x.toInt / (2 ^ sh.toNat : Nat))),
   (.lih p d a imm, 1, fun x => BitVec.ofNat 64 (x.toNat * 2 ^ 16 + imm.toNat)),
   (.bfx p d a len sh, 1, fun x => BitVec.ofNat 64 (x.toNat / 2 ^ sh.toNat % 2 ^ (len.toNat + 1)))]

/-- The one-source instructions of the scalar ALU complete with the result R142 and R144 give. -/
def AluOneSourceResults : Prop :=
  ∀ (p : Pos) (d a : BitVec 5) (imm : BitVec 16) (sh len : BitVec 6), ∀ e ∈ aluOne p d a imm sh len,
    ∀ (s s1 t : State) (x : Word),
      (readS p e.2.1 p.bypA a s = .ok (x, s1) → writeS p e.2.1 d (e.2.2 x) 0 s1 = .ok ((), t) → exec e.1 s = .next t.ran)
      ∧ ((p.bypA = true ∨ PlainReg a) → PlainReg d →
        exec e.1 s = .next (s.sent p e.2.1 d (e.2.2 (s.source p.bypA a))).ran)

/-- SEL and BFI read the old value of their destination at issue (R142, R144). -/
def SelAndBfiUseTheOldDestination : Prop :=
  ∀ (p : Pos) (d a b : BitVec 5) (len pos : BitVec 6) (s : State),
    (p.bypA = true ∨ PlainReg a) → (p.bypB = true ∨ PlainReg b) → PlainReg d →
    exec (.sel p d a b) s = .next (s.sent p 1 d
      (if s.ctx.scalar d.toNat = 0 then s.source p.bypB b else s.source p.bypA a)).ran
    ∧ ∃ v, exec (.bfi p d a len pos) s = .next (s.sent p 1 d v).ran
      ∧ ∀ k, k < 64 → v.getLsbD k = (if pos.toNat ≤ k ∧ k < pos.toNat + (len.toNat + 1)
          then (s.source p.bypA a).getLsbD (k - pos.toNat) else (s.ctx.scalar d.toNat).getLsbD k)

/-- The one-source, immediate and bit-field forms of the scalar ALU, and SEL, complete with the results of R142 and R144. -/
def Obligations.AluImmediateAndFieldFormsComplete : Prop := AluOneSourceResults ∧ SelAndBfiUseTheOldDestination

/-- R143's table, on the two-source statement's results: the four divisions by zero and the one overflowing division. -/
def Obligations.DivisionCornersAreDefined : Prop :=
  ∀ (p : Pos) (d a b : BitVec 5) (s : State), p.bypA = false → p.bypB = false → PlainReg a → PlainReg b → PlainReg d →
    (s.ctx.scalar b.toNat = 0 →
      exec (.div p d a b) s = .next (s.sent p 24 d (BitVec.allOnes 64)).ran
      ∧ exec (.divn p d a b) s = .next (s.sent p 24 d (BitVec.ofNat 64 (2 ^ 64 - 1))).ran
      ∧ exec (.rem p d a b) s = .next (s.sent p 24 d (s.ctx.scalar a.toNat)).ran
      ∧ exec (.remn p d a b) s = .next (s.sent p 24 d (s.ctx.scalar a.toNat)).ran)
    ∧ (s.ctx.scalar a.toNat = BitVec.ofInt 64 (-(2 ^ 63)) → s.ctx.scalar b.toNat = BitVec.ofInt 64 (-1) →
      exec (.div p d a b) s = .next (s.sent p 24 d (BitVec.ofInt 64 (-(2 ^ 63)))).ran
      ∧ exec (.divn p d a b) s = .next (s.sent p 24 d 0).ran
      ∧ exec (.rem p d a b) s = .next (s.sent p 24 d 0).ran
      ∧ exec (.remn p d a b) s = .next (s.sent p 24 d (s.ctx.scalar a.toNat)).ran)
    ∧ (s.ctx.scalar a.toNat = BitVec.ofInt 64 (-7) → s.ctx.scalar b.toNat = 2 →
      exec (.div p d a b) s = .next (s.sent p 24 d (BitVec.ofInt 64 (-3))).ran
      ∧ exec (.rem p d a b) s = .next (s.sent p 24 d (BitVec.ofInt 64 (-1))).ran
      ∧ exec (.divn p d a b) s = .next (s.sent p 24 d 0x7FFFFFFFFFFFFFFC).ran)

/-- What a register-only operation leaves alone: everything but the results in flight, the port queues, the companion queue
and what reports a discarded push. -/
def OnlyResultsMove (s t : State) : Prop :=
  (∃ l, t.ctx.infl = s.ctx.infl ++ l) ∧ { t.ctx with infl := s.ctx.infl } = s.ctx
  ∧ { t.core with inq := s.core.inq, outq := s.core.outq, outBy := s.core.outBy } = s.core
  ∧ t.mem = s.mem ∧ t.scr = s.scr ∧ t.loc = s.loc ∧ t.imem = s.imem ∧ t.poison = s.poison ∧ t.scrBad = s.scrBad
  ∧ t.ctl = s.ctl ∧ t.l2 = s.l2 ∧ t.sump = s.sump ∧ t.filt = s.filt ∧ t.far = s.far ∧ t.ro = s.ro ∧ t.ctlb = s.ctlb
  ∧ t.ctxs = s.ctxs ∧ t.cores = s.cores ∧ t.groups = s.groups
  ∧ t.launches = s.launches ∧ t.saved = s.saved ∧ t.fe = s.fe ∧ t.fab = s.fab ∧ t.flows = s.flows ∧ t.rim = s.rim
  ∧ t.rimOpens = s.rimOpens ∧ t.rimEvents = s.rimEvents ∧ t.part = s.part
  ∧ t.inputs = s.inputs ∧ t.upsets = s.upsets ∧ t.draw = s.draw ∧ t.now = s.now

/-- The frame of the scalar ALU: an instruction of any of its forms that runs changes no register, flag, status or special
register at issue, no byte of any memory, and nothing of another context or core; only its result joins those in flight (and a
port it reads or writes gives or takes its word). -/
def Obligations.AluChangesOnlyItsResult : Prop :=
  ∀ (p : Pos) (d a b : BitVec 5) (cc : BitVec 3) (imm : BitVec 16) (sh len : BitVec 6) (i : Instr) (s t : State),
    i ∈ aluTwo.map (fun e => e.1 p d a b) ++ (aluOne p d a imm sh len).map (fun e => e.1)
      ++ [.slt p cc d a b, .sel p d a b, .bfi p d a len sh] →
    exec i s = .next t → t.sig = .ran → OnlyResultsMove s t

/-! ## Branches, jumps, calls, loops -/

/-- A target inside the image: a multiple of 16 that names a bundle (R149). -/
def GoodTarget (s : State) (t : Int) : Prop := t % 16 = 0 ∧ 0 ≤ t ∧ t ≤ 0x3FFF0 ∧ t < s.ctx.imSize

/-- The state in which a branch has steered: where to, and whether the two bundles behind it are annulled (R150). -/
def steered (s : State) (target : Option Nat) (annul : Bool) : State :=
  { s with ctx := { s.ctx with steer := { s.ctx.steer with target := target.or s.ctx.steer.target, annul := annul } } }

/-- BR and BRP (R36, R148, R150): a condition of two registers, or of bit 0 of a predicate register; the target is 16 times the
signed displacement away; annulment is of the form's choice. A taken target that is no multiple of 16 or lies outside the image traps
(R149); one not taken is not checked. -/
def ConditionalBranchesSteer : Prop :=
  ∀ (p : Pos) (a b pr : BitVec 5) (cc : BitVec 3) (an : BitVec 2) (disp : BitVec 11) (s s1 s2 : State) (x y : Word),
    let tgt : Int := (s2.ctx.q0.addr : Int) + 16 * disp.toInt
    let ann := fun (taken : Bool) => (an = 1 ∧ taken = false) ∨ (an = 2 ∧ taken = true)
    (readS p 1 p.bypA a s = .ok (x, s1) → readS p 1 p.bypB b s1 = .ok (y, s2) →
      (cond cc x y = false → exec (.br p a b cc an disp) s = .next (steered s2 none (annuls an false)).ran)
      ∧ (cond cc x y = true → GoodTarget s2 tgt →
          exec (.br p a b cc an disp) s = .next (steered s2 (some tgt.toNat) (annuls an true)).ran)
      ∧ (cond cc x y = true → tgt % 16 = 0 → (tgt < 0 ∨ 0x3FFF0 < tgt ∨ (s2.ctx.imSize : Int) ≤ tgt) →
          exec (.br p a b cc an disp) s = .next (s.traps p ⟨cProtect, BitVec.ofInt 64 tgt, 0⟩))
      ∧ (cond cc x y = true → tgt % 16 ≠ 0 →
          exec (.br p a b cc an disp) s = .next (s.traps p ⟨cAlign, BitVec.ofInt 64 tgt, 6⟩)))
    ∧ (∀ taken, annuls an taken = true ↔ ann taken)
    ∧ (∀ taken : Bool, taken = ((s2.ctx.pred (pr.toNat % 16)).getLsbD 0 == (cc == 0)) →
      (taken = false → exec (.brp p pr cc an disp) s2 = .next (steered s2 none (annuls an false)).ran)
      ∧ (taken = true → GoodTarget s2 tgt →
          exec (.brp p pr cc an disp) s2 = .next (steered s2 (some tgt.toNat) (annuls an true)).ran)
      ∧ (taken = true → tgt % 16 = 0 → (tgt < 0 ∨ 0x3FFF0 < tgt ∨ (s2.ctx.imSize : Int) ≤ tgt) →
          exec (.brp p pr cc an disp) s2 = .next (s2.traps p ⟨cProtect, BitVec.ofInt 64 tgt, 0⟩))
      ∧ (taken = true → tgt % 16 ≠ 0 → exec (.brp p pr cc an disp) s2 = .next (s2.traps p ⟨cAlign, BitVec.ofInt 64 tgt, 6⟩)))

/-- J, JR, CALL and CALLR where no spill is needed, RET where no fill is needed (R137, R148, R149): the target is steered to; a
call puts the return address into the callee's s8 and moves the window base up by the frame for bundles issued at t + 3 and
later, a return moves it down. -/
def JumpsCallsAndReturnsSteer : Prop :=
  ∀ (p : Pos) (a f : BitVec 5) (d26 : BitVec 26) (d21 : BitVec 21) (s : State), (p.bypA = true ∨ PlainReg a) →
    let q := s.ctx.q0.addr
    let up := (s.push p 1 (.scalar (128 + (s.ctx.wnext + f.toNat))) (.word (w64 (q + 48)))).push p 3 .wbase
      (.base (s.ctx.wnext + f.toNat)) 0 true false
    let down := s.push p 3 .wbase (.base (s.ctx.wnext - f.toNat)) 0 true false
    let gone := fun (s : State) (n : Nat) (w : Nat) =>
      ({ s with ctx := { s.ctx with wnext := n, steer := { s.ctx.steer with target := some w } } } : State).ran
    (GoodTarget s ((q : Int) + 16 * d26.toInt) →
      exec (.j p d26) s = .next (gone s s.ctx.wnext ((q : Int) + 16 * d26.toInt).toNat))
    ∧ (GoodTarget s (s.source p.bypA a).toNat →
      exec (.jr p a) s = .next (gone s s.ctx.wnext (s.source p.bypA a).toNat))
    ∧ (s.ctx.wnext + f.toNat ≤ 112 → GoodTarget s ((q : Int) + 16 * d21.toInt) →
      exec (.call p f d21) s = .next (gone up (s.ctx.wnext + f.toNat) ((q : Int) + 16 * d21.toInt).toNat))
    ∧ (s.ctx.wnext + f.toNat ≤ 112 → GoodTarget s (s.source p.bypA a).toNat →
      exec (.callr p a f) s = .next (gone up (s.ctx.wnext + f.toNat) (s.source p.bypA a).toNat))
    ∧ (f.toNat ≤ s.ctx.wnext → GoodTarget s (s.ctx.scalar 8).toNat →
      exec (.ret p f) s = .next (gone down (s.ctx.wnext - f.toNat) (s.ctx.scalar 8).toNat))

/-- A jump or call to an address that is no multiple of 16 takes the misaligned trap with size code 6, one outside the image the
protection trap (R93, R94, R149). -/
def BadTargetsTrap : Prop :=
  ∀ (p : Pos) (a f : BitVec 5) (d26 : BitVec 26) (d21 : BitVec 21) (s : State), (p.bypA = true ∨ PlainReg a) →
    let x := s.source p.bypA a
    let r := s.ctx.scalar 8
    let far := (s.ctx.q0.addr : Int) + 16 * d26.toInt
    let near := (s.ctx.q0.addr : Int) + 16 * d21.toInt
    (x.toNat % 16 ≠ 0 → exec (.jr p a) s = .next (s.traps p ⟨cAlign, x, 6⟩)
      ∧ exec (.callr p a f) s = .next (s.traps p ⟨cAlign, x, 6⟩))
    ∧ (x.toNat % 16 = 0 → (0x3FFF0 < x.toNat ∨ s.ctx.imSize ≤ x.toNat) →
      exec (.jr p a) s = .next (s.traps p ⟨cProtect, x, 0⟩) ∧ exec (.callr p a f) s = .next (s.traps p ⟨cProtect, x, 0⟩))
    ∧ (far % 16 = 0 → (far < 0 ∨ 0x3FFF0 < far ∨ (s.ctx.imSize : Int) ≤ far) →
      exec (.j p d26) s = .next (s.traps p ⟨cProtect, BitVec.ofInt 64 far, 0⟩))
    ∧ (far % 16 ≠ 0 → exec (.j p d26) s = .next (s.traps p ⟨cAlign, BitVec.ofInt 64 far, 6⟩))
    ∧ (near % 16 = 0 → (near < 0 ∨ 0x3FFF0 < near ∨ (s.ctx.imSize : Int) ≤ near) →
      exec (.call p f d21) s = .next (s.traps p ⟨cProtect, BitVec.ofInt 64 near, 0⟩))
    ∧ (near % 16 ≠ 0 → exec (.call p f d21) s = .next (s.traps p ⟨cAlign, BitVec.ofInt 64 near, 6⟩))
    ∧ (r.toNat % 16 ≠ 0 → exec (.ret p f) s = .next (s.traps p ⟨cAlign, r, 6⟩))
    ∧ (r.toNat % 16 = 0 → (0x3FFF0 < r.toNat ∨ s.ctx.imSize ≤ r.toNat) →
      exec (.ret p f) s = .next (s.traps p ⟨cProtect, r, 0⟩))

/-- A call whose frame does not fit above the base spills the 32 oldest positions first, and a return below position 0 fills them
(R138): where the transfer's accesses are made, the state is the one they leave, the core stands still for a time of its own, and the
bundle comes after it. -/
def CallsSpillAndReturnsFill : Prop :=
  ∀ (p : Pos) (a f : BitVec 5) (d21 : BitVec 21) (s t : State), (p.bypA = true ∨ PlainReg a) →
    (112 < s.ctx.wnext + f.toNat → spillM s = .ok ((), t) →
      (GoodTarget s ((s.ctx.q0.addr : Int) + 16 * d21.toInt) →
        exec (.call p f d21) s = .next (t.transferred.waits .access))
      ∧ (GoodTarget s (s.source p.bypA a).toNat → exec (.callr p a f) s = .next (t.transferred.waits .access)))
    ∧ (s.ctx.wnext < f.toNat → fillM s = .ok ((), t) → GoodTarget s (s.ctx.scalar 8).toNat →
      exec (.ret p f) s = .next (t.transferred.waits .access))

/-- n bytes at an address lie in the issuing core's own scratchpad, in its launch's granules, and can be accessed now (R12, R13,
R186, R188). -/
def NearScratch (s : State) (ea n : Nat) : Prop :=
  s.ctx.companion = false ∧ s.core.id = s.ctx.core ∧ ea < 2 ^ 24 ∧ ea / 2 ^ 21 % 8 = s.ctx.core % 8 ∧ s.closed = false
  ∧ s.inGranules s.ctx.launch s.ctx.core (ea % 2 ^ 21) n = true

/-- The state once slot 1 has stored bytes at an offset of its own scratchpad: the store is on its way and reaches the scratchpad two
cycles later (R192). -/
def Stored (s : State) (off : Nat) (bs : List Byte) : State :=
  { s with core := { s.core with later := s.core.later ++ [⟨s.now + 2, off, bs, false, s.ctx.agent⟩] } }

/-- What a spill and a fill move (R138), with the window stack in the own scratchpad: a spill stores positions 0 to 31 in ascending order
from `wsp` on and turns the stack down by 32, a fill loads positions 96 to 127 from the 256 bytes below `wsp` and turns it up by 32;
`wsp` and the window bases move along. -/
def TransfersMoveTheStack : Prop :=
  (∀ s : State, s.ctx.cursor = 0 → s.ctx.wsp.toNat % 8 = 0 →
    (NearScratch s s.ctx.wsp.toNat 256 →
      let u := (List.range 32).foldl (fun t i => Stored t (s.ctx.wsp.toNat % 2 ^ 21 + 8 * i)
        (bytesOfNat 8 (s.ctx.win.getD i 0).toNat)) s
      spillM s = .ok ((), { u with ctx := s.ctx.spilled }))
    ∧ (256 ≤ s.ctx.wsp.toNat → NearScratch s (s.ctx.wsp.toNat - 256) 256 →
      let at_ := (s.ctx.wsp.toNat - 256) % 2 ^ 21
      (∀ i, i < 32 → s.seenPoison s.ctx.core (at_ + 8 * i) 8 = none) →
      fillM s = .ok ((), { s with ctx := ((List.range 32).foldl (fun (c : Ctx) i =>
        { c with win := c.win.setIfInBounds (96 + i) (BitVec.ofNat 64 (natOfBytes (s.scrSeen s.ctx.core (at_ + 8 * i) 8))) })
        s.ctx).filled })))
  ∧ ∀ c : Ctx, c.spilled.wsp = c.wsp + 256 ∧ c.filled.wsp = c.wsp - 256
    ∧ (∀ j, j < 128 → c.spilled.win.getD j 0 = c.win.getD ((j + 32) % 128) 0
      ∧ c.filled.win.getD j 0 = c.win.getD ((j + 96) % 128) 0)
    ∧ (32 ≤ c.wbase → c.wbase < 128 → c.spilled.wbase = c.wbase - 32)
    ∧ (c.wbase < 96 → c.filled.wbase = c.wbase + 32)
    ∧ (32 ≤ c.wnext → c.wnext < 128 → c.spilled.wnext = c.wnext - 32)
    ∧ (c.wnext < 96 → c.filled.wnext = c.wnext + 32)

/-- J, JR, CALL, CALLR and RET: where they go, when they trap, when they spill and fill, and what that moves (R137, R138, R148, R149). -/
def Obligations.JumpsCallsAndReturnsComplete : Prop :=
  JumpsCallsAndReturnsSteer ∧ BadTargetsTrap ∧ CallsSpillAndReturnsFill ∧ TransfersMoveTheStack

/-- LOOP (R152): `lc` and `ec` take the two registers, p8 is set and p9 to p15 are clear, for bundles issued at t + 1 and
later. -/
def Obligations.LoopSetsItsCounters : Prop :=
  decodeSlot 0 false 0 0x58053000 = .ok (.loop (Pos.plain 0) 5 6)
  ∧ (∀ w : SlotWord, fMajor w = 0x16 → (w.extractLsb' 21 5 ≠ 0 ∨ w.extractLsb' 0 11 ≠ 0) →
      ∃ e, decodeSlot 0 false 0 w = .error e)
  ∧ ∀ (p : Pos) (a b : BitVec 5) (s s1 s2 : State) (x y : Word),
    readS p 1 p.bypA a s = .ok (x, s1) → readS p 1 p.bypB b s1 = .ok (y, s2) →
    exec (.loop p a b) s = .next (s2.push p 1 .loop (.loop x y) 0 true false).ran
    ∧ ∀ (c : Ctx) (r : Res), r.dest = .loop → r.val = .loop x y →
      (c.landed r).lc = x ∧ (c.landed r).ec = y ∧ (c.landed r).pred 8 = BitVec.allOnes 256
      ∧ (∀ k, 9 ≤ k → k ≤ 15 → (c.landed r).pred k = 0) ∧ (∀ k, k ≤ 7 → (c.landed r).pred k = c.pred k)

/-- BRL (R153): while `lc` is above 0 it is taken and `lc` falls; then while `ec` is above 1 it is taken and `ec` falls; in each
case the rotating registers turn and p8 takes the new stage; the updates land three bundles later. Else it is not taken and changes
nothing. A taken target that is no multiple of 16 or lies outside the image traps (R149). That the new values are computed from what stands
at issue, and overwrite at t + 3, is the model's reading (log 29, DEDUCED). -/
def BrlCountsTheLoopDown : Prop :=
  ∀ (p : Pos) (an : BitVec 2) (disp : BitVec 11) (s : State),
    let tgt : Int := (s.ctx.q0.addr : Int) + 16 * disp.toInt
    (0 < s.ctx.lc.toNat → GoodTarget s tgt → exec (.brl p an disp) s = .next
      ((steered s (some tgt.toNat) (annuls an true)).push p 3 .brl
        (.brl true (s.ctx.lc - 1) (s.ctx.vrb - 1) (s.ctx.rotated true)) 0 true false).ran)
    ∧ (s.ctx.lc = 0 → 1 < s.ctx.ec.toNat → GoodTarget s tgt → exec (.brl p an disp) s = .next
      ((steered s (some tgt.toNat) (annuls an true)).push p 3 .brl
        (.brl false (s.ctx.ec - 1) (s.ctx.vrb - 1) (s.ctx.rotated false)) 0 true false).ran)
    ∧ (s.ctx.lc = 0 → s.ctx.ec.toNat ≤ 1 →
      exec (.brl p an disp) s = .next (steered s none (annuls an false)).ran)
    ∧ (0 < s.ctx.lc.toNat ∨ 1 < s.ctx.ec.toNat →
      (tgt % 16 = 0 → (tgt < 0 ∨ 0x3FFF0 < tgt ∨ (s.ctx.imSize : Int) ≤ tgt) →
        exec (.brl p an disp) s = .next (s.traps p ⟨cProtect, BitVec.ofInt 64 tgt, 0⟩))
      ∧ (tgt % 16 ≠ 0 → exec (.brl p an disp) s = .next (s.traps p ⟨cAlign, BitVec.ofInt 64 tgt, 6⟩)))
    ∧ (∀ byLc, (s.ctx.rotated byLc).getD 0 0 = (if byLc then BitVec.allOnes 256 else 0)
      ∧ ∀ k, 9 ≤ k → k ≤ 15 → (s.ctx.rotated byLc).getD (k - 8) 0 = s.ctx.pred (k - 1))
    ∧ ∀ (c : Ctx) (r : Res) (byLc : Bool) (w : Word) (vrb : BitVec 4) (ps : Vector (BitVec 256) 8),
      r.dest = .brl → r.val = .brl byLc w vrb ps →
      (c.landed r).vrb = vrb ∧ (∀ k, 8 ≤ k → k ≤ 15 → (c.landed r).pred k = ps.getD (k - 8) 0)
      ∧ (∀ k, k ≤ 7 → (c.landed r).pred k = c.pred k)
      ∧ (c.landed r).lc = (if byLc then w else c.lc) ∧ (c.landed r).ec = (if byLc then c.ec else w)

/-- BR, BRP and BRL steer, or trap, as R148, R149, R150 and R153 say; log 29, DEDUCED, is the model's reading of BRL. -/
def Obligations.ConditionalAndLoopBranchesSteer : Prop := ConditionalBranchesSteer ∧ BrlCountsTheLoopDown

/-! ## System instructions -/

/-- YIELD makes its bundle a yield point and declares a run of 64 n cycles (R155, R412); END stops the task after its bundle
(R156). -/
def Obligations.YieldAndEndSteerTheTask : Prop :=
  ∀ (p : Pos) (n : BitVec 16) (s : State),
    exec (.yield p n) s = .next
      ({ s with ctx := { s.ctx with run := some (64 * n.toNat), steer := { s.ctx.steer with yield := true } } } : State).ran
    ∧ exec (.endTask p) s = .next
      ({ s with ctx := { s.ctx with steer := { s.ctx.steer with ends := true } } } : State).ran
    ∧ ∀ (t : State) (b : Bundle) (an : Bool), t.ctx.steer.ends = true → (t.ctx.sv && t.ctx.lock) = false →
      (t.retire b an).ctx.status = .ending

/-- TRAP (R157): the trap with code 0x0F and the code zero-extended in `tdetail`; EPCQ0 is the TRAP bundle; nothing of the bundle
commits. -/
def TrapRaisesItsCode : Prop :=
  ∀ (p : Pos) (code : BitVec 16) (s : State), s.ctx.sv = false →
    ∃ t, exec (.trap p code) s = .next t ∧ t.sig = .trapped ⟨0x0F, 0, code.setWidth 64⟩
      ∧ t.ctx.epcq0 = s.ctx.q0.word ∧ bits t.ctx.tcause 7 0 = 0x0F ∧ t.ctx.tdetail = code.setWidth 64
      ∧ t.ctx.tmask = s.mask ||| maskBit p ∧ t.ctx.q0 = ⟨s.ctx.tvec.toNat, false⟩ ∧ t.ctx.sv = true ∧ t.ctx.ie = false
      ∧ (∀ k, t.ctx.win.getD k 0 = s.ctx.win.getD k 0) ∧ t.ctx.s = s.ctx.s ∧ t.ctx.v = s.ctx.v ∧ t.mem = s.mem
      ∧ t.scr = s.scr

/-- ERET (R98, R158): in task mode the privilege trap with detail 0xFFF; in supervisor mode, once every result issued before has
landed, the status bits of `tcause` come back and the queue is `epcq0` to `epcq2`. -/
def EretReturnsToTheTrappedBundle : Prop :=
  ∀ (p : Pos) (s : State),
    (s.ctx.sv = false → exec (.eret p) s = .next (s.traps p ⟨cPrivilege, 0, 0xFFF⟩))
    ∧ (s.ctx.sv = true → s.ctx.infl = [] → s.ctx.replayU = none → ∃ t, exec (.eret p) s = .next t ∧ t.sig = .ran
      ∧ t.ctx.sv = bitAt s.ctx.tcause 8 ∧ t.ctx.ie = bitAt s.ctx.tcause 9
      ∧ t.ctx.q0 = qOfWord s.ctx.epcq0 ∧ t.ctx.q1 = qOfWord s.ctx.epcq1 ∧ t.ctx.q2 = qOfWord s.ctx.epcq2
      ∧ t.ctx.steer.eret = true ∧ (t.ctx.snap = s.ctx.snap)
      ∧ (s.ctx.snap ≠ [] → t.ctx.replayU = some (s.ctx.clk + 1))
      ∧ (∀ k : Fin 4, (t.ctx.lat[k]).word = 0) ∧ t.mem = s.mem ∧ t.scr = s.scr)
    ∧ (s.ctx.sv = true → s.ctx.infl ≠ [] → exec (.eret p) s = .next (s.waits .eret))

/-- TRAP takes its trap and ERET returns from one (R98, R157, R158). -/
def Obligations.TrapAndEretActOnTheRecord : Prop := TrapRaisesItsCode ∧ EretReturnsToTheTrappedBundle

/-- MODE (R159, R379): once every result issued before has landed (but a slide of the window and a BRL update, which take effect
with their target: the model's reading, log 102, DEDUCED), a chamber core's pipeline mode is the one named from the next
bundle; before that the core waits; a companion's mode does not change. -/
def ModeWaitsAndSwitchesThePipeline : Prop :=
  ∀ (p : Pos) (il : Bool) (s : State),
    let i := if il then Instr.modeI p else Instr.modeE p
    (s.ctx.companion = false → (∀ r ∈ s.ctx.infl, r.steers = true) → s.ctx.replayU = none →
      ∃ w, exec i s = .next (s.push p 1 (.sreg 0) (.word w) 0 true false).ran
        ∧ (s.ctx.writeSreg 0 w).il = il ∧ (s.ctx.writeSreg 0 w).ie = s.ctx.ie ∧ (s.ctx.writeSreg 0 w).sv = s.ctx.sv)
    ∧ (s.ctx.companion = false → (∃ r ∈ s.ctx.infl, r.steers = false) → exec i s = .next (s.waits .modeWait))
    ∧ (s.ctx.companion = true → exec i s = .next s.ran)

/-- SRR, SRW, SRS and SRC of an assigned register (R91, R160): the read gives the register; the write, or the setting or
clearing of bits, lands one bundle later. A supervisor register, and a write of `mode`, in task mode take the privilege trap
with the register's number. Where the value is computed, and what a task may not write, are the model's readings (logs 30 and
31, DEDUCED). -/
def StateRegistersAreReadAndWritten : Prop :=
  ∀ (p : Pos) (d a : BitVec 5) (r : BitVec 12) (s : State),
    s.ctx.sregAssigned r.toNat = true →
    let priv : Word := BitVec.ofNat 64 r.toNat
    (s.ctx.sv = true ∨ sregSuper r.toNat = false → r.toNat ≠ 0x034 → PlainReg d →
      exec (.srr p d r) s = .next (s.sent p 1 d (s.sreg r.toNat)).ran)
    ∧ (s.ctx.sv = false → sregSuper r.toNat = true → exec (.srr p d r) s = .next (s.traps p ⟨cPrivilege, 0, priv⟩)
      ∧ exec (.srw p a r) s = .next (s.traps p ⟨cPrivilege, 0, priv⟩)
      ∧ exec (.srs p a r) s = .next (s.traps p ⟨cPrivilege, 0, priv⟩)
      ∧ exec (.src p a r) s = .next (s.traps p ⟨cPrivilege, 0, priv⟩))
    ∧ (s.ctx.sv = false → r.toNat = 0 → exec (.srw p a r) s = .next (s.traps p ⟨cPrivilege, 0, 0⟩))
    ∧ (s.ctx.sv = true ∨ sregSuper r.toNat = false → r.toNat ≠ 0 → sregWritten s.ctx.sv r.toNat = true →
      (p.bypA = true ∨ PlainReg a) →
      let x := s.source p.bypA a
      let o := s.sreg r.toNat
      exec (.srw p a r) s = .next (s.push p 1 (.sreg r.toNat) (.word x) 0 true false).ran
      ∧ exec (.srs p a r) s = .next (s.push p 1 (.sreg r.toNat) (.word (o ||| x)) 0 true false).ran
      ∧ exec (.src p a r) s = .next (s.push p 1 (.sreg r.toNat) (.word (o &&& ~~~x)) 0 true false).ran)
    ∧ (r.toNat = 0x034 → PlainReg d → ∃ t, exec (.srr p d r) s = .next t ∧ t.sig = .ran
      ∧ t.ctx.infl = (s.sent p 1 d (mix s.ctx.rkey s.ctx.rctr)).ctx.infl ∧ t.ctx.rctr = s.ctx.rctr + 1)

/-- MODE, SRR, SRW, SRS and SRC (R91, R159, R160). -/
def Obligations.ModeAndStateRegistersAreWritten : Prop := ModeWaitsAndSwitchesThePipeline ∧ StateRegistersAreReadAndWritten

/-! ## Traps -/

/-- Taking a trap (R95, R96): the record holds the queue, the cause with the mode it left, the mask, address and detail; the mode
is supervisor with interrupts off; the queue is at the vector; the handler's first bundle comes 24 cycles later; results in flight
are captured with their remaining latencies; no register, flag or byte of memory changes. -/
def TrapEntryWritesTheRecord : Prop :=
  ∀ (s : State) (r : TrapReq) (m : BitVec 4), s.ctx.sv = false → ¬ (r.underlying = cPage ∧ bitAt r.detail 12 = false) →
    s.defers r.cause = false →
    ∃ t, exec (.trapEntry r.cause m r.taddr r.detail) s = .next t ∧ t.sig = .trapped r
      ∧ t.ctx.epcq0 = s.ctx.q0.word ∧ t.ctx.epcq1 = s.ctx.q1.word ∧ t.ctx.epcq2 = s.ctx.q2.word
      ∧ bits t.ctx.tcause 7 0 = r.cause.toNat ∧ bitAt t.ctx.tcause 8 = false ∧ bitAt t.ctx.tcause 9 = s.ctx.ie
      ∧ t.ctx.tmask = m ∧ t.ctx.taddr = r.taddr ∧ t.ctx.tdetail = r.detail
      ∧ t.ctx.sv = true ∧ t.ctx.ie = false ∧ t.ctx.il = s.ctx.il
      ∧ t.ctx.q0 = ⟨s.ctx.tvec.toNat, false⟩ ∧ t.ctx.q1 = ⟨s.ctx.tvec.toNat + 16, false⟩
      ∧ t.ctx.q2 = ⟨s.ctx.tvec.toNat + 32, false⟩ ∧ t.core.readyAt = s.now + 24
      ∧ t.ctx.infl = [] ∧ (s.ctx.replayU = none → t.ctx.snap.map (fun e => e.k) =
          s.ctx.snap.map (fun e => e.k) ++ s.ctx.infl.map (fun x => x.land - s.ctx.clk))
      ∧ (∀ k : Fin 4, (t.ctx.lat[k]).word = 0)
      ∧ t.ctx.s = s.ctx.s ∧ t.ctx.sup = s.ctx.sup ∧ t.ctx.win = s.ctx.win ∧ t.ctx.v = s.ctx.v ∧ t.ctx.p = s.ctx.p
      ∧ t.ctx.f = s.ctx.f ∧ t.ctx.sg = s.ctx.sg ∧ t.ctx.fpflags = s.ctx.fpflags ∧ t.ctx.wbase = s.ctx.wbase
      ∧ t.core.tiles = s.core.tiles

/-- A trap taken while `mode.sv` is 1 is a double fault (R99): the context is halted, its record is reported to the front end, the
front end ends the launch, the snapshot buffer is not overwritten. The number and detail word of the front end's management report (log
13, DESIGN CHOICE), and how the record's seven words are handed over (log 74, DEDUCED), are the model's. -/
def DoubleFaultHaltsAndEndsTheLaunch : Prop :=
  ∀ (s : State) (r : TrapReq) (m : BitVec 4), s.ctx.sv = true → ¬ (r.underlying = cPage ∧ bitAt r.detail 12 = false) →
    let t := s.takeTrap r m
    t.ctx.status = .halted ∧ t.ctx.snap = s.ctx.snap
    ∧ (∃ e ∈ t.reports, e.source = 3 ∧ e.detail = w64 (r.cause.toNat + 256 * (s.ctx.core * 4 + s.ctx.slot)))
    ∧ Answer.trapRecord s.ctx.core s.ctx.slot [s.ctx.q0.word, s.ctx.q1.word, s.ctx.q2.word,
        w64 (r.cause.toNat + 2 ^ 8 + (if s.ctx.ie then 2 ^ 9 else 0)), w64 m.toNat, r.taddr, r.detail] ∈ t.answers
    ∧ (∀ l ∈ t.launches, l.num = s.ctx.launch → l.bad = true)
    ∧ (∀ c ∈ t.ctxs, c.launch = s.ctx.launch → c.status.resident = true → c.status = .ending ∨ c.status = .halted)

/-- Taking a trap of any kind, offered, deferred, delivered or a double fault, changes no byte of memory. -/
def TakingATrapChangesNoMemory : Prop :=
  ∀ (s : State) (r : TrapReq) (m : BitVec 4),
    (s.takeTrap r m).mem = s.mem ∧ (s.takeTrap r m).scr = s.scr ∧ (s.takeTrap r m).loc = s.loc
    ∧ (s.takeTrap r m).imem = s.imem

/-- Taking a trap, in task mode and as a double fault, and that no trap changes a byte of memory (R95, R96, R99; how a double fault is
reported is the model's, logs 13, DESIGN CHOICE, and 74, DEDUCED). -/
def Obligations.TrapsWriteTheRecordOrEndTheLaunch : Prop := TrapEntryWritesTheRecord ∧ DoubleFaultHaltsAndEndsTheLaunch ∧ TakingATrapChangesNoMemory

/-! ## Synchronisation -/

/-- WAITF, FTEST and POSTF (R163, R164, R167): a flag at or above n gives n up and WAITF goes on, else it waits; FTEST answers 1 and
takes n, or answers 0 and takes nothing; POSTF and POSTR join the post queue, and a full queue freezes the core. -/
def FlagsCountAndPostsQueue : Prop :=
  ∀ (p : Pos) (f d a : BitVec 5) (n : BitVec 16) (s : State), PlainReg d → (p.bypA = true ∨ PlainReg a) →
    let x := s.source p.bypA a
    let taken := ({ s with ctx := { s.ctx with f := s.ctx.f.setIfInBounds f.toNat (BitVec.ofNat 16 (s.ctx.flag f - n.toNat)) } } :
      State)
    let queued := fun (q : Post) => ({ s with ctx := { s.ctx with posts := s.ctx.posts ++ [q] } } : State)
    let good := bits x 63 41 = 0 ∧ (bitAt x 40 = true ∨ bits x 39 8 = 0) ∧ bits x 7 0 < 216
    (n.toNat ≤ s.ctx.flag f → exec (.waitf p f n) s = .next taken.ran)
    ∧ (s.ctx.flag f < n.toNat → exec (.waitf p f n) s = .next (s.waits .flag))
    ∧ (n.toNat ≤ s.ctx.flag f → ∃ t, exec (.ftest p d f n) s = .next t ∧ t.sig = .ran
        ∧ t.ctx.infl = (s.sent p 1 d 1).ctx.infl ∧ t.ctx.f = taken.ctx.f)
    ∧ (s.ctx.flag f < n.toNat → exec (.ftest p d f n) s = .next (s.sent p 1 d 0).ran)
    ∧ (s.ctx.posts.length < 8 → exec (.postf p f n) s = .next (queued (.own f.toNat n.toNat)).ran)
    ∧ (8 ≤ s.ctx.posts.length → exec (.postf p f n) s = .next (s.waits .postQueue))
    ∧ (good → s.ctx.posts.length < 8 → exec (.postr p f a n) s = .next (queued (.remote f.toNat n.toNat x)).ran)
    ∧ (¬ good → exec (.postr p f a n) s = .next (s.traps p ⟨cProtect, x, 0x10⟩))

/-- A post takes effect once every earlier access of its context is performed (R166, R167): a post to a context's own flags
adds to the flag, and the queue gives it up. Posts to other contexts may leave out of order: the model's choice (log 57, DESIGN CHOICE). -/
def DeliveredPostAddsToTheFlag : Prop :=
  ∀ (s : State) (f n : Nat) (rest : List Post), s.settled false = true → s.ctx.posts = .own f n :: rest → f < 32 →
    ∃ t, exec .postDelivery s = .next t ∧ t.ctx.posts = rest
      ∧ (t.ctx.f.getD f 0).toNat = Nat.min 65535 ((s.ctx.f.getD f 0).toNat + n)
      ∧ (∀ k, k ≠ f → t.ctx.f.getD k 0 = s.ctx.f.getD k 0) ∧ t.mem = s.mem

/-- WAITF, FTEST, POSTF, POSTR and the delivery of a post (R163 to R167). -/
def Obligations.FlagsCountAndPostsAreDelivered : Prop := FlagsCountAndPostsQueue ∧ DeliveredPostAddsToTheFlag

/-- GNEW (R169, R170) on a valid record in this package: a record that names a live group of the caller's reach gives its handle and
sets its quorum; else the lowest free object becomes the group under its next incarnation, the first of all being 1 (log 6, DESIGN CHOICE); with
all 256 taken the answer is 0. A record that breaks R169 takes the format fault; a live group out of the caller's reach the protection
trap of bit 4 (R168). -/
def GnewMakesOrFindsTheGroup : Prop :=
  ∀ (p : Pos) (d a : BitVec 5) (s s1 s2 s3 : State) (pa key : Nat) (ws : List Word), (p.bypA = true ∨ PlainReg a) → PlainReg d →
    let o := s.source p.bypA a
    s.closed = false → objHome o.toNat s = .ok (.here pa, s1) → grRead o.toNat (.here pa) s1 = .ok ((ws, key), s2) →
    (grValid ws = false → exec (.gnew p d a) s = .next (s.traps p ⟨cFormat, o, 0⟩))
    ∧ (grValid ws = true → ∀ v, gnewAt o (ws.getD 0 0) key s2 = .ok (v, s3) →
        ∃ t, exec (.gnew p d a) s = .next t ∧ t.sig = .ran ∧ t.groups = s3.groups
          ∧ t.ctx.infl = (s3.sent p 1 d v).ctx.infl)
    ∧ (∀ g, s2.groups.find? (fun g => g.live && g.recAt == key) = some g →
        (g.admits s2.ctx.launch s2.ctx.agency = true → ∃ u, gnewAt o (ws.getD 0 0) key s2 = .ok (g.handle, u)
          ∧ ∃ x ∈ u.groups, x.index = g.index ∧ x.inc = g.inc ∧ x.live = true ∧ x.quorum = bits (ws.getD 0 0) 9 0)
        ∧ (grValid ws = true → g.admits s2.ctx.launch s2.ctx.agency = false →
          exec (.gnew p d a) s = .next (s.traps p ⟨cProtect, o, 0x10⟩)))
    ∧ (∀ k, s2.groups.find? (fun g => g.live && g.recAt == key) = none → s2.freeGroup = some k →
        ∃ u h, gnewAt o (ws.getD 0 0) key s2 = .ok (h, u) ∧ bits h 7 0 = k % 256
          ∧ ∃ g ∈ u.groups, g.index = k ∧ g.live = true ∧ g.recAt = key ∧ g.members = [] ∧ g.gen = 0
            ∧ g.quorum = bits (ws.getD 0 0) 9 0 ∧ g.launch = s2.ctx.launch ∧ g.agency = s2.ctx.agency
            ∧ (s2.groups.find? (fun x => x.index == k) = none → g.inc = 1)
            ∧ (∀ x, s2.groups.find? (fun x => x.index == k) = some x → g.inc = x.inc % 65535 + 1))
    ∧ (s2.groups.find? (fun g => g.live && g.recAt == key) = none → s2.freeGroup = none →
        gnewAt o (ws.getD 0 0) key s2 = .ok (0, s2))

/-- JOIN, LEAVE, BARA and BARG (R171, R172, R174, R176): under a valid handle JOIN, LEAVE (of a member) and BARA (of a member that has
not arrived) join the post queue, and BARG answers the group's word; an invalid handle takes the protection trap of bit 4 (R168). -/
def GroupOperationsQueueOrTrap : Prop :=
  ∀ (p : Pos) (d a : BitVec 5) (s : State), (p.bypA = true ∨ PlainReg a) → PlainReg d →
    let h := s.source p.bypA a
    let queued := fun (q : Post) => ({ s with ctx := { s.ctx with posts := s.ctx.posts ++ [q] } } : State)
    let bad : TrapReq := ⟨cProtect, h, 0x10⟩
    (s.projected.groupOf h = none → exec (.join p a) s = .next (s.traps p bad) ∧ exec (.leave p a) s = .next (s.traps p bad)
      ∧ exec (.bara p a) s = .next (s.traps p bad))
    ∧ (∀ g, s.projected.groupOf h = some g → s.ctx.posts.length < 8 →
      (g.admits s.ctx.launch s.ctx.agency = true → exec (.join p a) s = .next (queued (.join g.index g.inc)).ran)
      ∧ (g.admits s.ctx.launch s.ctx.agency = false → exec (.join p a) s = .next (s.traps p bad))
      ∧ (∀ m, g.member s.ctx.launch s.ctx.core = some m →
          exec (.leave p a) s = .next (queued (.leave g.index g.inc)).ran
          ∧ (m.bar = .idle → exec (.bara p a) s = .next (queued (.arrive g.index g.inc false)).ran)
          ∧ (∀ k st, m.bar = .arrived k st → exec (.bara p a) s = .next (s.traps p bad)))
      ∧ (g.member s.ctx.launch s.ctx.core = none → exec (.leave p a) s = .next (s.traps p bad)))
    ∧ (s.groupOf h = none → exec (.barg p d a) s = .next (s.traps p bad))
    ∧ (∀ g, s.groupOf h = some g →
      exec (.barg p d a) s = .next (s.sent p 1 d (g.barg s.ctx.launch s.ctx.core)).ran)

/-- GNEW, JOIN, LEAVE, BARA and BARG (R168 to R176). -/
def Obligations.GroupsAreMadeJoinedAndLeft : Prop := GnewMakesOrFindsTheGroup ∧ GroupOperationsQueueOrTrap

/-- A barrier generation completes when its quorum of members has arrived (R173), and not before. -/
def BarrierCompletesWithItsQuorum : Prop :=
  ∀ g : Group, g.live = true → g.members ≠ [] →
    ((g.quorum ≤ g.members.length ∧ (∀ m ∈ g.members, m.arrivedIn g.gen = true)
        ∧ ((∀ m ∈ g.members, m.stepped = false) ∨ g.sends = 0)) →
      g.check.gen = (g.gen + 1) % 2 ^ 16 ∧ ∀ m ∈ g.check.members, ∃ st, m.bar = .done g.gen st)
    ∧ (¬ (g.quorum ≤ g.members.length ∧ (∀ m ∈ g.members, m.arrivedIn g.gen = true)
        ∧ ((∀ m ∈ g.members, m.stepped = false) ∨ g.sends = 0)) → g.check = g)

/-- BARW and STEP (R174): a member that has not arrived sends its arrival and waits; a member whose generation has completed
goes on and is idle again, a step with the core's whole L1 dropped. A STEP that has not yet arrived itself fences and arrives in
whatever state BARA or BARW left the member. What a completed STEP does to the L1 is the model's reading (log 59, DEDUCED). -/
def BarrierWaitsEndWithTheGeneration : Prop :=
  ∀ (p : Pos) (a : BitVec 5) (s : State) (g : Group) (m : Member), (p.bypA = true ∨ PlainReg a) →
    let h := s.source p.bypA a
    s.ctx.posts = [] → s.groupOf h = some g → g.member s.ctx.launch s.ctx.core = some m →
    let idle := fun (s : State) => s.mapGroup g.index g.inc (fun x => x.setBar s.ctx.launch s.ctx.core .idle)
    (m.bar = .idle → ∃ t, exec (.barw p a) s = .next t ∧ t.sig = .waits .barrier
      ∧ t.ctx.posts = [.arrive g.index g.inc false])
    ∧ (∀ k st, m.bar = .arrived k st → exec (.barw p a) s = .next (s.waits .barrier))
    ∧ (∀ k st, m.bar = .done k st → (k + 1) % 2 ^ 16 = g.gen → exec (.barw p a) s = .next (idle s).ran)
    ∧ (∀ k st, m.bar = .done k st → s.ctx.stepping = true → (k + 1) % 2 ^ 16 = g.gen → s.closed = false →
      let t := idle (s.flushCore s.ctx.core (fun _ => true))
      exec (.step p a) s = .next ({ t with ctx := { t.ctx with stepping := false } } : State).ran)
    ∧ (∀ k st, m.bar = .arrived k st → s.ctx.stepping = true → exec (.step p a) s = .next (s.waits .step))
    ∧ ((s.ctx.stepping = false ∨ m.bar = .idle) → s.settled false = true → s.closed = false →
      ∃ t, exec (.step p a) s = .next t ∧ t.sig = .waits .step ∧ t.ctx.stepping = true
        ∧ t.ctx.posts.getLast? = some (.arrive g.index g.inc true))
    ∧ ((s.ctx.stepping = false ∨ m.bar = .idle) → s.settled false = false → exec (.step p a) s = .next (s.waits .step))

/-- The completion of a barrier generation, BARW and STEP (R173, R174). -/
def Obligations.BarriersCompleteAndReleaseTheirWaits : Prop := BarrierCompletesWithItsQuorum ∧ BarrierWaitsEndWithTheGeneration

/-- MONITOR arms the sector of a local address; MWAIT goes on when no monitor is armed, when it has woken, or when its timeout
has passed, and then holds none; else it waits (R178 to R180). The start of a timeout is the model's reading (log 61, DEDUCED). -/
def Obligations.MonitorsArmAndWaitsEnd : Prop :=
  ∀ (p : Pos) (a : BitVec 5) (s : State), (p.bypA = true ∨ PlainReg a) →
    let x := s.source p.bypA a
    (∀ sec s1, monitorAt x s = .ok (sec, s1) → ∃ t, exec (.monitor p a) s = .next t ∧ t.sig = .ran
      ∧ t.ctx.mon = some ⟨sec, false, s1.now⟩)
    ∧ (x.toNat < 2 ^ 32 → exec (.monitor p a) s = .next (s.traps p ⟨cProtect, x, 0x10⟩))
    ∧ (s.ctx.mon = none ∨ (∃ m, s.ctx.mon = some m ∧ m.woken = true) ∨ (∃ e, s.ctx.mwaitAt = some e ∧ e ≤ s.now) →
      exec (.mwait p a) s = .next ({ s with ctx := { s.ctx with mon := none, mwaitAt := none } } : State).ran)
    ∧ (∀ m, s.ctx.mon = some m → m.woken = false → s.ctx.mwaitAt = none → x = 0 →
      exec (.mwait p a) s = .next (s.waits .mwait))
    ∧ (∀ m, s.ctx.mon = some m → m.woken = false → s.ctx.mwaitAt = none → x ≠ 0 →
      exec (.mwait p a) s = .next
        (({ s with ctx := { s.ctx with mwaitAt := some (s.now + x.toNat) } } : State).waits .mwait))

/-- The instruction of an attempt on a sync object. -/
def soInstr (op : SoOp) (p : Pos) (a : BitVec 5) : Instr :=
  match op with
  | .acqX => .acqX p a
  | .acqS => .acqS p a
  | .rel => .rel p a

/-- A virtual address of the launch has its leaf in the core's TLB: writable, of task mode, on memory of this package at pa (R203,
R204). -/
def CachedHere (s : State) (va pa : Nat) : Prop :=
  2 ^ 32 ≤ va ∧ va < 2 ^ 57 ∧ s.ctx.core < 192 ∧ s.core.id = s.ctx.core ∧ isHbm pa = true
  ∧ ∃ e : TlbEnt, s.core.tlb.find? (fun e => e.covers s.ctx.launch va) = some e ∧ pa = ptePa e.pte + va % e.size
    ∧ bitAt e.pte 5 = true ∧ bitAt e.pte 6 = false ∧ pteRm e.pte = false

/-- ACQ.x, ACQ.s and REL complete (R116): on a valid object of this package that has its leaf in the TLB, holds no poison, grants the
attempt and does not refuse it, the slot runs and the lock word becomes what the table says; REL, its earlier accesses performed,
counts the version up as well. -/
def GrantedAttemptsComplete : Prop :=
  ∀ (p : Pos) (a : BitVec 5) (op : SoOp) (s : State) (pa : Nat), (p.bypA = true ∨ PlainReg a) →
    let x := s.source p.bypA a
    let me := ownerOf s.fab.dev s.ctx.core s.ctx.slot
    let ws := wordsOfBytes 4 (memGetN s.mem pa 32)
    let after := soAfter op me (ws.getD 0 0) (ws.getD 1 0)
    CachedHere s x.toNat pa → x.toNat % 32 = 0 → s.closed = false → s.core.l1 = [] → s.poisoned pa 32 = none → s.MemWf →
    soValid ws = true → soRefused op me (ws.getD 0 0) = false → soGranted op (ws.getD 0 0) = true →
    (op = .rel → s.settled false = true) →
    ∃ t, exec (soInstr op p a) s = .next t ∧ t.sig = .ran ∧ memGetN t.mem pa 8 = bytesOfNat 8 after.1.toNat
      ∧ (op = .rel → memGetN t.mem pa 16 = bytesOfWords [after.1, after.2])

/-- The attempts of ACQ.x, ACQ.s and REL at an object's home (R116): a grant changes the lock word as the table says; an attempt that
is not granted waits; one that R116 refuses takes the protection trap of bit 3. The core's own L1 copy of the record goes out
first (R111). -/
def AttemptsFollowTheTable : Prop :=
  ∀ (p : Pos) (a : BitVec 5) (op : SoOp) (s s1 : State) (pa : Nat), (p.bypA = true ∨ PlainReg a) →
    let i := soInstr op p a
    let x := s.source p.bypA a
    let me := ownerOf s1.fab.dev s1.ctx.core s1.ctx.slot
    let own := s1.dropOwn s1.ctx.launch x.toNat 32
    s.closed = false → objHome x.toNat s = .ok (.here pa, s1) → own.poisoned pa 32 = none →
    let ws := wordsOfBytes 4 (memGetN own.mem pa 32)
    (op ≠ .rel → soValid ws = true → soRefused op me (ws.getD 0 0) = false → soGranted op (ws.getD 0 0) = true →
      ∃ t, exec i s = .next t ∧ t.sig = .ran)
    ∧ (op ≠ .rel → soValid ws = true → soRefused op me (ws.getD 0 0) = true →
      exec i s = .next (s.traps p ⟨cProtect, x, 8⟩))
    ∧ (op ≠ .rel → soValid ws = true → soRefused op me (ws.getD 0 0) = false → soGranted op (ws.getD 0 0) = false →
      exec i s = .next (s.waits .acquire))
    ∧ (op ≠ .rel → soValid ws = false → exec i s = .next (s.traps p ⟨cFormat, x, 0⟩))
    ∧ (op = .rel → s.settled false = true → s1.settled false = true → s1.MemWf → s1.core.id = s1.ctx.core → s1.core.l1 = [] → soValid ws = true →
      (soRefused .rel me (ws.getD 0 0) = false → ∃ t, exec (.rel p a) s = .next t ∧ t.sig = .ran
        ∧ memGetN t.mem pa 16 = bytesOfWords [(soAfter .rel me (ws.getD 0 0) (ws.getD 1 0)).1, ws.getD 1 0 + 1])
      ∧ (soRefused .rel me (ws.getD 0 0) = true → exec (.rel p a) s = .next (s.traps p ⟨cProtect, x, 8⟩)))
    ∧ (s.settled false = false → exec (.rel p a) s = .next (s.waits .drain))
    ∧ (s1.MemWf → soValid ws = true → soRefused op me (ws.getD 0 0) = false → soGranted op (ws.getD 0 0) = true →
      let after := soAfter op me (ws.getD 0 0) (ws.getD 1 0)
      memGetN (own.soAttempt op me pa s1.ctx.agency).2.mem pa 8 = bytesOfNat 8 after.1.toNat)
    ∧ (∀ l v, soAfter .acqX me l v = (w64 (2 ^ 63 + me * 2 ^ 12), v) ∧ soAfter .acqS me l v = (l + w64 (2 ^ 32), v)
      ∧ soAfter .rel me l v = (if bitAt l 63 then 0 else l - w64 (2 ^ 32), v + 1))

/-- ACQ.x, ACQ.s and REL of an object of this package (R116). -/
def Obligations.SyncObjectsAreAcquiredAndReleased : Prop := AttemptsFollowTheTable ∧ GrantedAttemptsComplete

/-- The fences (R119): FENCE.core waits for the accesses of the core, FENCE.dev then writes back and drops the core's whole L1, and waits
for a write-back that stands behind a far access (R229); FENCE.fab waits for far acknowledgements too. What each fence waits for is the
model's reading (log 82, DEDUCED). -/
def FencesWaitAndDropTheL1 : Prop :=
  ∀ (p : Pos) (s : State),
    let u := s.flushCore s.ctx.core (fun _ => true)
    (s.settled false = true → exec (.fenceCore p) s = .next s.ran)
    ∧ (s.settled false = false → exec (.fenceCore p) s = .next (s.waits .drain)
        ∧ exec (.fenceDev p) s = .next (s.waits .drain))
    ∧ (s.settled false = true → s.closed = false →
      (u.settled false = true → ∃ t, exec (.fenceDev p) s = .next t ∧ t.sig = .ran ∧ t.core.l1 = u.core.l1 ∧ t.mem = u.mem)
      ∧ (u.settled false = false → exec (.fenceDev p) s = .next (u.waits .drain)))
    ∧ (s.settled true = true → s.closed = false →
      (u.settled false = true → ∃ t, exec (.fenceFab p) s = .next t ∧ t.sig = .ran ∧ t.core.l1 = u.core.l1 ∧ t.mem = u.mem)
      ∧ (u.settled false = false → exec (.fenceFab p) s = .next (u.waits .drain)))
    ∧ (s.core.l1 = [] → s.core.id = s.ctx.core → s.settled false = true → u.settled false = true)
    ∧ (s.settled true = false → exec (.fenceFab p) s = .next (s.waits .drain))

/-- INVRO, FLUSHR, PREF and PHASE (R187, R188, R199 to R201): what each drops or fetches; PREF never traps,
and fetches the sector of an address that has its leaf in the TLB; PHASE opens a window of 2,049
cycles and notes the new division, and traps above four pieces of 128 KiB. That INVRO drops single sectors, a line's others staying, is the
model's choice (log 107, DESIGN CHOICE). -/
def MaintenanceActsOnTheCaches : Prop :=
  ∀ (p : Pos) (a b : BitVec 5) (pol : BitVec 3) (off : BitVec 13) (s : State), (p.bypA = true ∨ PlainReg a) →
    (p.bypB = true ∨ PlainReg b) →
    let x := s.source p.bypA a
    let n := s.source p.bypB b
    let hi := Nat.min (x.toNat + n.toNat) (2 ^ 57)
    (∃ t, exec (.invro p a b) s = .next t ∧ t.sig = .ran ∧ t.mem = s.mem ∧ t.core = s.core
      ∧ ∀ l, l ∈ t.ro ↔ l ∈ s.ro ∧ ¬ (l.chamber = chamberOf s.ctx.core ∧ l.launch = s.ctx.launch ∧ x.toNat < hi
          ∧ x.toNat < 32 * l.sector + 32 ∧ 32 * l.sector < hi))
    ∧ (s.closed = false →
      let u := s.flushCore s.ctx.core (fun l => l.launch == s.ctx.launch && decide (x.toNat < hi) && l.overlaps x.toNat hi)
      (u.farClear = true → exec (.flushr p a b) s = .next u.ran)
      ∧ (u.farClear = false → exec (.flushr p a b) s = .next (u.waits .drain)))
    ∧ (x.toNat ≤ 4 → (s.core.l1Size < x.toNat → ∀ g ∈ s.allotted s.ctx.core,
          2 ^ 21 - s.core.l1Size * 2 ^ 17 ≤ g.1 ∨ g.1 + g.2 ≤ 2 ^ 21 - x.toNat * 2 ^ 17) →
        s.core.phaseEnd = none →
        ∃ t, exec (.phase p a) s = .next t ∧ t.sig = .ran ∧ t.core.l1Next = x.toNat
          ∧ t.core.phaseEnd = some (s.now + 2049) ∧ t.core.l1Size = s.core.l1Size)
    ∧ (4 < x.toNat → exec (.phase p a) s = .next (s.traps p ⟨cProtect, 0, 0x20⟩))
    ∧ (∃ t, exec (.pref p a pol off) s = .next t ∧ ∀ r, t.sig ≠ .trapped r)
    ∧ ((effAddr p x off).toNat < 2 ^ 32 → exec (.pref p a pol off) s = .next s.ran)
    ∧ (∀ pa, CachedHere s (effAddr p x off).toNat pa →
      (pol = 1 → exec (.pref p a pol off) s = .next (s.homeRead (pa / 32 * 32) 32 .l2 s.ctx.agency).2.ran)
      ∧ (pol = 0 → 0 < s.core.l1Size → s.closed = false → exec (.pref p a pol off) s
          = .next (s.l1Load s.ctx.launch ((effAddr p x off).toNat / 32 * 32) 32 (pa / 32 * 32)).2.2.2.ran)
      ∧ (pol = 4 → exec (.pref p a pol off) s
          = .next (s.roLoad (chamberOf s.ctx.core) s.ctx.launch (effAddr p x off).toNat 1 pa).2.2.ran))

/-- The fences, INVRO, FLUSHR, PREF and PHASE (R119, R187, R188, R199 to R201; logs 82, DEDUCED, and 107, DESIGN CHOICE). -/
def Obligations.FencesAndMaintenanceActOnTheCaches : Prop := FencesWaitAndDropTheL1 ∧ MaintenanceActsOnTheCaches

/-! ## Memory instructions -/

/-- n bytes at an address lie in this package's memory at pa, reached at L2 with no line of the core's L1 and no poison in the way; t is the state after the translation (R203, R205, R110). -/
def PlainMemory (s : State) (ea n pa : Nat) (write : Bool) (t : State) : Prop :=
  2 ^ 32 ≤ ea ∧ s.locate ea n write = (.ok (.mem pa false), t) ∧ t.core.l1 = []
  ∧ t.poisoned pa n = none ∧ t.notifySector pa = none

/-- The scalar loads with the bytes they read and whether they extend the sign (R146, R147). -/
def scalarLoads (p : Pos) (d base : BitVec 5) (pol : BitVec 3) (off : BitVec 13) : List (Instr × Nat × Bool) :=
  [(.ldB p d base pol off, 1, true), (.ldH p d base pol off, 2, true), (.ldW p d base pol off, 4, true),
   (.ldD p d base pol off, 8, true), (.ldBN p d base pol off, 1, false), (.ldHN p d base pol off, 2, false),
   (.ldWN p d base pol off, 4, false)]

/-- The value of a scalar load from its bytes, the lowest address first (R2, R147). -/
def loadValue (signed : Bool) (bs : List Byte) : Word :=
  if signed then (BitVec.ofNat (8 * bs.length) (natOfBytes bs)).signExtend 64 else BitVec.ofNat 64 (natOfBytes bs)

/-- What slot 1 sees of its own scratchpad (R128, R192): the bytes as they stand, where no store is on its way; else a store on its
way comes before them, the newest last. -/
def OwnStoresAreSeen : Prop :=
  ∀ (s : State) (off n : Nat) (bs : List Byte), s.core.id = s.ctx.core →
    (s.core.later = [] → s.scrSeen s.ctx.core off n = memGetN s.scr (scrKey s.ctx.core off) n
      ∧ s.seenPoison s.ctx.core off n = s.scrPoisoned s.ctx.core off n)
    ∧ (Stored s off bs).scrSeen s.ctx.core off bs.length = bs
    ∧ (∀ o, (∀ i, i < n → o + i < off ∨ off + bs.length ≤ o + i) →
      (Stored s off bs).scrSeen s.ctx.core o n = s.scrSeen s.ctx.core o n)

/-- The scalar loads complete (R146, R147, R193): from the own scratchpad, as slot 1 sees it, the value lands four bundles later, from
memory six; an address that is no multiple of the width takes the misaligned trap; another core's scratchpad, bytes outside the
granules, or an address whose reserved bits are not zero, the protection trap of bit 2. That an access is performed at its step is the model's choice of order (log 8, DEDUCED). -/
def ScalarLoadsComplete : Prop :=
  ∀ (p : Pos) (d base : BitVec 5) (pol : BitVec 3) (off : BitVec 13) (s : State), (p.bypA = true ∨ PlainReg base) → PlainReg d →
    let ea := effAddr p (s.source p.bypA base) off
    ∀ e ∈ scalarLoads p d base pol off,
      (ea.toNat % e.2.1 = 0 → NearScratch s ea.toNat e.2.1 →
        s.seenPoison s.ctx.core (ea.toNat % 2 ^ 21) e.2.1 = none →
        exec e.1 s = .next (s.sent p 4 d (loadValue e.2.2 (s.scrSeen s.ctx.core (ea.toNat % 2 ^ 21) e.2.1))).ran)
      ∧ (∀ pa t, ea.toNat % e.2.1 = 0 → pol = 1 → PlainMemory s ea.toNat e.2.1 pa false t →
        ∃ u, exec e.1 s = .next u ∧ u.sig = .ran ∧ u.mem = s.mem ∧ u.scr = s.scr
          ∧ u.ctx.infl = s.ctx.infl ++ [⟨s.ctx.clk + 6, s.ctx.seq, p.slot.toNat,
              if d.toNat = 0 then .none else .scalar (s.ctx.phys d.toNat), if d.toNat = 0 then true else !p.wbs,
              .word (loadValue e.2.2 (memGetN s.mem pa e.2.1)), 0, true⟩])
      ∧ (ea.toNat % e.2.1 ≠ 0 → exec e.1 s = .next (s.traps p ⟨cAlign, ea, w64 (sizeCode e.2.1)⟩))
      ∧ (ea.toNat % e.2.1 = 0 → ea.toNat < 2 ^ 24 → s.ctx.companion = false → ea.toNat / 2 ^ 21 % 8 ≠ s.ctx.core % 8 →
        exec e.1 s = .next (s.traps p ⟨cProtect, ea, 4⟩))
      ∧ (ea.toNat % e.2.1 = 0 → ea.toNat < 2 ^ 24 → s.ctx.companion = false →
        s.inGranules s.ctx.launch s.ctx.core (ea.toNat % 2 ^ 21) e.2.1 = false →
        exec e.1 s = .next (s.traps p ⟨cProtect, ea, 4⟩))
      ∧ (ea.toNat % e.2.1 = 0 → 2 ^ 24 ≤ ea.toNat → ea.toNat < 2 ^ 32 → s.ctx.companion = false →
        exec e.1 s = .next (s.traps p ⟨cProtect, ea, 4⟩))

/-- The scalar loads and what they see (R128, R146, R147, R192, R193). -/
def Obligations.ScalarLoadsGiveTheBytes : Prop := ScalarLoadsComplete ∧ OwnStoresAreSeen

/-- The scalar stores with the bytes they write (R146, R147). -/
def scalarStores (p : Pos) (d base : BitVec 5) (pol : BitVec 3) (off : BitVec 13) : List (Instr × Nat) :=
  [(.stB p d base pol off, 1), (.stH p d base pol off, 2), (.stW p d base pol off, 4), (.stD p d base pol off, 8)]

/-- The scalar stores complete (R146, R147, R189, R192): a store to the own scratchpad is on its way, with the low bytes of the data,
lowest first, and changes nothing else; one to memory of this package at L2 leaves them at the address, and every other byte of every
memory is as it was; no register, flag or status changes. -/
def ScalarStoresChangeOnlyTheirBytes : Prop :=
  ∀ (p : Pos) (d base : BitVec 5) (pol : BitVec 3) (off : BitVec 13) (s : State), (p.bypA = true ∨ PlainReg base) →
    (p.bypB = true ∨ PlainReg d) →
    let ea := effAddr p (s.source p.bypA base) off
    let v := s.source p.bypB d
    ∀ e ∈ scalarStores p d base pol off, ea.toNat % e.2 = 0 → s.MemWf →
      (NearScratch s ea.toNat e.2 →
        exec e.1 s = .next (Stored s (ea.toNat % 2 ^ 21) (bytesOfNat e.2 v.toNat)).ran)
      ∧ (∀ pa u, pol = 1 → PlainMemory s ea.toNat e.2 pa true u →
        ∃ t, exec e.1 s = .next t ∧ t.sig = .ran ∧ memGetN t.mem pa e.2 = bytesOfNat e.2 v.toNat
          ∧ (∀ k, ¬ (pa ≤ k ∧ k < pa + e.2) → memGet t.mem k = memGet s.mem k)
          ∧ t.scr = s.scr ∧ t.loc = s.loc ∧ t.imem = s.imem ∧ t.ctx.infl = s.ctx.infl ∧ t.ctx.s = s.ctx.s
          ∧ t.ctx.win = s.ctx.win ∧ t.ctx.v = s.ctx.v ∧ t.ctx.fpflags = s.ctx.fpflags)

/-- The stores on their way reach the scratchpad when they are due, and not before (R188, R192): a byte that no due store covers is as
it was, and those of the only one that is due stand at their place. -/
def OwnStoresLand : Prop :=
  ∀ s : State, s.MemWf →
    let t := s.scrLand
    t.mem = s.mem ∧ t.ctx = s.ctx ∧ t.core.later = s.core.later.filter (fun w => !decide (w.due ≤ s.now))
    ∧ (∀ k, (∀ w ∈ s.core.later, w.due ≤ s.now → ¬ (scrKey s.core.id w.off ≤ k ∧ k < scrKey s.core.id w.off + w.bytes.length)) →
      memGet t.scr k = memGet s.scr k)
    ∧ (∀ w, s.core.later.filter (fun w => decide (w.due ≤ s.now)) = [w] →
      memGetN t.scr (scrKey s.core.id w.off) w.bytes.length = w.bytes)

/-- A misaligned or misplaced store traps and changes no byte of memory (R13, R93, R94, R146). -/
def RefusedStoresTrap : Prop :=
  ∀ (p : Pos) (d base : BitVec 5) (pol : BitVec 3) (off : BitVec 13) (s : State), (p.bypA = true ∨ PlainReg base) →
    (p.bypB = true ∨ PlainReg d) →
    let ea := effAddr p (s.source p.bypA base) off
    ∀ e ∈ scalarStores p d base pol off,
      (ea.toNat % e.2 ≠ 0 → exec e.1 s = .next (s.traps p ⟨cAlign, ea, w64 (sizeCode e.2)⟩))
      ∧ (ea.toNat % e.2 = 0 → ea.toNat < 2 ^ 24 → s.ctx.companion = false → ea.toNat / 2 ^ 21 % 8 ≠ s.ctx.core % 8 →
        exec e.1 s = .next (s.traps p ⟨cProtect, ea, 5⟩))
      ∧ (ea.toNat % e.2 = 0 → ea.toNat < 2 ^ 24 → s.ctx.companion = false →
        s.inGranules s.ctx.launch s.ctx.core (ea.toNat % 2 ^ 21) e.2 = false →
        exec e.1 s = .next (s.traps p ⟨cProtect, ea, 5⟩))
      ∧ (ea.toNat % e.2 = 0 → 2 ^ 24 ≤ ea.toNat → ea.toNat < 2 ^ 32 → s.ctx.companion = false →
        exec e.1 s = .next (s.traps p ⟨cProtect, ea, 5⟩))
      ∧ (s.traps p ⟨cAlign, ea, w64 (sizeCode e.2)⟩).mem = s.mem

/-- The scalar stores: where they complete, with their frame, and where they trap (R146, R147, R189, R192). -/
def Obligations.ScalarStoresStoreOrTrap : Prop := ScalarStoresChangeOnlyTheirBytes ∧ OwnStoresLand ∧ RefusedStoresTrap

/-- How many of n bytes at an address lie before the next multiple of 64 KiB. -/
def firstPiece (ea n : Nat) : Nat := Nat.min n (65536 - ea % 65536)

/-- n bytes of the own scratchpad as slot 1 sees them: an access is made page by page of 64 KiB. -/
def seenAt (s : State) (ea n : Nat) : List Byte :=
  let k := firstPiece ea n
  s.scrSeen s.ctx.core (ea % 2 ^ 21) k ++ (if k < n then s.scrSeen s.ctx.core (ea % 2 ^ 21 + k) (n - k) else [])

/-- No poison stands in those bytes. -/
def ClearAt (s : State) (ea n : Nat) : Prop :=
  let k := firstPiece ea n
  s.seenPoison s.ctx.core (ea % 2 ^ 21) k = none ∧ (k < n → s.seenPoison s.ctx.core (ea % 2 ^ 21 + k) (n - k) = none)

/-- The state once slot 1 has stored bytes of the own scratchpad, page by page. -/
def storedAt (s : State) (ea : Nat) (bs : List Byte) : State :=
  let k := firstPiece ea bs.length
  let t := Stored s (ea % 2 ^ 21) (bs.take k)
  if k < bs.length then Stored t (ea % 2 ^ 21 + k) (bs.drop k) else t

/-- LDV and STV to the own scratchpad (R193, R194): all 256 bytes, byte 0 at the lowest address; a loaded register has tag 0 and lands five
bundles later; the stored tag is not looked at. The bytes are those that slot 1 sees, and a store is on its way for two cycles (R192). -/
def VectorLoadsAndStoresMoveTheRegister : Prop :=
  ∀ (p : Pos) (d base : BitVec 5) (pol : BitVec 3) (off : BitVec 13) (s : State), (p.bypA = true ∨ PlainReg base) →
    let ea := effAddr p (s.source p.bypA base) off
    (ea.toNat % 64 = 0 → NearScratch s ea.toNat 256 →
      (ClearAt s ea.toNat 256 →
        exec (.ldv p d base pol off) s = .next (s.sentV p 5 d (VVal.mk' (dataOfBytes (seenAt s ea.toNat 256)) 0)).ran)
      ∧ exec (.stv p d base pol off) s = .next (storedAt s ea.toNat (s.ctx.vec d.toNat).bytes).ran)
    ∧ (ea.toNat % 64 ≠ 0 → exec (.ldv p d base pol off) s = .next (s.traps p ⟨cAlign, ea, 4⟩)
      ∧ exec (.stv p d base pol off) s = .next (s.traps p ⟨cAlign, ea, 4⟩))

/-- LDQ and STQ move a quantised record of 320 bytes (R276, R277): LDQ gives the register its codes, the tag asked for and its
metadata, six bundles later; STQ writes codes, metadata and zero for the groups it has not. An ill-formed tag, one of no quantised format,
or bits above it take the format fault; a tag that is not the register's takes the tag mismatch. -/
def QuantisedRecordsCarryTheirMetadata : Prop :=
  ∀ (p : Pos) (d a b : BitVec 5) (pol : BitVec 3) (s : State), (p.bypA = true ∨ PlainReg a) → (p.bypB = true ∨ PlainReg b) →
    let ea := s.source p.bypA a
    let tg := s.source p.bypB b
    let t := BitVec.ofNat 24 tg.toNat
    let n := groupCount (tagF t) (tagGrp t)
    (ea.toNat % 64 = 0 → tg.toNat < 2 ^ 24 → tagOk t = true → (tagFmt t = 15 ∨ tagFmt t = 16) →
      (∀ side, NearScratch s ea.toNat (256 + 4 * n) → ClearAt s ea.toNat 256 → ClearAt s (ea.toNat + 256) (4 * n) →
        (tagRot t ≠ 0 → fingerprint (s.ctx.sg.getD (tagSeed t) 0) = tagFp t) →
        recordSide ea t 0 (words32 n (seenAt s (ea.toNat + 256) (4 * n))) s = .ok (side, s) →
        exec (.ldq p d a b pol) s = .next (s.sentV p 6 d ⟨dataOfBytes (seenAt s ea.toNat 256), t, sideOf side⟩).ran)
      ∧ (NearScratch s ea.toNat 320 → (s.ctx.vec d.toNat).tag = t →
        exec (.stq p d a b pol) s = .next (storedAt s ea.toNat ((s.ctx.vec d.toNat).bytes ++ (List.range 16).flatMap (fun j =>
          bytesOfNat 4 (if j < n then ((s.ctx.vec d.toNat).side.getD j 0).toNat else 0)))).ran)
      ∧ ((s.ctx.vec d.toNat).tag ≠ t → exec (.stq p d a b pol) s = .next (s.traps p
          ⟨cTag, 0, w64 (t.toNat + 2 ^ 24 * (s.ctx.vec d.toNat).tag.toNat)⟩)))
    ∧ (ea.toNat % 64 = 0 → (2 ^ 24 ≤ tg.toNat ∨ tagOk t = false ∨ (tagFmt t ≠ 15 ∧ tagFmt t ≠ 16)) →
      exec (.ldq p d a b pol) s = .next (s.traps p ⟨cFormat, 0, w64 t.toNat⟩)
      ∧ exec (.stq p d a b pol) s = .next (s.traps p ⟨cFormat, 0, w64 t.toNat⟩))
    ∧ (ea.toNat % 64 ≠ 0 → exec (.ldq p d a b pol) s = .next (s.traps p ⟨cAlign, ea, 4⟩)
      ∧ exec (.stq p d a b pol) s = .next (s.traps p ⟨cAlign, ea, 4⟩))

/-- LDV, STV, LDQ and STQ (R193, R194, R276, R277). -/
def Obligations.VectorRegistersAreLoadedAndStored : Prop := VectorLoadsAndStoresMoveTheRegister ∧ QuantisedRecordsCarryTheirMetadata

/-- VGTH and VSCT (R195): once every enabled lane's access answers, a gather writes the enabled lanes from their bytes under tag 0 and
leaves the disabled ones; a scatter stores the enabled lanes; with no lane enabled nothing is accessed. On lanes of the own
scratchpad both complete. -/
def Obligations.GathersAndScattersFollowTheirLanes : Prop :=
  ∀ (p : Pos) (d a b : BitVec 5) (pol : BitVec 3) (pred : BitVec 4) (size : BitVec 2) (s : State),
    (p.bypA = true ∨ PlainReg a) →
    let e := 2 ^ size.toNat
    let base := s.source p.bypA a
    let en := s.ctx.pred pred.toNat
    let lanes := laneAddrs base (s.ctx.vec b.toNat) en e
    (base.toNat % e = 0 → (∀ s1 s2 qs bs late, gatherHere (policyOf pol) e lanes s = .ok ((qs, late), s1) →
        loadThere (policyOf pol) none 0 qs s1 = .ok (bs, s2) →
        ∃ t v, exec (.vgth p d a b pol pred size) s = .next t ∧ t.sig = .ran ∧ t.mem = s2.mem ∧ t.scr = s2.scr
          ∧ t.ctx.infl = (s2.sentV p (if nearParts (qs.map (·.1)) then 10 else 14) d (VVal.mk' v 0) (elemMask en (8 * e))).ctx.infl)
      ∧ (lanes = [] → exec (.vgth p d a b pol pred size) s = .next
          (s.sentV p 10 d (VVal.mk' (dataOfBytes (List.replicate 256 0)) 0) (elemMask en (8 * e))).ran
        ∧ exec (.vsct p d a b pol pred size) s = .next s.ran)
      ∧ (∀ ps s1 s2 s3, laneParts e true lanes s = .ok (ps, s1) →
        storeHere (policyOf pol) (ps.zip (lanes.map (fun l => bytesOfNat e ((s.ctx.vec d.toNat).lane (8 * e) l.1)))) s1
          = .ok ((), s2) →
        storeThere (policyOf pol) 0 (ps.zip (lanes.map (fun l => bytesOfNat e ((s.ctx.vec d.toNat).lane (8 * e) l.1)))) s2
          = .ok ((), s3) → notifyReady ps s1 = .ok ((), s1) → exec (.vsct p d a b pol pred size) s = .next s3.ran)
      ∧ ((∀ l ∈ lanes, NearScratch s l.2 e) →
        ((∀ l ∈ lanes, s.seenPoison s.ctx.core (l.2 % 2 ^ 21) e = none) → exec (.vgth p d a b pol pred size) s
          = .next (s.sentV p 10 d (VVal.mk' (dataOfBytes ((List.range (256 / e)).flatMap (fun i =>
              match lanes.find? (fun l => l.1 == i) with
              | some l => s.scrSeen s.ctx.core (l.2 % 2 ^ 21) e
              | none => List.replicate e 0))) 0) (elemMask en (8 * e))).ran)
        ∧ exec (.vsct p d a b pol pred size) s = .next ((lanes.foldl (fun t l =>
            Stored t (l.2 % 2 ^ 21) (bytesOfNat e ((s.ctx.vec d.toNat).lane (8 * e) l.1))) s).ran)))
    ∧ (base.toNat % e ≠ 0 → exec (.vgth p d a b pol pred size) s = .next (s.traps p ⟨cAlign, base, w64 size.toNat⟩)
      ∧ exec (.vsct p d a b pol pred size) s = .next (s.traps p ⟨cAlign, base, w64 size.toNat⟩))

/-- What the atomics with an integer result leave in memory (R196), for words of w bits: add, minimum and maximum (signed and
unsigned), and, or, exclusive or, exchange. -/
def amoResult (op w old y : Nat) : Nat :=
  match op with
  | 0 => (old + y) % 2 ^ w
  | 1 => if (BitVec.ofNat w old).toInt ≤ (BitVec.ofNat w y).toInt then old else y
  | 2 => if (BitVec.ofNat w old).toInt ≤ (BitVec.ofNat w y).toInt then y else old
  | 3 => Nat.min old y
  | 4 => Nat.max old y
  | 5 => old &&& y
  | 6 => old ||| y
  | 7 => old ^^^ y
  | _ => y

/-- What an AMO that always writes leaves in memory: fadd adds in f32 or f64, rounded to nearest, subnormals kept, a NaN canonical (R66,
R196). -/
def amoWritten (op n old y : Nat) : Nat :=
  if op = 10 then (if n = 4 then rneAdd f32 old y else rneAdd f64 old y) else amoResult op (8 * n) old y

/-- AMO on the own scratchpad, whatever its scope (R193, R196 to R198): the old value, sign-extended, lands eight bundles later, and memory
holds the operation's result; CAS writes only on equality with the old destination; a misaligned address traps. An atomic follows the
stores on their way to its bytes, which is the model's reading (log 105, DEDUCED): it issues once they are written. -/
def AtomicsOnTheScratchpad : Prop :=
  ∀ (p : Pos) (d a b : BitVec 5) (op : BitVec 4) (dword far : Bool) (s : State), (p.bypA = true ∨ PlainReg a) →
    (p.bypB = true ∨ PlainReg b) → PlainReg d →
    let n := if dword then 8 else 4
    let ea := s.source p.bypA a
    let y := (s.source p.bypB b).toNat % 2 ^ (8 * n)
    let key := scrKey s.ctx.core (ea.toNat % 2 ^ 21)
    let old := natOfBytes (memGetN s.scr key n)
    (ea.toNat % n = 0 → NearScratch s ea.toNat n → s.core.ownOver (ea.toNat % 2 ^ 21) n = true →
      exec (.amo p d a b op dword far) s = .next (s.waits .access))
    ∧ (ea.toNat % n = 0 → s.MemWf → NearScratch s ea.toNat n → s.core.ownOver (ea.toNat % 2 ^ 21) n = false →
      s.scrPoisoned s.ctx.core (ea.toNat % 2 ^ 21) n = none →
      (op.toNat ≤ 8 ∨ op.toNat = 10 → ∃ t, exec (.amo p d a b op dword far) s = .next t ∧ t.sig = .ran
        ∧ t.ctx.infl = (s.sent p 8 d ((BitVec.ofNat (8 * n) old).signExtend 64)).ctx.infl ∧ t.ctx.fpflags = s.ctx.fpflags
        ∧ memGetN t.scr key n = bytesOfNat n (amoWritten op.toNat n old y)
        ∧ (∀ k, ¬ (key ≤ k ∧ k < key + n) → memGet t.scr k = memGet s.scr k) ∧ t.mem = s.mem)
      ∧ (op.toNat = 9 → ∃ t, exec (.amo p d a b op dword far) s = .next t ∧ t.sig = .ran
        ∧ t.ctx.infl = (s.sent p 8 d ((BitVec.ofNat (8 * n) old).signExtend 64)).ctx.infl
        ∧ (∀ k, ¬ (key ≤ k ∧ k < key + n) → memGet t.scr k = memGet s.scr k) ∧ t.mem = s.mem
        ∧ memGetN t.scr key n = bytesOfNat n
            (if old = (s.ctx.scalar d.toNat).toNat % 2 ^ (8 * n) then y else old)))
    ∧ (ea.toNat % n ≠ 0 → exec (.amo p d a b op dword far) s = .next (s.traps p ⟨cAlign, ea, w64 (sizeCode n)⟩))

/-- AMO on memory of this package, at the L2 home or (`.far`) at the sump home (R193, R196, R197): the old value, sign-extended, lands
twelve bundles later, memory holds the operation's result, every other byte is as it was. -/
def AtomicsOnMemory : Prop :=
  ∀ (p : Pos) (d a b : BitVec 5) (op : BitVec 4) (dword far : Bool) (s : State) (pa : Nat), (p.bypA = true ∨ PlainReg a) →
    (p.bypB = true ∨ PlainReg b) → PlainReg d →
    let n := if dword then 8 else 4
    let ea := s.source p.bypA a
    let y := (s.source p.bypB b).toNat % 2 ^ (8 * n)
    let old := natOfBytes (memGetN s.mem pa n)
    let lands := fun (t : State) => t.sig = .ran
      ∧ t.ctx.infl = (s.sent p 12 d ((BitVec.ofNat (8 * n) old).signExtend 64)).ctx.infl ∧ t.ctx.fpflags = s.ctx.fpflags
      ∧ (∀ k, ¬ (pa ≤ k ∧ k < pa + n) → memGet t.mem k = memGet s.mem k) ∧ t.scr = s.scr ∧ t.loc = s.loc ∧ t.imem = s.imem
    ea.toNat % n = 0 → s.MemWf → CachedHere s ea.toNat pa → s.core.l1 = [] → s.poisoned pa n = none → s.notifySector pa = none →
      (op.toNat ≤ 8 ∨ op.toNat = 10 → ∃ t, exec (.amo p d a b op dword far) s = .next t ∧ lands t
        ∧ memGetN t.mem pa n = bytesOfNat n (amoWritten op.toNat n old y))
      ∧ (op.toNat = 9 → ∃ t, exec (.amo p d a b op dword far) s = .next t ∧ lands t
        ∧ memGetN t.mem pa n = bytesOfNat n (if old = (s.ctx.scalar d.toNat).toNat % 2 ^ (8 * n) then y else old))

/-- AMO on the own scratchpad and on memory of this package (R193, R196 to R198). -/
def Obligations.AtomicsReadAndWriteInOneStep : Prop := AtomicsOnTheScratchpad ∧ AtomicsOnMemory

/-- The canonical form of memory is kept by every instruction that reads or writes memory through the core, whether it runs, traps or
waits: loads, stores, gathers, scatters, atomics, quantised records and the scalar ALU beside them. -/
def Obligations.CoreAccessesKeepMemoryCanonical : Prop :=
  ∀ (p : Pos) (d a b : BitVec 5) (pol : BitVec 3) (off : BitVec 13) (pred op : BitVec 4) (size : BitVec 2) (dword far : Bool)
    (i : Instr) (s t : State),
    i ∈ (scalarLoads p d a pol off).map (fun e => e.1) ++ (scalarStores p d a pol off).map (fun e => e.1)
      ++ aluTwo.map (fun e => e.1 p d a b)
      ++ [.ldv p d a pol off, .stv p d a pol off, .ldq p d a b pol, .stq p d a b pol, .vgth p d a b pol pred size,
          .vsct p d a b pol pred size, .amo p d a b op dword far] →
    s.MemWf → exec i s = .next t → t.MemWf

/-- Every step keeps every memory in its canonical form (log 2, DESIGN CHOICE): whatever the step is (an instruction, a trap, an event from outside,
an engine's or the platform's work), a state whose memories list rising addresses and no zero byte is followed by such a state. -/
def Obligations.EveryStepKeepsMemoryCanonical : Prop :=
  ∀ s t : State, s.MemWf → step s = .next t → t.MemWf

/-! ## Copies between register classes, seeds, tags, counters -/

/-- XFER.sv, XFER.vs, VEXT, VTGR, SEEDW, SEEDR and PCNT (R107, R256, R262, R275): one lane of a vector register takes a scalar and
loses the tag; a lane or an element comes out, sign-extended for a signed format and 0 beyond the last; a tag, a seed, a counter is
read; a seed is written for later bundles. -/
def Obligations.CrossClassCopiesMoveValues : Prop :=
  ∀ (p : Pos) (d a b lane fmt k : BitVec 5) (n : BitVec 8) (s : State), (p.bypA = true ∨ PlainReg a) →
    (p.bypB = true ∨ PlainReg b) → PlainReg d →
    let x := s.source p.bypA a
    let i := (s.source p.bypB b).toNat
    let w := fmtWidth fmt
    exec (.xferSv p d a lane) s = .next ((s.push p 2 (.vector (s.ctx.vphys d.toNat))
        (.vec (VVal.mk' (Vector.replicate 32 x) 0) (BitVec.ofNat 256 (255 * 2 ^ (8 * lane.toNat)))) 0 (!p.wbs) false).push
          p 2 .none (.word x)).ran
    ∧ exec (.xferVs p d a lane) s = .next (s.sent p 3 d ((s.ctx.vec a.toNat).data.getD lane.toNat 0)).ran
    ∧ exec (.vext p d a b fmt) s = .next (s.sent p 3 d
        (if 2048 / w ≤ i then 0
         else if isSigned fmt then (BitVec.ofNat w ((s.ctx.vec a.toNat).lane w i)).signExtend 64
         else BitVec.ofNat 64 ((s.ctx.vec a.toNat).lane w i))).ran
    ∧ exec (.vtgr p d a) s = .next (s.sent p 3 d ((s.ctx.vec a.toNat).tag.setWidth 64)).ran
    ∧ exec (.seedw p k a) s = .next (s.push p 1 (.seed k.toNat) (.word x) 0 true false).ran
    ∧ exec (.seedr p d k) s = .next (s.sent p 1 d (s.ctx.sg.getD k.toNat 0)).ran
    ∧ exec (.pcnt p d n) s = .next (s.sent p 1 d (s.ctx.perf.getD n.toNat 0)).ran
    ∧ ∀ (c : Ctx) (r : Res), r.dest = .seed k.toNat → r.val = .word x → k.toNat < 16 →
        (c.landed r).sg.getD k.toNat 0 = x ∧ ∀ j, j ≠ k.toNat → (c.landed r).sg.getD j 0 = c.sg.getD j 0

/-- VTGR as R275 has it: the word of its example, its latency 3, and what else of its encoding is illegal. -/
def Obligations.VtgrReadsTheTag : Prop :=
  decodeSlot 1 false 0 0xB4C40000 = .ok (.vtgr (Pos.plain 1) 6 4)
  ∧ (∀ w : SlotWord, fMajor w = 0x2D → (w.extractLsb' 11 5 ≠ 0 ∨ w.extractLsb' 0 11 ≠ 0) →
      ∃ e, decodeSlot 1 false 0 w = .error e)
  ∧ (∀ (w : SlotWord) (lend : Byte), fMajor w = 0x2D → lend.getLsbD 6 = true → ∃ e, decodeSlot 1 true lend w = .error e)
  ∧ ∀ (p : Pos) (d a : BitVec 5) (s : State), PlainReg d →
      exec (.vtgr p d a) s = .next (s.sent p 3 d ((s.ctx.vec a.toNat).tag.setWidth 64)).ran

/-! ## The copy engine's instructions -/

/-- EWR and ERD (R207, R213, R216): a write of a command register goes to the context's shadow of the channel, one of the calendar map to the
next rotation's map; reads give the shadow, the fault address, the map as the last write left it. -/
def EngineRegistersAreWrittenAndRead : Prop :=
  ∀ (p : Pos) (d a : BitVec 5) (r : BitVec 16) (s : State), (p.bypA = true ∨ PlainReg a) → PlainReg d →
    let x := s.source p.bypA a
    let ch := r.toNat / 4096
    let n := r.toNat % 4096
    (ch ≤ 3 → n ≤ 0x00D → ∃ t, exec (.ewr p a r) s = .next t ∧ t.sig = .ran
      ∧ t.ctx.shadow.getD ch CmdRegs.zero = (s.ctx.shadow.getD ch CmdRegs.zero).set n x
      ∧ (∀ j, j ≠ ch → t.ctx.shadow.getD j CmdRegs.zero = s.ctx.shadow.getD j CmdRegs.zero) ∧ t.core = s.core ∧ t.mem = s.mem)
    ∧ (ch = 4 → n < 6 → ∃ t, exec (.ewr p a r) s = .next t ∧ t.sig = .ran ∧ t.core.calMap = s.core.calMap
      ∧ (∃ m, t.core.calNext = some m ∧ m.getD n 0 = x &&& calKeep))
    ∧ (ch ≤ 3 → n = 0x021 → exec (.ewr p a r) s = .next (s.chanResume ch).ran)
    ∧ (ch ≤ 3 → n ≤ 0x00D → exec (.erd p d r) s = .next (s.sent p 2 d ((s.ctx.shadow.getD ch CmdRegs.zero).get n)).ran)
    ∧ (ch ≤ 3 → n = 0x022 → exec (.erd p d r) s = .next (s.sent p 2 d (s.core.chan ch).faddr).ran)
    ∧ (ch = 4 → n < 6 → exec (.erd p d r) s = .next (s.sent p 2 d ((s.core.calNext.getD s.core.calMap).getD n 0)).ran)

/-- EGO and EGO.P (R213, R215): a valid command is accepted into its channel and its transfer ID, the channel's next, lands as the
result; a full channel waits; an invalid command takes the format fault with its lowest bad register; a tagged command that is not empty
and names no valid group takes the protection trap of bit 4, with the handle in taddr (R211). -/
def EgoAcceptsTheCommand : Prop :=
  ∀ (p : Pos) (d a : BitVec 5) (ch : BitVec 2) (s : State), (p.bypA = true ∨ PlainReg a) → PlainReg d →
    let r := s.ctx.shadow.getD ch.toNat CmdRegs.zero
    let untagged := fun (r : CmdRegs) (s : State) => bitAt r.cmd 25 = false ∨ r.empty = true ∨ (s.groupOf r.step).isSome = true
    ((s.core.chan ch.toNat).queue.length < 4 → s.settled false = true →
      (s.core.badCommand ch.toNat r = none → untagged r s →
        exec (.ego p d ch) s = .next ((s.acceptCmd ch.toNat r).2.sent p 1 d
          ((s.core.chan ch.toNat).nextId.setWidth 64)).ran)
      ∧ (s.core.badCommand ch.toNat r = none → ¬ untagged r s →
        exec (.ego p d ch) s = .next (s.traps p ⟨cProtect, r.step, 0x10⟩))
      ∧ (∀ ws s1, paramBlock (s.source p.bypA a).toNat s = .ok (ws, s1) → blockBad ws = none →
          s1.core.badCommand ch.toNat (blockRegs ws) = none → ¬ untagged (blockRegs ws) s1 →
          exec (.egoP p d a ch) s = .next (s.traps p ⟨cProtect, (blockRegs ws).step, 0x10⟩))
      ∧ (∀ n, s.core.badCommand ch.toNat r = some n → exec (.ego p d ch) s = .next (s.traps p ⟨cFormat, 0, w64 n⟩))
      ∧ (∀ ws s1, paramBlock (s.source p.bypA a).toNat s = .ok (ws, s1) → blockBad ws = none →
          s1.core.badCommand ch.toNat (blockRegs ws) = none → untagged (blockRegs ws) s1 →
          ∃ t, exec (.egoP p d a ch) s = .next t ∧ t.sig = .ran
            ∧ t.ctx.infl = (((s1.acceptCmd ch.toNat (blockRegs ws)).2).sent p 1 d
                ((s1.core.chan ch.toNat).nextId.setWidth 64)).ctx.infl))
    ∧ (4 ≤ (s.core.chan ch.toNat).queue.length → exec (.ego p d ch) s = .next (s.waits .channel)
      ∧ exec (.egoP p d a ch) s = .next (s.waits .channel))

/-- EWR, ERD, EGO and EGO.P (R207, R211, R213, R215, R216). -/
def Obligations.EngineRegistersAndCommandsAreAccepted : Prop := EngineRegistersAreWrittenAndRead ∧ EgoAcceptsTheCommand

/-- A request of a channel's active command to another package. -/
def ChannelRequest (s : State) (ch : Nat) (q : Command) (o : Outstanding) : Prop :=
  let w := q.who s.core.id ch
  o ∈ s.fab.out ∧ o.core = w.coreKey ∧ o.slot = w.key ∧ o.pkt.stream = w.stream

/-- ECAN, TWAIT, TWAITN, QFENCE and PBINV (R124, R213): a cancel takes the context's own commands from the channel; it waits for an
element of the active one that is under way, one whose writes a PHASE window holds or whose request to another package has no answer
yet, which is then the last it acts on; a wait ends when the transfer has completed, or when fewer own commands than asked are queued;
QFENCE joins the channels it names (R124); PBINV drops the launch's cached block. -/
def ChannelWaitsAndFencesComplete : Prop :=
  ∀ (p : Pos) (a : BitVec 5) (ch : BitVec 2) (mask : BitVec 4) (s : State), (p.bypA = true ∨ PlainReg a) →
    let x := s.source p.bypA a
    let c := s.core.chan ch.toNat
    (s.chanHeld ch.toNat = false → (∀ q ∈ c.queue, ∀ o, ¬ ChannelRequest s ch.toNat q o) → exec (.ecan p ch) s = .next (s.chanCancel ch.toNat).ran)
    ∧ (∀ q rest, c.queue = q :: rest → q.by s.ctx = true → c.active = true → s.chanHeld ch.toNat = true →
        exec (.ecan p ch) s = .next ((s.setChan ch.toNat { c with halting := true }).waits .channel))
    ∧ (∀ q rest o, c.queue = q :: rest → q.by s.ctx = true → c.active = true → c.flt = false → q.regs.cal = false →
        ChannelRequest s ch.toNat q o → o.answer = none →
        exec (.ecan p ch) s = .next ((s.setChan ch.toNat { c with halting := true }).waits .channel))
    ∧ (((c.doneId - 1 - x.setWidth 32).toNat < 2 ^ 31) → exec (.twait p a ch) s = .next s.ran)
    ∧ (2 ^ 31 ≤ (c.doneId - 1 - x.setWidth 32).toNat → (c.flt = false ∨ c.offered = true) →
        exec (.twait p a ch) s = .next (s.waits .twait))
    ∧ (c.own s.ctx < (if x = 0 then 1 else x.toNat) → exec (.twaitn p a ch) s = .next s.ran)
    ∧ ((if x = 0 then 1 else x.toNat) ≤ c.own s.ctx → (c.flt = false ∨ c.offered = true) →
        exec (.twaitn p a ch) s = .next (s.waits .twait))
    ∧ (∃ t, exec (.qfence p mask) s = .next t ∧ t.sig = .ran ∧ t.ctx = s.ctx ∧ t.mem = s.mem
        ∧ (∀ i j : Nat, i < 4 → j < 4 → mask.getLsbD i = true → mask.getLsbD j = true →
            ∀ q, (s.core.chan j).queue.getLast? = some q → (j, q.id) ∈ (t.core.chan i).joins)
        ∧ (∀ i : Nat, i < 4 → mask.getLsbD i = false → t.core.chan i = s.core.chan i))
    ∧ (∃ t, exec (.pbinv p a) s = .next t ∧ t.sig = .ran ∧ t.ctx = s.ctx ∧ t.mem = s.mem
        ∧ ∀ e, e ∈ t.core.pblk ↔ e ∈ s.core.pblk ∧ ¬ (e.1 = s.ctx.launch ∧ e.2.1 = x.toNat))

/-- BCAST and BLATCH (R220, R222): 256 bytes of the own scratchpad go to the group's other cores of the chamber; a latch without an
arrival writes nothing, one with a single arrival writes its bytes, which reach the scratchpad two cycles later; an address that is no
multiple of 256 traps. -/
def BusSendsAndLatchesMoveBlocks : Prop :=
  ∀ (p : Pos) (a b : BitVec 5) (s : State) (g : Group), (p.bypA = true ∨ PlainReg a) → (p.bypB = true ∨ PlainReg b) →
    let x := s.source p.bypA a
    let off := x.toNat % 2 ^ 21
    let key := scrKey s.ctx.core off
    (x.toNat % 256 = 0 → NearScratch s x.toNat 256 →
      (s.settled false = true → s.groupOf (s.source p.bypB b) = some g → s.scrPoisoned s.ctx.core off 256 = none →
        exec (.bcast p a b) s = .next ((s.busTargets g).foldl (fun s n => s.busSend n (memGetN s.scr key 256)) s).ran)
      ∧ (s.core.bus.filter (fun e => e.here s.now s.ctx) = [] → exec (.blatch p a) s = .next s.ran)
      ∧ (∀ e, s.core.bus.filter (fun e => e.here s.now s.ctx) = [e] →
        ∃ t, exec (.blatch p a) s = .next t ∧ t.sig = .ran ∧ t.core.later = (Stored s off e.bytes).core.later
          ∧ t.scr = s.scr ∧ t.mem = s.mem))
    ∧ (x.toNat % 256 ≠ 0 → exec (.blatch p a) s = .next (s.traps p ⟨cAlign, x, 7⟩)
      ∧ (s.settled false = true → exec (.bcast p a b) s = .next (s.traps p ⟨cAlign, x, 7⟩)))

/-- ECAN, TWAIT, TWAITN, QFENCE, PBINV, BCAST and BLATCH (R124, R213, R220, R222). -/
def Obligations.ChannelWaitsFencesAndBusComplete : Prop := ChannelWaitsAndFencesComplete ∧ BusSendsAndLatchesMoveBlocks

/-! ## Flowstone and Rimstone instructions -/

/-- RSGO, CKPT, RSSTAT and RSSTOP (R333, R336, R341, R344, R346): where the engine has taken the records and committed the run's state
the instruction goes on (RSSTAT with the status word, RSSTOP once STOPPED is committed, at once where no run stands on the record); a
misaligned record traps. -/
def Obligations.FlowstoneInstructionsReachTheEngine : Prop :=
  ∀ (p : Pos) (d a b : BitVec 5) (s s1 : State), (p.bypA = true ∨ PlainReg a) → (p.bypB = true ∨ PlainReg b) → PlainReg d →
    let w := s.ctx.who 64
    let x := s.source p.bypA a
    let y := s.source p.bypB b
    let pr := s.ctx.scalar d.toNat
    (s.settled false = true →
      (∀ r, reshardE w pr.toNat x.toNat y.toNat none s = .ok (r, s1) →
        exec (.rsgo p d a b) s = .next (s1.engForget (s1.ctx.who 64)).ran)
      ∧ ((∀ r ∈ s.flows, r.waited = some (w.coreKey, w.key) → r.recVa ≠ pr.toNat) → x.toNat % 128 ≠ 0 → exec (.rsgo p d a b) s = .next (s.traps p ⟨cAlign, x, 8⟩))
      ∧ (∀ r, ckptE w x.toNat y.toNat none s = .ok (r, s1) →
        exec (.ckpt p a b) s = .next (s1.engForget (s1.ctx.who 64)).ran)
      ∧ ((∀ r ∈ s.flows, r.waited = some (w.coreKey, w.key) → r.recVa ≠ y.toNat) → x.toNat % 64 ≠ 0 → exec (.ckpt p a b) s = .next (s.traps p ⟨cAlign, x, 4⟩)))
    ∧ (∀ r, runOn w x.toNat s = .ok (some r, s1) →
      exec (.rsstat p d a) s = .next ((s1.engForget (s1.ctx.who 64)).sent p 1 d r.word1).ran)
    ∧ (runOn w x.toNat s = .ok (none, s1) → exec (.rsstop p a) s = .next (s1.engForget (s1.ctx.who 64)).ran)
    ∧ (∀ r s2, runOn w x.toNat s = .ok (some r, s1) → stopRun r s1 = .ok ((), s2) →
        exec (.rsstop p a) s = .next (s2.engForget (s2.ctx.who 64)).ran)
    ∧ (x.toNat % 64 ≠ 0 → exec (.rsstop p a) s = .next (s.traps p ⟨cAlign, x, 4⟩))

/-- A horizon of the launch under a horizon number (R350). -/
def OpenHorizon (s : State) (h : BitVec 3) (z : Horizon) : Prop := s.horizon h.toNat = some z ∧ z.launch = s.ctx.launch

/-- SLOPEN, SLSTAT, SLJUMP, SLPFX, SLINFO and SLREFRESH (R351, R356, R358, R364, R369): the engine's answer to an open is the result;
a number that is open answers 1; the reads give the slice's status, its jump, the settled-prefix pointer and the item asked for; a number
without a horizon of the launch takes the protection trap of bit 8. -/
def HorizonReadsAnswer : Prop :=
  ∀ (p : Pos) (h : BitVec 3) (d a b : BitVec 5) (s : State), (p.bypA = true ∨ PlainReg a) → (p.bypB = true ∨ PlainReg b) →
    PlainReg d →
    let x := s.source p.bypA a
    let sel := (s.source p.bypB b).toNat
    (x.toNat % 128 = 0 → ∀ z, s.horizon h.toNat = some z →
      (z.launch = s.ctx.launch → exec (.slopen p h d a) s = .next ((s.engForget (s.ctx.who 64)).sent p 1 d 1).ran)
      ∧ (z.launch ≠ s.ctx.launch → exec (.slopen p h d a) s = .next (s.traps p ⟨cProtect, 0, 0x100⟩)))
    ∧ (∀ v s1, openE (s.ctx.who 64) h.toNat x.toNat s.ctx.core s = .ok (v, s1) →
      exec (.slopen p h d a) s = .next ((s1.engForget (s1.ctx.who 64)).sent p 1 d (w64 v)).ran)
    ∧ (∀ z, OpenHorizon s h z →
      exec (.slstat p h d a) s = .next (s.sent p 1 d (z.status x.toNat)).ran
      ∧ exec (.sljump p h d a) s = .next (s.sent p 1 d (z.jumpWord x.toNat)).ran
      ∧ exec (.slpfx p h d) s = .next (s.sent p 1 d (w64 z.prefixPtr)).ran
      ∧ (sel ≤ 10 → exec (.slinfo p h d a b) s = .next (s.sent p 1 d (z.info x.toNat sel)).ran)
      ∧ (11 < sel → exec (.slinfo p h d a b) s = .next (s.traps p ⟨cFormat, 0, 0⟩))
      ∧ (∀ dw s1, x.toNat = z.hcbAt → refreshE (s.ctx.who 64) z x.toNat s = .ok (dw, s1) →
          exec (.slrefresh p h a) s = .next ((((s1.engForget (s1.ctx.who 64)).modHorizon h.toNat
            (fun z => { z with hcb := dw })).capAll h.toNat).settle h.toNat).ran)
      ∧ (x.toNat ≠ z.hcbAt → exec (.slrefresh p h a) s = .next (s.traps p ⟨cFormat, x, 0⟩)))
    ∧ ((∀ z, ¬ OpenHorizon s h z) →
      exec (.slstat p h d a) s = .next (s.traps p ⟨cProtect, 0, 0x100⟩)
      ∧ exec (.sljump p h d a) s = .next (s.traps p ⟨cProtect, 0, 0x100⟩)
      ∧ exec (.slpfx p h d) s = .next (s.traps p ⟨cProtect, 0, 0x100⟩)
      ∧ (s.ctx.slFreed h.toNat = false → exec (.slwait p h a) s = .next (s.traps p ⟨cProtect, 0, 0x100⟩)))

/-- SLBIND, SLDONE, SLGDONE, SLWAIT, SLRETIRE, SLRECYCLE and SLCLOSE (R361 to R370): a bind of a slice that is not eligible
answers all ones and binds nothing, one of an eligible slice binds the caller; a report by a caller without a binding traps; a
wait ends once the settled prefix is past its slice, and with no edge once its horizon has closed while it waited; an accepted report
waits until its sweep is over; retire moves the window, recycle takes a vacant slice, each or answers all ones; close ends the
horizon and the bindings to it. When a sweep is tried is the model's reading (log 83, DEDUCED); that SLRECYCLE's answer does not wait
for a sweep that has to wait is the model's choice (log 133, DESIGN CHOICE). -/
def HorizonOperationsAct : Prop :=
  ∀ (p : Pos) (h : BitVec 3) (d a b : BitVec 5) (s : State) (z : Horizon), (p.bypA = true ∨ PlainReg a) →
    (p.bypB = true ∨ PlainReg b) → PlainReg d → OpenHorizon s h z →
    let x := s.source p.bypA a
    let r := s.source p.bypB b
    (x = BitVec.allOnes 64 → bits r 63 1 = 0 → s.ctx.bind = none → z.pick true (bitAt r 0) x.toNat = none →
      exec (.slbind p h d a b) s = .next (s.sent p 1 d (BitVec.allOnes 64)).ran)
    ∧ (∀ sc, x = BitVec.allOnes 64 → bits r 63 1 = 0 → s.ctx.bind = none → z.pick true (bitAt r 0) x.toNat = some sc →
      s.closed = false → ∃ t, exec (.slbind p h d a b) s = .next t ∧ t.sig = .ran
        ∧ t.ctx.bind = some ⟨h.toNat, sc.slice, bitAt r 0, sc.gen⟩)
    ∧ (s.ctx.bind.isSome = true → bits r 63 1 = 0 → x = BitVec.allOnes 64 →
      exec (.slbind p h d a b) s = .next (s.traps p ⟨cProtect, 0, 0x100⟩))
    ∧ (s.settled false = true → s.ctx.slTold = false → s.ctx.bind = none → exec (.sldone p h) s = .next (s.traps p ⟨cProtect, 0, 0x100⟩)
      ∧ exec (.slgdone p h) s = .next (s.traps p ⟨cProtect, 0, 0x100⟩))
    ∧ (∀ e t, s.ctx.bind = some e → e.h = h.toNat → s.ctx.slTold = false → s.settled false = true → s.closed = false →
      let own := fun (n : Nat) => s.cleanCore s.ctx.core
        (fun l => l.launch == s.ctx.launch && l.overlaps (z.buf e.slice n) (z.buf e.slice n + z.len * z.w))
      let freed := fun (u : State) (f : SliceCtx → SliceCtx) =>
        (({ u with ctx := { u.ctx with bind := none } } : State).modSlice h.toNat e.slice f).eligibility h.toNat
      (e.coarse = false → sweepAttempt h.toNat e.slice
          (freed (own 1) (fun c => { c with fine := none, genF := some e.gen })) = .ok ((), t) →
        exec (.sldone p h) s = .next t.ran)
      ∧ (e.coarse = true → sweepAttempt h.toNat e.slice
          (freed (own 3) (fun c => { c with coarse := none, genNew := some e.gen })) = .ok ((), t) →
        exec (.slgdone p h) s = .next t.ran))
    ∧ (s.ctx.slTold = true →
      (s.slOver h.toNat = false → exec (.sldone p h) s = .next (s.waits .sweep)
        ∧ exec (.slgdone p h) s = .next (s.waits .sweep))
      ∧ (s.slOver h.toNat = true →
        exec (.sldone p h) s = .next ({ s with ctx := { s.ctx with slTold := false } } : State).ran
        ∧ exec (.slgdone p h) s = .next ({ s with ctx := { s.ctx with slTold := false } } : State).ran))
    ∧ (s.ctx.slFreed h.toNat = true →
      exec (.slwait p h a) s = .next ({ s with ctx := { s.ctx with slwaitAt := none } } : State).ran)
    ∧ (s.ctx.slFreed h.toNat = false → Nat.min x.toNat (z.count - 1) < z.prefixPtr → s.closed = false →
      let u := s.flushCore s.ctx.core (fun l => l.launch == s.ctx.launch
          && l.overlaps (z.dw 3).toNat ((z.dw 3).toNat + 4 * z.win * (z.dw 4).toNat))
      exec (.slwait p h a) s = .next ({ u with ctx := { u.ctx with slwaitAt := none } } : State).ran)
    ∧ (s.ctx.slFreed h.toNat = false → z.prefixPtr ≤ Nat.min x.toNat (z.count - 1) → exec (.slwait p h a) s = .next
        (({ s with ctx := { s.ctx with slwaitAt := some (s.ctx.q0.addr, h.toNat, false) } } : State).waits .slwait))
    ∧ (z.retirable s.fab.dev = true → exec (.slretire p h d) s = .next
        ((s.modHorizon h.toNat (fun z => { z with winLo := z.winLo + 1 })).sent p 1 d (w64 z.winLo)).ran)
    ∧ (z.retirable s.fab.dev = false → exec (.slretire p h d) s = .next (s.sent p 1 d (BitVec.allOnes 64)).ran)
    ∧ (z.vacant = none → exec (.slrecycle p h d) s = .next (s.sent p 1 d (BitVec.allOnes 64)).ran)
    ∧ (∀ k, z.vacant = some k → exec (.slrecycle p h d) s = .next
        (((s.modHorizon h.toNat (fun z => z.recycle k)).sweepLaunch h.toNat (k - 1)).sent p 1 d (w64 k)).ran)
    ∧ (s.sweeping z = true → exec (.slclose p h) s = .next (s.waits .channel))
    ∧ (s.sweeping z = false → ∃ t, exec (.slclose p h) s = .next t ∧ t.sig = .ran ∧ (∀ y ∈ t.rim, y.h ≠ z.h)
      ∧ (∀ c ∈ t.allCtxs, ∀ e, c.bind = some e → e.h ≠ z.h))

/-- The thirteen instructions of Rimstone (R351 to R370). -/
def Obligations.HorizonInstructionsAnswerAndAct : Prop := HorizonReadsAnswer ∧ HorizonOperationsAct


/-! ## The vector unit -/

/-- A source tag that an operation of format f reads as plain elements (R76): raw, or well formed, of that format, with neither a
group nor a rotation. -/
def Fits (f : BitVec 5) (t : BitVec 24) : Prop :=
  t = 0 ∨ (tagOk t = true ∧ tagFmt t = f.toNat ∧ tagGrp t = 0 ∧ tagRot t = 0)

/-- The elements and flags of an elementwise operation of width w: `g i` for element i where the predicate enables it (R236). -/
def laneResults (s : State) (pred : BitVec 4) (w : Nat) (g : Nat → Nat × BitVec 5) : List (Nat × BitVec 5) :=
  (List.range (2048 / w)).map (fun i => if enabled (s.ctx.pred pred.toNat) w i then g i else (0, 0))

/-- Elements on their way to a vector register: enabled elements only, the format as the new tag, the flags of all lanes ORed
(R70, R75, R236). -/
def lanesSent (s : State) (p : Pos) (lat : Nat) (vd : BitVec 5) (f : BitVec 5) (pred : BitVec 4) (r : List (Nat × BitVec 5)) : State :=
  s.sentV p lat vd (VVal.mk' (dataOfLanes (fmtWidth f) (r.map Prod.fst)) (fmtTag f))
    (elemMask (s.ctx.pred pred.toNat) (fmtWidth f)) (orFlags (r.map Prod.snd))

/-- An integer result: wrapped under rm 00, saturated under rm 01 (R64, R238). -/
def wrapOrClamp (f : BitVec 5) (rm : BitVec 2) (v : Int) : Nat :=
  ((if rm = 1 then max (intMin f) (min (intMax f) v) else v) % ((2 ^ fmtWidth f : Nat) : Int)).toNat

/-- A floating-point result: the exact value rounded once, with the flags on the way to it (R66, R238). -/
def roundedTo (f : BitVec 5) (rm : BitVec 2) (flush : Bool) (v : FVal × BitVec 5) : Nat × BitVec 5 :=
  (((ffmt f).deliver rm flush v.1).1, ((ffmt f).deliver rm flush v.1).2 ||| v.2)

/-- A two-source elementwise operation: its instruction, its latency, and its element (R237 to R240, R248). -/
def vecTwo : List ((Pos → BitVec 5 → BitVec 5 → BitVec 5 → BitVec 4 → BitVec 2 → BitVec 5 → Instr) × Nat ×
    (BitVec 5 → BitVec 2 → Bool → Nat → Nat → Nat × BitVec 5)) :=
  [(.vadd, 2, fun f rm z x y => if isFloat f then roundedTo f rm z (((ffmt f).decode z x).add rm ((ffmt f).decode z y))
      else (wrapOrClamp f rm (intVal f x + intVal f y), 0)),
   (.vsub, 2, fun f rm z x y => if isFloat f then roundedTo f rm z (((ffmt f).decode z x).add rm ((ffmt f).decode z y).neg)
      else (wrapOrClamp f rm (intVal f x - intVal f y), 0)),
   (.vmul, 4, fun f rm z x y => if isFloat f then roundedTo f rm z (((ffmt f).decode z x).mul ((ffmt f).decode z y))
      else (wrapOrClamp f rm (intVal f x * intVal f y), 0)),
   (fun p d a b k _ f => .vmin p d a b k f, 2, fun f _ z x y => if isFloat f then minmaxLane f false z x y
      else (if intVal f y < intVal f x then y else x, 0)),
   (fun p d a b k _ f => .vmax p d a b k f, 2, fun f _ z x y => if isFloat f then minmaxLane f true z x y
      else (if intVal f x ≤ intVal f y then y else x, 0)),
   (.vdiv, 12, fun f rm z x y => (ffmt f).div rm z ((ffmt f).decode z x) ((ffmt f).decode z y))]

/-- Two-source elementwise operations complete with the element R238, R240 and R248 give, in every format and rounding mode. -/
def VectorTwoSourceResults : Prop :=
  ∀ e ∈ vecTwo, ∀ (p : Pos) (vd va vb : BitVec 5) (pred : BitVec 4) (rm : BitVec 2) (f : BitVec 5) (s : State),
    Fits f (s.vsource p.bypA va).tag → Fits f (s.vsource p.bypB vb).tag → s.ctx.fptrap = 0 →
    exec (e.1 p vd va vb pred rm f) s = .next (lanesSent s p e.2.1 vd f pred
      (laneResults s pred (fmtWidth f) (fun i => e.2.2 f rm s.ctx.exposed ((s.vsource p.bypA va).lane (fmtWidth f) i)
        ((s.vsource p.bypB vb).lane (fmtWidth f) i)))).ran

/-- A one-source elementwise operation (R240, R248). -/
def vecOne : List ((Pos → BitVec 5 → BitVec 5 → BitVec 4 → BitVec 2 → BitVec 5 → Instr) × Nat ×
    (BitVec 5 → BitVec 2 → Bool → Nat → Nat × BitVec 5)) :=
  [(.vabs, 2, fun f rm z x => if isFloat f then absnegLane f rm true z x else (wrapOrClamp f rm ((intVal f x).natAbs : Int), 0)),
   (.vneg, 2, fun f rm z x => if isFloat f then absnegLane f rm false z x else (wrapOrClamp f (if isSigned f then rm else 0) (-(intVal f x)), 0)),
   (.vsqrt, 12, fun f rm z x => (ffmt f).sqrt rm z ((ffmt f).decode z x)),
   (.vrcp, 12, fun f rm z x => (ffmt f).div rm z (.num false 1 0) ((ffmt f).decode z x)),
   (.vrsq, 12, fun f rm z x => (ffmt f).rsqrt rm z ((ffmt f).decode z x)),
   (.vexp2, 12, fun f rm z x => (ffmt f).exp2 rm z ((ffmt f).decode z x)),
   (.vlog2, 12, fun f rm z x => (ffmt f).log2 rm z ((ffmt f).decode z x)),
   (.vtanh, 12, fun f rm z x => (ffmt f).tanh rm z ((ffmt f).decode z x)),
   (.vsinpi, 12, fun f rm z x => (ffmt f).sinpi rm z ((ffmt f).decode z x)),
   (.vcospi, 12, fun f rm z x => (ffmt f).cospi rm z ((ffmt f).decode z x))]

/-- The fused operations (R239): the instruction, what it does to the product's sign and to the addend's. -/
def vecFused : List ((Pos → BitVec 5 → BitVec 5 → BitVec 5 → BitVec 4 → BitVec 2 → BitVec 5 → Instr) × (FVal → FVal) × (FVal → FVal)) :=
  [(.vfma, id, id), (.vfms, id, FVal.neg), (.vfnma, FVal.neg, id)]

/-- The elements of a fused operation: the product and the old destination, rounded once (R239). -/
def fusedResults (s : State) (p : Pos) (sign : (FVal → FVal) × (FVal → FVal)) (vd va vb : BitVec 5) (pred : BitVec 4) (rm : BitVec 2)
    (f : BitVec 5) : List (Nat × BitVec 5) :=
  laneResults s pred (fmtWidth f) (fun i =>
    let value := fun (v : VVal) => (ffmt f).decode s.ctx.exposed (v.lane (fmtWidth f) i)
    roundedTo f rm s.ctx.exposed ((sign.1 (value (s.vsource p.bypA va))).fma rm (value (s.vsource p.bypB vb))
      (sign.2 (value (s.ctx.vec vd.toNat)))))

/-- One-source elementwise operations complete (R240, R248), and the fused ones, which read the old destination and round once
(R239). -/
def VectorOneSourceAndFusedResults : Prop :=
  (∀ e ∈ vecOne, ∀ (p : Pos) (vd va : BitVec 5) (pred : BitVec 4) (rm : BitVec 2) (f : BitVec 5) (s : State),
    Fits f (s.vsource p.bypA va).tag → s.ctx.fptrap = 0 →
    exec (e.1 p vd va pred rm f) s = .next (lanesSent s p e.2.1 vd f pred
      (laneResults s pred (fmtWidth f) (fun i => e.2.2 f rm s.ctx.exposed ((s.vsource p.bypA va).lane (fmtWidth f) i)))).ran)
  ∧ ∀ e ∈ vecFused, ∀ (p : Pos) (vd va vb : BitVec 5) (pred : BitVec 4) (rm : BitVec 2) (f : BitVec 5) (s : State),
    Fits f (s.vsource p.bypA va).tag → Fits f (s.vsource p.bypB vb).tag → Fits f (s.ctx.vec vd.toNat).tag → s.ctx.fptrap = 0 →
    exec (e.1 p vd va vb pred rm f) s = .next (lanesSent s p 4 vd f pred (fusedResults s p e.2 vd va vb pred rm f)).ran

/-- The truth of a compare of two elements and its flags (R241): a NaN operand makes only `ne` true; a quiet one raises NV for
lt and ge alone. -/
def compareTruth (f : BitVec 5) (cc : Nat) (z : Bool) (x y : Nat) : Bool × BitVec 5 :=
  let test := fun (u v : Int) => if cc = 0 then decide (u = v) else if cc = 1 then decide (u ≠ v) else if cc = 2 then decide (u < v)
    else decide (v ≤ u)
  if isFloat f then
    let u := (ffmt f).decode z x
    let v := (ffmt f).decode z y
    if u.isNan || v.isNan then (decide (cc = 1), if cc = 2 ∨ cc = 3 then fNV else u.nv ||| v.nv)
    else (test ((ffmt f).keyEq z x) ((ffmt f).keyEq z y), 0)
  else (test (intVal f x) (intVal f y), 0)

/-- Compares write the truth of each enabled element to every predicate bit of its bytes (R241). -/
def ComparesSetEveryBitOfTheirElements : Prop :=
  ∀ e ∈ ([(.vcmpEq, 0), (.vcmpNe, 1), (.vcmpLt, 2), (.vcmpGe, 3)] :
      List ((Pos → BitVec 4 → BitVec 5 → BitVec 5 → BitVec 4 → BitVec 5 → Instr) × Nat)),
    ∀ (p : Pos) (pd : BitVec 4) (va vb : BitVec 5) (pred : BitVec 4) (f : BitVec 5) (s : State),
    1 ≤ f.toNat → f.toNat ≤ 14 → Fits f (s.vsource p.bypA va).tag → Fits f (s.vsource p.bypB vb).tag → s.ctx.fptrap = 0 →
    ∃ v fl, exec (e.1 p pd va vb pred f) s
        = .next (s.sentP p 2 pd v (elemMask (s.ctx.pred pred.toNat) (fmtWidth f)) fl).ran
      ∧ ∀ k, k < 256 → enabled (s.ctx.pred pred.toNat) (fmtWidth f) (k / (fmtWidth f / 8)) = true →
        v.getLsbD k = (compareTruth f e.2 s.ctx.exposed ((s.vsource p.bypA va).lane (fmtWidth f) (k / (fmtWidth f / 8)))
          ((s.vsource p.bypB vb).lane (fmtWidth f) (k / (fmtWidth f / 8)))).1

/-- A source tag that an operation on bits admits (R242, R243): with fmt 0 any well-formed tag without group and rotation. -/
def FitsBits (f : BitVec 5) (t : BitVec 24) : Prop :=
  if f = 0 then tagOk t = true ∧ tagGrp t = 0 ∧ tagRot t = 0 else Fits f t

/-- Selection and bitwise logic (R242, R243): bits pass unchanged, VSEL takes va where the predicate has a one and writes every
element, the others write enabled elements. -/
def SelectionAndLogicActOnBits : Prop :=
  ∀ (p : Pos) (vd va vb : BitVec 5) (pred : BitVec 4) (f : BitVec 5) (s : State),
    FitsBits f (s.vsource p.bypA va).tag → FitsBits f (s.vsource p.bypB vb).tag →
    let x := s.vsource p.bypA va
    let y := s.vsource p.bypB vb
    let mask := elemMask (s.ctx.pred pred.toNat) (fmtWidth f)
    exec (.vsel p vd va vb pred f) s = .next (s.sentV p 2 vd (VVal.mk' (mergeData y.data x.data mask) (fmtTag f))).ran
    ∧ exec (.vand p vd va vb pred f) s
        = .next (s.sentV p 2 vd (VVal.mk' (Vector.ofFn (fun i => x.data[i] &&& y.data[i])) (fmtTag f)) mask).ran
    ∧ exec (.vor p vd va vb pred f) s
        = .next (s.sentV p 2 vd (VVal.mk' (Vector.ofFn (fun i => x.data[i] ||| y.data[i])) (fmtTag f)) mask).ran
    ∧ exec (.vxor p vd va vb pred f) s
        = .next (s.sentV p 2 vd (VVal.mk' (Vector.ofFn (fun i => x.data[i] ^^^ y.data[i])) (fmtTag f)) mask).ran
    ∧ exec (.vnot p vd va pred f) s
        = .next (s.sentV p 2 vd (VVal.mk' (Vector.ofFn (fun i => ~~~x.data[i])) (fmtTag f)) mask).ran

/-- Compares, selection and bitwise logic (R241 to R243). -/
def Obligations.VectorComparesSelectionAndLogic : Prop := ComparesSetEveryBitOfTheirElements ∧ SelectionAndLogicActOnBits

/-- R244's table: the shifts of an element by an unsigned amount k, of any size. -/
def Obligations.VectorShiftsFollowTheTable : Prop :=
  ∀ (p : Pos) (vd va vb : BitVec 5) (pred : BitVec 4) (f : BitVec 5) (s : State),
    1 ≤ f.toNat → f.toNat ≤ 8 → Fits f (s.vsource p.bypA va).tag → Fits f (s.vsource p.bypB vb).tag → s.ctx.fptrap = 0 →
    let w := fmtWidth f
    let run := fun (g : Nat → Nat → Nat) => lanesSent s p 2 vd f pred (laneResults s pred w (fun i =>
      (g ((s.vsource p.bypA va).lane w i) ((s.vsource p.bypB vb).lane w i), 0)))
    exec (.vshl p vd va vb pred f) s = .next (run (fun a k => if k < w then a * 2 ^ k % 2 ^ w else 0)).ran
    ∧ exec (.vshr p vd va vb pred f) s = .next (run (fun a k => if k < w then a / 2 ^ k else 0)).ran
    ∧ exec (.vsar p vd va vb pred f) s = .next (run (fun a k =>
        (if k < w then intVal f a / ((2 ^ k : Nat) : Int) else if intVal f a < 0 then -1 else 0) % ((2 ^ w : Nat) : Int) |>.toNat)).ran

/-- Dot product, splat and move (R245 to R247). -/
def DotSplatAndMove : Prop :=
  ∀ (p : Pos) (vd va vb : BitVec 5) (pred : BitVec 4) (rm : BitVec 2) (fmt : BitVec 5) (imm : BitVec 12) (s : State),
    (Fits 1 (s.vsource p.bypA va).tag → Fits 1 (s.vsource p.bypB vb).tag → Fits 3 (s.ctx.vec vd.toNat).tag →
      exec (.vdot p vd va vb pred rm) s = .next (s.sentV p 4 vd
        (VVal.mk' (dataOfLanes 32 ((List.range 64).map (fun i => if enabled (s.ctx.pred pred.toNat) 32 i then
          let a := fun k => sval 8 ((s.vsource p.bypA va).lane 8 (4 * i + k))
          let b := fun k => sval 8 ((s.vsource p.bypB vb).lane 8 (4 * i + k))
          wrapOrClamp 3 rm (sval 32 ((s.ctx.vec vd.toNat).lane 32 i) + a 0 * b 0 + a 1 * b 1 + a 2 * b 2 + a 3 * b 3) else 0)))
          (fmtTag 3)) (elemMask (s.ctx.pred pred.toNat) 32)).ran)
    ∧ (1 ≤ fmt.toNat → fmt.toNat ≤ 8 → exec (.vli p vd fmt pred imm) s = .next (s.sentV p 2 vd
        (VVal.mk' (dataOfLanes (fmtWidth fmt) (List.replicate (2048 / fmtWidth fmt)
          ((if fmt.toNat ≤ 4 then immS p 12 imm.toNat else immZ p 12 imm.toNat).toNat % 2 ^ fmtWidth fmt))) (fmtTag fmt))
        (elemMask (s.ctx.pred pred.toNat) (fmtWidth fmt))).ran)
    ∧ (9 ≤ fmt.toNat → fmt.toNat ≤ 14 → s.ctx.fptrap = 0 → ∃ fls, exec (.vli p vd fmt pred imm) s = .next (s.sentV p 2 vd
        (VVal.mk' (dataOfLanes (fmtWidth fmt) (List.replicate (2048 / fmtWidth fmt)
          (convert 4 fmt 0 s.ctx.exposed (immS p 12 imm.toNat).toNat).1)) (fmtTag fmt))
        (elemMask (s.ctx.pred pred.toNat) (fmtWidth fmt)) fls).ran)
    ∧ (fmt.toNat = 15 ∨ fmt.toNat = 16 → exec (.vli p vd fmt pred imm) s = .next (s.sentV p 2 vd
        ⟨dataOfLanes (fmtWidth fmt) (List.replicate (2048 / fmtWidth fmt) ((immZ p 12 imm.toNat).toNat % 2 ^ fmtWidth fmt)),
          mkTag fmt.toNat 1 0 0 0, Vector.ofFn (fun j : Fin 16 => if fmt.toNat = 16 ∨ j.val < 8 then 0x3C00 else 0)⟩
        (elemMask (s.ctx.pred pred.toNat) (fmtWidth fmt))).ran)
    ∧ exec (.vmov p vd va) s = .next (s.sentV p 2 vd (s.vsource p.bypA va)).ran

/-- Reductions, maxima with their index, and conversions (R78, R249 to R251). -/
def ReductionsMaximaAndConversions : Prop :=
  ∀ (p : Pos) (vd va src : BitVec 5) (pred : BitVec 4) (rm : BitVec 2) (f : BitVec 5) (s : State),
    s.ctx.fptrap = 0 →
    let x := s.vsource p.bypA va
    let en := s.ctx.pred pred.toNat
    let w := fmtWidth f
    let inputs := (List.range (2048 / w)).map (fun i => if enabled en w i then some (x.lane w i) else none)
    let reduced := fun (g : Nat → Nat → Nat × BitVec 5) (ident : Nat) => s.sentV p 6 vd
      (VVal.mk' (dataOfLanes w [((redTree g 8 inputs).1).getD ident]) (fmtTag f)) fullMask (redTree g 8 inputs).2
    (Fits f x.tag →
      exec (.vredSum p vd va pred rm f) s = .next (reduced (addLane f rm s.ctx.exposed) 0).ran
      ∧ exec (.vredMax p vd va pred f) s = .next (reduced (minmaxLane f true s.ctx.exposed)
          (if isFloat f then (ffmt f).infCode true else wrapOrClamp f 0 (intMin f))).ran
      ∧ exec (.vredMin p vd va pred f) s = .next (reduced (minmaxLane f false s.ctx.exposed)
          (if isFloat f then (ffmt f).infCode false else wrapOrClamp f 0 (intMax f))).ran)
    ∧ (Fits f x.tag → isFloat f = false → ∃ out, exec (.vmaxi p vd va pred f) s
          = .next (s.sentV p 6 vd (VVal.mk' (dataOfLanes 64 out) 0)).ran
        ∧ out.length = max 1 (2048 / w / 64)
        ∧ ∀ q, q < out.length → ∀ j, j < 64 →
          64 * q + j < 2048 / w → enabled en w (64 * q + j) = true →
          ∃ i, i < 64 ∧ enabled en w (64 * q + i) = true
            ∧ out.getD q 0 = (64 * q + i) * 2 ^ 32 + x.lane w (64 * q + i)
            ∧ intVal f (x.lane w (64 * q + j)) ≤ intVal f (x.lane w (64 * q + i))
            ∧ (intVal f (x.lane w (64 * q + j)) = intVal f (x.lane w (64 * q + i)) → i ≤ j))
    ∧ (Fits src x.tag →
        let n := 2048 / max (fmtWidth src) w
        let r := (List.range n).map (fun i => if enabled en w i then convert src f rm s.ctx.exposed (x.lane (fmtWidth src) i) else (0, 0))
        exec (.vcvt p vd va src pred rm f) s = .next (s.sentV p 4 vd (VVal.mk' (dataOfLanes w (r.map Prod.fst)) (fmtTag f))
          (elemMask en w ||| ~~~(BitVec.ofNat 256 (2 ^ (n * w / 8) - 1))) (orFlags (r.map Prod.snd))).ran)

/-- Dot product, splat, move, reductions, maxima and conversions (R245 to R251). -/
def Obligations.VectorDotMovesReductionsAndConversions : Prop := DotSplatAndMove ∧ ReductionsMaximaAndConversions

/-- Shuffles, pattern loads and predicate operations (R252, R253, R255). -/
def Obligations.ShufflesAndPredicates : Prop :=
  ∀ (p : Pos) (vd va vb : BitVec 5) (entry : BitVec 6) (pd pa pb : BitVec 4) (imm : BitVec 12) (s : State),
    let x := s.vsource p.bypA va
    let y := s.vsource p.bypB vb
    let pat := look s.ctx.pat ((if s.ctx.patBank then 64 else 0) + entry.toNat) (List.replicate 256 0)
    (tagOk x.tag = true → tagGrp x.tag = 0 → tagRot x.tag = 0 → tagOk y.tag = true → tagGrp y.tag = 0 → tagRot y.tag = 0 →
      exec (.vshuf p vd va vb entry) s = .next (s.sentV p 3 vd (VVal.mk' (dataOfBytes (pat.map (fun h =>
        if h.getLsbD 15 then 0 else (x.bytes ++ y.bytes).getD (h.toNat % 512) 0))) (if x.tag = y.tag then x.tag else 0))).ran)
    ∧ (let image := halvesOfBytes 256 (x.bytes ++ y.bytes)
       (∀ h ∈ image, h.toNat / 512 % 64 = 0) →
        exec (.vpld p va vb entry) s = .next ({ s with ctx := { s.ctx with vpld := s.ctx.vpld ++
          [(⟨s.now + 4, (if s.ctx.patBank then 0 else 64) + entry.toNat, image⟩ : PatWrite)] } }).ran)
    ∧ (s.ctx.vpld = [] → exec (.vpsw p) s = .next ({ s with ctx := { s.ctx with patBank := !s.ctx.patBank } }).ran)
    ∧ (s.ctx.vpld ≠ [] → exec (.vpsw p) s = .next { s with sig := .waits .vpsw })
    ∧ (let u := s.ctx.pred pa.toNat
       let v := s.ctx.pred pb.toNat
       let to_ := fun (r : BitVec 256) => (s.sentP p 1 pd r (BitVec.allOnes 256)).ran
       exec (.pand p pd pa pb) s = .next (to_ (u &&& v)) ∧ exec (.por p pd pa pb) s = .next (to_ (u ||| v))
       ∧ exec (.pxor p pd pa pb) s = .next (to_ (u ^^^ v)) ∧ exec (.pnot p pd pa) s = .next (to_ (~~~u))
       ∧ (∃ r, exec (.pfirst p pd pa) s = .next (to_ r)
          ∧ ∀ k, k < 256 → r.getLsbD k = (u.getLsbD k && decide (∀ j, j < k → u.getLsbD j = false)))
       ∧ ∃ r, exec (.pset p pd imm) s = .next (to_ r)
          ∧ ∀ k, k < 256 → r.getLsbD k = decide (k < (immZ p 12 imm.toNat).toNat))

/-- A source tag that no elementwise operation of format f admits (R76, R257): of another format, ill formed, or grouped. -/
def Misfits (f : BitVec 5) (t : BitVec 24) : Prop := t ≠ 0 ∧ (tagFmt t ≠ f.toNat ∨ tagOk t = false ∨ tagGrp t ≠ 0)

/-- The tag-mismatch trap of a source: the expected and the found tag (R93). -/
def tagTrapped (s : State) (p : Pos) (f : BitVec 5) (t : BitVec 24) : State :=
  s.traps p ⟨cTag, 0, w64 ((fmtTag f).toNat + 2 ^ 24 * t.toNat)⟩

/-- The element of the results that traps: the lowest one that raised an enabled flag (R72). -/
def LowestRaised (s : State) (r : List (Nat × BitVec 5)) (k : Nat) : Prop :=
  k < r.length ∧ (r.getD k (0, 0)).2 &&& s.ctx.fptrap ≠ 0 ∧ ∀ j, j < k → (r.getD j (0, 0)).2 &&& s.ctx.fptrap = 0

/-- The floating-point trap at element k of the results: all flags they raised, the slot, the element (R72, R93). -/
def flagTrapped (s : State) (p : Pos) (r : List (Nat × BitVec 5)) (k : Nat) : State :=
  s.traps p ⟨cFp, 0, w64 ((orFlags (r.map Prod.snd)).toNat + 2 ^ 8 * p.slot.toNat + 2 ^ 16 * k)⟩

/-- What an elementwise operation does when a source or a result stops it (R72, R76, R257): the first source that the operation does not
admit traps with the expected and the found tag; an enabled flag traps at the lowest element that raised one. That the floating-point
trap is taken as the operation issues, where R93 has it at landing, is the model's reading (log 27, DEDUCED). -/
def VectorTagsAndFlagsTrap : Prop :=
  ∀ (p : Pos) (vd va vb : BitVec 5) (pred : BitVec 4) (rm : BitVec 2) (f : BitVec 5) (s : State),
    let x := s.vsource p.bypA va
    let y := s.vsource p.bypB vb
    let z := s.ctx.vec vd.toNat
    let w := fmtWidth f
    (∀ e ∈ vecTwo,
      (Misfits f x.tag → exec (e.1 p vd va vb pred rm f) s = .next (tagTrapped s p f x.tag))
      ∧ (Fits f x.tag → Misfits f y.tag → exec (e.1 p vd va vb pred rm f) s = .next (tagTrapped s p f y.tag))
      ∧ ∀ k, Fits f x.tag → Fits f y.tag →
        let r := laneResults s pred w (fun i => e.2.2 f rm s.ctx.exposed (x.lane w i) (y.lane w i))
        LowestRaised s r k → exec (e.1 p vd va vb pred rm f) s = .next (flagTrapped s p r k))
    ∧ (∀ e ∈ vecOne,
      (Misfits f x.tag → exec (e.1 p vd va pred rm f) s = .next (tagTrapped s p f x.tag))
      ∧ ∀ k, Fits f x.tag →
        let r := laneResults s pred w (fun i => e.2.2 f rm s.ctx.exposed (x.lane w i))
        LowestRaised s r k → exec (e.1 p vd va pred rm f) s = .next (flagTrapped s p r k))
    ∧ ∀ e ∈ vecFused,
      (Misfits f x.tag → exec (e.1 p vd va vb pred rm f) s = .next (tagTrapped s p f x.tag))
      ∧ (Fits f x.tag → Misfits f y.tag → exec (e.1 p vd va vb pred rm f) s = .next (tagTrapped s p f y.tag))
      ∧ (Fits f x.tag → Fits f y.tag → Misfits f z.tag → exec (e.1 p vd va vb pred rm f) s = .next (tagTrapped s p f z.tag))
      ∧ ∀ k, Fits f x.tag → Fits f y.tag → Fits f z.tag →
        let r := fusedResults s p e.2 vd va vb pred rm f
        LowestRaised s r k → exec (e.1 p vd va vb pred rm f) s = .next (flagTrapped s p r k)

/-- The elementwise arithmetic of the vector unit (R237 to R240, R248, R257). -/
def Obligations.VectorArithmeticCompletesOrTraps : Prop := VectorTwoSourceResults ∧ VectorOneSourceAndFusedResults ∧ VectorTagsAndFlagsTrap

/-! ## Helictite -/

/-- A run of vector results on its way, the flags with the first (R270). -/
def runSent (s : State) (p : Pos) (lat : Nat) (vd : Nat) (vs : List VVal) (fl : BitVec 5) : State :=
  vs.zipIdx.foldl (fun (t : State) (e : VVal × Nat) =>
    t.sentV p lat (BitVec.ofNat 5 (vd + e.2)) e.1 fullMask (if e.2 = 0 then fl else 0)) s

/-- Setting a tag, rotating, narrowing and widening complete (R262, R270 to R274): each block by its own seed and scale. -/
def Obligations.HelictiteOperationsMoveBlocks : Prop :=
  ∀ (p : Pos) (vd va : BitVec 5) (run block rot grp : BitVec 2) (seed : BitVec 4) (group rotate : Bool) (fmt f : BitVec 5) (s : State),
    let x := s.vsource p.bypA va
    let w := s.ctx.sg.getD seed.toNat 0
    (∀ new, new = mkTag fmt.toNat grp.toNat rot.toNat seed.toNat (if rot = 0 then 0 else fingerprint w) → tagOk new = true →
      (grp = 0 ∨ sideOk fmt.toNat (2048 / (fmtWidth fmt * runLen grp.toNat)) x.side = true) →
      exec (.vtag p vd va rot grp seed fmt) s = .next (s.sentV p 2 vd ⟨x.data, new,
        Vector.ofFn (fun j : Fin 16 => if grp = 0 then 0 else
          if j.val < 2048 / (fmtWidth fmt * runLen grp.toNat) then x.side[j] else 0)⟩).ran)
    ∧ (Fits fmt x.tag → block ≠ 0 → runLen block.toNat ≤ 2048 / fmtWidth fmt → s.ctx.fptrap = 0 →
        let rs := (blocksOf (runLen block.toNat) 16 ((x.lanes (fmtWidth fmt)).map ((ffmt fmt).decode false))).map
          (narrowBlock fmt block.toNat (some w) false)
        exec (.vrot p vd va block seed fmt) s = .next (s.sentV p (blockLat block) vd
          (VVal.mk' (dataOfLanes (fmtWidth fmt) (rs.flatMap (fun r => r.2.1)))
            (mkTag fmt.toNat 0 block.toNat seed.toNat (fingerprint w))) fullMask (orFlags (rs.flatMap (fun r => r.2.2)))).ran)
    ∧ (∀ (src : BitVec 24) (r sd fp : Nat) (sw : Option Word),
       let n := 2 ^ run.toNat
       let regs := (List.range n).map (fun k => s.ctx.vec (va.toNat + k))
       (∀ v ∈ regs, v.tag = src) → tagOk src = true → tagGrp src = 0 → tagFmt src = f.toNat → fmtIn f 9 12 = true →
       fmtWidth f = n * fmtWidth fmt → va.toNat % n = 0 → (group = true ↔ 15 ≤ fmt.toNat) → s.ctx.fptrap = 0 →
       ((tagRot src ≠ 0 ∧ rotate = false ∧ block.toNat = tagRot src ∧ r = tagRot src ∧ sd = tagSeed src ∧ fp = tagFp src ∧ sw = none)
        ∨ (tagRot src = 0 ∧ rotate = true ∧ r = block.toNat ∧ sd = seed.toNat ∧ fp = fingerprint w ∧ sw = some w)
        ∨ (tagRot src = 0 ∧ rotate = false ∧ (group = true ∨ block = 0) ∧ r = 0 ∧ sd = 0 ∧ fp = 0 ∧ sw = none)) →
       let xs := regs.flatMap (fun v => v.lanes (fmtWidth f))
       let tag := mkTag fmt.toNat (if group then block.toNat else 0) r sd fp
       (block = 0 → exec (.vnr p vd va run block group rotate seed fmt) s = .next (s.sentV p 10 vd
         (VVal.mk' (dataOfLanes (fmtWidth fmt) ((xs.map (convert f fmt 0 false)).map Prod.fst)) tag) fullMask
         (orFlags ((xs.map (convert f fmt 0 false)).map Prod.snd))).ran)
       ∧ (block ≠ 0 →
         let rs := (blocksOf (runLen block.toNat) 16 (xs.map ((ffmt f).decode false))).map (narrowBlock fmt block.toNat sw true)
         exec (.vnr p vd va run block group rotate seed fmt) s = .next (s.sentV p (blockLat block) vd
           ⟨dataOfLanes (fmtWidth fmt) (rs.flatMap (fun e => e.2.1)), tag, sideOf (if group then rs.map Prod.fst else [])⟩ fullMask
           (orFlags (rs.flatMap (fun e => e.2.2)))).ran))
    ∧ (tagOk x.tag = true → tagFmt x.tag = f.toNat → fmtIn f 10 16 = true → fmtWidth fmt = 2 ^ run.toNat * fmtWidth f →
        vd.toNat % 2 ^ run.toNat = 0 → (tagGrp x.tag = 0 ∨ sideOk f.toNat (groupCount f (tagGrp x.tag)) x.side = true) →
        s.ctx.fptrap = 0 →
        (let rs := ((wideVals x).zip (x.lanes (fmtWidth f))).map (fun (e : FVal × Nat) => widenLane f fmt e.1 e.2)
         exec (.vwd p vd va run 0 false seed fmt) s = .next (runSent s p 10 vd.toNat
           ((blocksOf (2048 / fmtWidth fmt) (2 ^ run.toNat) (rs.map Prod.fst)).map (fun l => VVal.mk' (dataOfLanes (fmtWidth fmt) l)
             (mkTag fmt.toNat 0 (tagRot x.tag) (tagSeed x.tag) (tagFp x.tag)))) (orFlags (rs.map Prod.snd))).ran)
        ∧ (tagRot x.tag = block.toNat → block ≠ 0 → tagFp x.tag = fingerprint w →
         let rs := (blocksOf (runLen block.toNat) 16 (wideVals x)).map (inverseBlock fmt block.toNat w)
         exec (.vwd p vd va run block true seed fmt) s = .next (runSent s p (blockLat block) vd.toNat
           ((blocksOf (2048 / fmtWidth fmt) (2 ^ run.toNat) (rs.flatMap Prod.fst)).map (fun l =>
             VVal.mk' (dataOfLanes (fmtWidth fmt) l) (fmtTag fmt))) (orFlags (rs.flatMap Prod.snd))).ran))

/-! ## The matrix array -/

/-- An auto-incrementing descriptor pair is advanced (R286): by dw.step while rows remain, else by dw.skip; the count falls by one
and both registers land at t + 1. -/
def descAdvanced (s : State) (p : Pos) (d : Desc) : State :=
  if d.auto then
    (s.push p 1 (.scalar (s.ctx.phys d.reg)) (.word (w64 ((d.base + 64 * (if 1 < d.rows then bits d.w0 31 16 else bits d.w0 15 0))
        % 2 ^ 32 * 2 ^ 32 + bits d.w0 31 0))) 0 true false).push p 1 (.scalar (s.ctx.phys (d.reg + 1)))
      (.word ((d.w1 &&& ~~~(0x1FFFE : Word)) ||| w64 ((d.rows - 1) * 2))) 0 true false
  else s

/-- The array mode, the loads of an edge latch, fills and zeros complete (R288, R289, R293, R294). -/
def MatrixLoadsFillsAndZeros : Prop :=
  ∀ (p : Pos) (fa fb reg fmt va : BitVec 5) (grp latch seg : BitVec 2) (row : BitVec 8) (row7 : BitVec 7) (cnt : BitVec 8)
    (tile : BitVec 3) (half clear : Bool) (k : Nat) (s : State),
    exec (.mset p fa fb grp false reg) s = .next (s.push p 1 .mode (.mode ⟨fa, fb, grp, 0, 0⟩) 0 true false).ran
    ∧ (PlainReg reg → ∀ z, z = s.ctx.scalar reg.toNat → bits z 63 16 = 0 → exec (.mset p fa fb grp true reg) s
        = .next (s.push p 1 .mode (.mode ⟨fa, fb, grp,
            if isSigned fa then sval 8 (bits z 7 0) else (bits z 7 0 : Int),
            if isSigned fb then sval 8 (bits z 15 8) else (bits z 15 8 : Int)⟩) 0 true false).ran)
    ∧ ((s.ctx.exposed = true ∨ ∀ x ∈ s.core.latchW, x.latch = latch.toNat → x.due ≤ s.ctx.clk + 2) →
        Fits fmt (s.vsource p.bypA reg).tag →
        exec (.mload p latch false false row half reg fmt) s = .next ({ s with core := { s.core with latchW := s.core.latchW ++
          [(⟨s.ctx.clk + 2, latch.toNat, row.toNat, some (fmtTag fmt), if half then 256 else 0,
            (s.vsource p.bypA reg).bytes.take (if fmtWidth fmt = 16 then (if half then 128 else 256) else 192), []⟩ : LatchWrite)] } }).ran)
    ∧ ((s.ctx.exposed = true ∨ ∀ x ∈ s.core.latchW, x.latch = latch.toNat → x.due ≤ s.ctx.clk + 12) →
        ∀ d, readDesc reg s = .ok (d, s) →
        (∀ bs, tagFmt d.tag = fmt.toNat → descRead d (24 * fmtWidth fmt) s = .ok (bs, s) →
          exec (.mload p latch true false row half reg fmt) s = .next (descAdvanced { s with core := { s.core with
            latchW := s.core.latchW ++
              [(⟨s.ctx.clk + 12, latch.toNat, row.toNat, some d.tag, 0, bs, []⟩ : LatchWrite)] } } p d).ran)
        ∧ (∀ bs, descRead d 768 s = .ok (bs, s) → s.metaFault fmt (d.chunks 12) 0 192 = none →
          exec (.mload p latch true true row half reg fmt) s = .next (descAdvanced { s with core := { s.core with
            latchW := s.core.latchW ++
              [(⟨s.ctx.clk + 12, latch.toNat, row.toNat, none, 0, [], (words32 192 bs).map metaEntry⟩ : LatchWrite)] } } p d).ran)
        ∧ (∀ a, s.metaFault fmt (d.chunks 12) 0 192 = some a →
          exec (.mload p latch true true row half reg fmt) s = .next (s.traps p ⟨cFormat, w64 a, w64 d.tag.toNat⟩)))
    ∧ (s.ctx.tile tile.toNat = some k →
        (∀ b ∈ s.core.beats, b.flying k row7.toNat s.ctx.clk = false) → Fits fmt (s.vsource p.bypA va).tag →
        (fmt = 0 ∨ (s.core.tiles.getD k ⟨0, []⟩).tag = 0 ∨ (s.core.tiles.getD k ⟨0, []⟩).tag = fmtTag fmt) →
        exec (.mfill p va tile row7 seg fmt) s = .next ({ s with core := { s.core with
          tiles := if fmt = 0 then s.core.tiles
            else s.core.tiles.setIfInBounds k { s.core.tiles.getD k ⟨0, []⟩ with tag := fmtTag fmt },
          beats := s.core.beats ++ [(⟨s.ctx.clk + 1, s.ctx.seq, k, row7.toNat,
            .words (64 * seg.toNat) (((s.vsource p.bypA va).lanes 32).map (BitVec.ofNat 32))⟩ : Beat)] } }).ran)
    ∧ (s.ctx.tile tile.toNat = some k →
        (∀ b ∈ s.core.beats, ∀ j, j ≤ cnt.toNat → b.flying k (row7.toNat + j) s.ctx.clk = false) →
        exec (.mzero p tile row7 cnt clear) s = .next ({ s with core := { s.core with
          tiles := if clear then s.core.tiles.setIfInBounds k { s.core.tiles.getD k ⟨0, []⟩ with tag := 0 } else s.core.tiles,
          beats := s.core.beats ++ (List.range (cnt.toNat + 1)).map (fun j =>
            (⟨s.ctx.clk + 1, s.ctx.seq, k, row7.toNat + j, .words 0 (List.replicate 192 0)⟩ : Beat)) } }).ran)

/-- A beat feeds a row of a tile, and a drain reads rows out (R77, R290, R292); an invalid metadata word of the A row takes the format
fault, at its address where a descriptor names it (R61, R93). -/
def MatrixFeedsAndDrains : Prop :=
  ∀ (p : Pos) (latch seg : BitVec 2) (tile : BitVec 3) (row : BitVec 7) (ovw half zero : Bool) (reg vd fmt : BitVec 5) (rm : BitVec 2)
    (k : Nat) (s : State), s.ctx.tile tile.toNat = some k →
    (∀ (m : ArrayMode) (ta : BitVec 24), s.core.mode = some m →
      let e := s.core.el.getD latch.toNat Latch.zero
      let t := s.core.tiles.getD k ⟨0, []⟩
      let res := mkTag (if isFloat m.fa || m.grp != 0 then 10 else 3) (tagRot ta) 0 (tagSeed ta) (tagFp ta)
      let groups := if m.grp = 0 then 0 else 1024 / fmtWidth m.fa / runLen m.grp.toNat
      let beat := fun (rowA : List Byte) (metaA : List (BitVec 24)) => ({ s.core with
        tiles := s.core.tiles.setIfInBounds k { t with tag := res },
        beats := s.core.beats ++ [(⟨s.ctx.clk + 24, s.ctx.seq, k, row.toNat, .feed ovw m rowA metaA e⟩ : Beat)] } : Core)
      (s.ctx.exposed = true ∨ ∀ x ∈ s.core.latchW, x.latch ≠ latch.toNat) →
      (ovw = true → ∀ b ∈ s.core.beats, b.flying k row.toNat s.ctx.clk = false) →
      (tagFmt ta = 0 ∨ tagFmt ta = m.fa.toNat) → (tagFmt e.tag = 0 ∨ tagFmt e.tag = m.fb.toNat) →
      (m.grp = 0 ∨ (tagFmt ta ≠ 0 ∧ tagGrp ta = m.grp.toNat ∧ tagFmt e.tag ≠ 0 ∧ tagGrp e.tag = m.grp.toNat)) →
      tagRot ta = tagRot e.tag → (tagRot ta = 0 ∨ tagFp ta = tagFp e.tag) →
      (ovw = true ∨ t.tag = 0 ∨ (t.tag ^^^ res) &&& ~~~(0x1E00 : BitVec 24) = 0) →
      (ta = (s.vsource p.bypA reg).tag → tagOk ta = true →
        let v := s.vsource p.bypA reg
        let h := if half then 1 else 0
        let ws := (List.range groups).map (fun j => w64 (v.side.getD (h * groups + j) 0).toNat)
        ((∀ x ∈ ws, metaWordOk m.fa x = true) → exec (.mfeed p latch tile row ovw false half reg) s
          = .next ({ s with core := beat ((v.bytes.drop (128 * h)).take 128) (ws.map metaEntry) } : State).ran)
        ∧ ((∃ x ∈ ws, metaWordOk m.fa x = false) → exec (.mfeed p latch tile row ovw false half reg) s
          = .next (s.traps p ⟨cFormat, 0, w64 ta.toNat⟩)))
      ∧ (∀ d, readDesc reg s = .ok (d, s) → ta = d.tag →
        let as_ := d.chunks ((128 + 4 * groups + 63) / 64)
        (∀ bs, s.metaFault m.fa as_ 128 groups = none → descRead d (128 + 4 * groups) s = .ok (bs, s) →
          exec (.mfeed p latch tile row ovw true half reg) s = .next (descAdvanced { s with
            core := beat (bs.take 128) ((words32 groups (bs.drop 128)).map metaEntry) } p d).ran)
        ∧ (∀ a, s.metaFault m.fa as_ 128 groups = some a → exec (.mfeed p latch tile row ovw true half reg) s
          = .next (s.traps p ⟨cFormat, w64 a, w64 d.tag.toNat⟩))))
    ∧ (let t := s.core.tiles.getD k ⟨0, []⟩
       let w := if fmt.toNat = 0 then 32 else fmtWidth fmt
       let lb := if tagGrp t.tag = 0 then 0 else tagGrp t.tag + 4
       let xs := (List.range (32 / w)).flatMap (fun j => ((t.row (row.toNat + j)).drop (64 * seg.toNat)).take 64)
       let rs := xs.map (drainElem fmt rm (tagFmt t.tag == 3) lb)
       let t1 := s.sentV p 6 vd (VVal.mk' (dataOfLanes w (rs.map Prod.fst)) (fmtTag fmt)) fullMask (orFlags (rs.map Prod.snd))
       (∀ b ∈ s.core.beats, ∀ j, j < 32 / w → b.flying k (row.toNat + j) s.ctx.clk = false) →
       (fmt.toNat = 0 → tagGrp t.tag = 0) → (1 ≤ fmt.toNat → fmt.toNat ≤ 3 → tagFmt t.tag ≠ 10) →
       exec (.mdrain p vd tile row seg zero rm fmt) s = .next ({ t1 with core := { t1.core with
         beats := t1.core.beats ++ (if zero then (List.range (32 / w)).map (fun j =>
           (⟨s.ctx.clk + 1, t1.ctx.seq, k, row.toNat + j, .words (64 * seg.toNat) (List.replicate 64 0)⟩ : Beat)) else []) } }).ran)

/-- The six instructions of the matrix array (R288 to R294). -/
def Obligations.MatrixInstructionsComplete : Prop := MatrixLoadsFillsAndZeros ∧ MatrixFeedsAndDrains

/-! ## What happens between bundles -/

/-- Writes in flight take effect when they are due (R88, R98, R188, R253, R284, R289): a pattern entry, a latch row, a row of a
tile, a captured result, late data, the new division of the core store. -/
def WritesInFlightLandWhenDue : Prop :=
  ∀ s : State,
    (∀ w rest, s.ctx.vpld = w :: rest → w.due ≤ s.now → ∃ t, exec .patternEntryWrite s = .next t ∧ t.ctx.vpld = rest
      ∧ look t.ctx.pat w.index (List.replicate 256 0) = w.image
      ∧ (∀ k, k ≠ w.index → look t.ctx.pat k (List.replicate 256 0) = look s.ctx.pat k (List.replicate 256 0)))
    ∧ (∀ x, s.core.latchW.filter (fun y => decide (y.due ≤ s.ctx.clk)) = [x] → x.latch < 4 →
      ∃ t, exec .latchRowWrite s = .next t
        ∧ t.core.el.getD x.latch Latch.zero = (s.core.el.getD x.latch Latch.zero).write x
        ∧ (∀ k, k ≠ x.latch → t.core.el.getD k Latch.zero = s.core.el.getD k Latch.zero)
        ∧ t.core.latchW = s.core.latchW.filter (fun y => decide (s.ctx.clk < y.due)) ∧ t.ctx = s.ctx)
    ∧ (∀ b, s.core.beats.filter (fun y => decide (y.due ≤ s.ctx.clk)) = [b] → b.tile < 8 →
      ∃ t, exec .tileRowLanding s = .next t
        ∧ t.core.beats = s.core.beats.filter (fun y => decide (s.ctx.clk < y.due))
        ∧ t.core.tiles.getD b.tile ⟨0, []⟩ = ((s.core.tiles.getD b.tile ⟨0, []⟩).land b).1
        ∧ t.ctx.fpflags = s.ctx.fpflags ||| ((s.core.tiles.getD b.tile ⟨0, []⟩).land b).2
        ∧ (∀ col ws, b.kind = .words col ws → (t.core.tiles.getD b.tile ⟨0, []⟩).row b.row =
            let old := (s.core.tiles.getD b.tile ⟨0, []⟩).row b.row
            old.take col ++ ws ++ old.drop (col + ws.length))
        ∧ (∀ k, k ≠ b.tile → t.core.tiles.getD k ⟨0, []⟩ = s.core.tiles.getD k ⟨0, []⟩))
    ∧ (∀ e n w, s.ctx.dueSnap = some e → s.ctx.wbase ≤ 112 → 1 ≤ n → n ≤ 23 ∨ n = 31 → e.res.dest = .scalar (s.ctx.phys n) →
        e.res.val = .word w → e.res.wb = true → e.res.latch = false →
      ∃ t, exec .snapshotReplay s = .next t ∧ t.ctx.scalar n = w ∧ t.ctx.snap = s.ctx.snap.erase e ∧ t.ctx.lat = s.ctx.lat
        ∧ t.ctx.fpflags = s.ctx.fpflags ||| e.res.flags)
    ∧ exec .freezeEnd s = .next { s with ctx := { s.ctx with
        late := s.ctx.late.filter (fun e => !(decide (e.1 ≤ s.ctx.clk) && decide (e.2 ≤ s.now))) } }
    ∧ (∀ e, s.core.phaseEnd = some e → e ≤ s.now → s.core.later = [] → exec .phaseWindowEnd s = .next { s with core :=
        { s.core with l1Size := s.core.l1Next, phaseEnd := none, later := [] } })
    ∧ (∀ e w, s.core.phaseEnd = some e → e ≤ s.now → s.core.later = [w] → w.due ≤ s.now → ∃ t, exec .phaseWindowEnd s = .next t
        ∧ t.core.l1Size = s.core.l1Next ∧ t.core.phaseEnd = none ∧ t.core.later = []
        ∧ t.scr = memPutN s.scr (scrKey s.core.id w.off) w.bytes)

/-- Wakes and acknowledgements (R116, R172, R175, R179, R180, R229, R325, R382): a landed tagged send leaves its group's count, a
monitor may be woken, an MWAIT's timeout ends it, the acknowledgement of a sector's oldest far access frees it for what waited behind
it, up to the next far access of it, a waiting ACQ tries again, the acknowledgement word merges
responses and reads back cleared, `rnd` counts its reads. -/
def WakesAndAcknowledgements : Prop :=
  ∀ (s : State) (g inc sector ord : Nat) (d : BitVec 5) (w : Word), PlainReg d →
    (∀ x, s.groupAt g inc = some x → exec (.taggedSendLanded g inc) s = .next (s.setGroup ({ x with sends := x.sends - 1 }).check))
    ∧ (s.groupAt g inc = none → exec (.taggedSendLanded g inc) s = .next s)
    ∧ (∃ t, exec (.monitorWake s.ctx.core s.ctx.slot) s = .next t ∧ t.ctx.mon = s.ctx.mon.map (fun m => { m with woken := true })
        ∧ t.mem = s.mem)
    ∧ (∀ at_, s.ctx.mwaitAt = some at_ → at_ ≤ s.now → exec .mwaitTimeout s = .next { s with ctx := { s.ctx with
        mwaitAt := none, mon := s.ctx.mon.map (fun m => { m with woken := true }) } })
    ∧ (∃ t, exec (.farAccessAck sector) s = .next t ∧ t.mem = s.mem ∧ t.ctx = s.ctx
        ∧ t.far.filter (fun h => h.sector != sector) = s.far.filter (fun h => h.sector != sector)
        ∧ ∀ h l, s.far.filter (fun h => h.sector == sector) = h :: l → h.far = true →
            t.far.filter (fun h => h.sector == sector) = l.dropWhile (fun h => !h.far))
    ∧ (∀ n, s.ctx.stallAt = some (n, .acquire) → exec .acqRetry s = .next { s with core := { s.core with
        readyAt := min s.core.readyAt s.now } })
    ∧ (s.ctx.status ≠ .free → ∃ t, exec (.ackWordMerge s.ctx.core s.ctx.launch w (some ord)) s = .next t
        ∧ t.ctx.mcOut = s.ctx.mcOut - 1
        ∧ bits t.ctx.ack 53 44 = min (bits s.ctx.ack 53 44 + bits w 53 44) 1023
        ∧ bits t.ctx.ack 63 54 = min (bits s.ctx.ack 63 54 + bits w 63 54) 1023
        ∧ bits t.ctx.ack 31 0 = bits (s.ctx.ack ||| w) 31 0
        ∧ (s.ctx.ackOrd = none → bits t.ctx.ack 43 40 = bits w 43 40 ∧ t.ctx.ackOrd = some ord))
    ∧ (s.ctx.mcOut = 0 → exec (.ackWordRead d) s = .next (({ s with ctx := { s.ctx with ack := 0, ackOrd := none } } :
        State).sent (Pos.plain 1) 6 d s.ctx.ack).ran)
    ∧ (s.ctx.mcOut ≠ 0 → exec (.ackWordRead d) s = .next (s.waits .access))
    ∧ exec (.rndRead d) s = .next (({ s with ctx := { s.ctx with rctr := s.ctx.rctr + 1 } } :
        State).sent (Pos.plain 0) 1 d (s.sreg 0x034)).ran

/-- Writes in flight, wakes and acknowledgements take effect. -/
def Obligations.PendingWorkTakesEffect : Prop := WritesInFlightLandWhenDue ∧ WakesAndAcknowledgements

/-- Traps between bundles (R96, R101, R107): an enabled pending interrupt, a breakpoint on the bundle about to issue, an overrun
budget outside the handler; without its condition none is taken. The firmware's answer to a page fault resumes the task with the
trap registers it had (R100). -/
def Obligations.TrapsAreTakenBetweenBundles : Prop :=
  ∀ s : State,
    let taken := fun (u : State) (r : TrapReq) => ({ u.takeTrap r 0 with sig := .trapped r } : State)
    let hit := fun (w : Word) => bitAt w 0 && bits w 17 4 * 16 == s.ctx.q0.addr
    (s.ctx.ie = true → s.ctx.ienable &&& s.ctx.ipend ≠ 0 →
      exec .interruptTaken s = .next (taken s ⟨cInterrupt, 0, w64 s.ctx.ipend.toNat⟩))
    ∧ (s.ctx.ie = false ∨ s.ctx.ienable &&& s.ctx.ipend = 0 → exec .interruptTaken s = .next s)
    ∧ (s.ctx.bpskip = false → s.ctx.q0.an = false → hit s.ctx.bkpt0 = true → hit s.ctx.bkpt1 = false →
      exec .breakpoint s = .next (taken s ⟨cBreak, w64 s.ctx.q0.addr, 0⟩))
    ∧ (s.ctx.bpskip = false → s.ctx.q0.an = false → hit s.ctx.bkpt1 = true →
      exec .breakpoint s = .next (taken s ⟨cBreak, w64 s.ctx.q0.addr, 1⟩))
    ∧ (s.ctx.bpskip = true ∨ s.ctx.q0.an = true ∨ (hit s.ctx.bkpt0 = false ∧ hit s.ctx.bkpt1 = false) →
      exec .breakpoint s = .next s)
    ∧ (s.ctx.overPend = true → s.ctx.sv = false → exec .budgetOverrun s
        = .next (taken { s with ctx := { s.ctx with overPend := false } } ⟨cBudget, 0, w64 (bits s.ctx.budget 62 0)⟩))
    ∧ (s.ctx.overPend = false ∨ s.ctx.sv = true → exec .budgetOverrun s = .next s)
    ∧ (∀ f, s.ctx.pfault = some f → s.ctx.status = .faulted → s.core.id = s.ctx.core →
      ∃ t, exec (.pageFaultAnswer (.context s.ctx.core s.ctx.slot) true) s = .next t
        ∧ t.ctx.status = .ready ∧ t.ctx.pfault = none ∧ t.ctx.tcause = f.tcause ∧ t.ctx.tmask = f.tmask ∧ t.ctx.taddr = f.taddr
        ∧ t.ctx.tdetail = f.detail ∧ t.ctx.sv = s.ctx.sv ∧ t.ctx.q0 = s.ctx.q0
        ∧ (s.core.running = none → t.core.running = some s.ctx.slot ∧ t.core.readyAt = s.now + 24))

/-- Switches (R85 to R87, R97, R104, R156, R412, R413): a long wait gives the core to the arbiter's choice; a parked context
whose wait is over is ready; an idle core takes the arbiter's choice; a quantum is 100 µs; a settled end frees the core; a
pre-empted context leaves for its image and a saved one comes back from it. The arbiter's classes, ties and quanta are the
model's readings (logs 41, 42 and 75, DEDUCED). -/
def Obligations.ContextsSwitchEndAndReturn : Prop :=
  ∀ (s : State) (slot k : Nat), s.core.id = s.ctx.core →
    (∀ c e, s.holding = true → s.stalledLong = true →
      chooseNext s.core s.now (s.allCtxs.filter (fun c => c.candidate s.core.id && !(true && c.slot == s.ctx.slot))) = some (c, e) →
      c.slot ≠ s.ctx.slot → ∃ t, exec .waitStallYield s = .next t ∧ t.core.running = some c.slot ∧ t.core.readyAt = s.now + 24
        ∧ t.core.qEnd = e ∧ t.ctx.core = s.ctx.core ∧ t.ctx.slot = c.slot
        ∧ ∃ o ∈ t.ctxs, o.core = s.ctx.core ∧ o.slot = s.ctx.slot ∧ o.status = .parked)
    ∧ ((s.focusCtx s.core.id slot).ctx.status = .parked → (s.focusCtx s.core.id slot).waitOver = true →
      ∃ t, exec (.parkedContextReady slot) s = .next t
        ∧ ∃ c ∈ t.allCtxs, c.core = s.ctx.core ∧ c.slot = slot ∧ c.status = .ready)
    ∧ (∀ c e, s.core.running = none → chooseNext s.core s.now (s.allCtxs.filter (fun c => c.candidate s.core.id)) = some (c, e) →
      ∃ t, exec .idleSwitchIn s = .next t ∧ t.core.running = some c.slot ∧ t.core.owner = some c.slot
        ∧ t.core.readyAt = s.now + 24 ∧ t.core.qEnd = e ∧ t.ctx.slot = c.slot
        ∧ (s.core.owner ≠ some c.slot → t.core.el = Vector.replicate 4 Latch.zero ∧ t.core.mode = none))
    ∧ (s.core.qEnd ≤ s.now → ∃ t, exec .quantumBoundary s = .next t ∧ s.now < t.core.qEnd ∧ t.core.qEnd ≤ s.now + 150000
        ∧ t.core.qEnd = t.core.qStart + 150000 ∧ (150000 ∣ s.core.qEnd → 150000 ∣ t.core.qEnd)
        ∧ ∀ c ∈ t.allCtxs, c.core = s.ctx.core → c.issuedQ = false)
    ∧ (s.endSettled = true → ∃ t, exec .taskEndReport s = .next t ∧ t.ctx = Ctx.idle s.ctx.core s.ctx.slot
        ∧ t.core.running ≠ some s.ctx.slot ∧ t.core.owner ≠ some s.ctx.slot
        ∧ t.launches = s.launches.map (fun (l : Launch) =>
            if l.num = s.ctx.launch then { l with live := l.live.erase s.ctx.core } else l))
    ∧ (∀ u, s.ctx.lock = false → s.preemptible = true → s.preempt = .done u → u.core.id = s.ctx.core →
      ∃ t, exec .forcedPreemption s = .next t ∧ t.ctx = Ctx.idle s.ctx.core s.ctx.slot ∧ t.core.running ≠ some s.ctx.slot
        ∧ ∃ v ∈ t.saved, v.ctx.core = s.ctx.core ∧ v.ctx.slot = s.ctx.slot ∧ v.rank = s.ctx.rank s.now)
    ∧ (s.ctx.lock = false → s.preemptible = false → exec .forcedPreemption s = .next s)
    ∧ (∀ v parts s1 c', s.saved[k]? = some v → v.ctx.lock = false →
      (∀ x ∈ s.allCtxs, x.core = v.ctx.core → x.status ≠ .free → x.slot ≠ v.ctx.slot ∧ x.lock = false) →
      restoreE v.ctx.imageWho v s = .ok (parts, s1) → v.ctx.ofImage (partsAt parts) = some c' →
      ∃ t, exec (.contextRestore k) s = .next t ∧ ∃ c ∈ t.allCtxs, c.core = v.ctx.core ∧ c.slot = v.ctx.slot
        ∧ (v.ctx.pfault = none → c.status = .ready) ∧ c.s = c'.s ∧ c.win = c'.win ∧ c.v = c'.v ∧ c.p = c'.p ∧ c.q0 = c'.q0
        ∧ c.snap = c'.snap)

/-! ## Copy channels and the calendar -/

/-- The copy channels (R124, R210, R213, R219): a command starts when its joins are complete, completes when its elements are
performed, a fault stops its channel with the cause and address, a write of the fault register resumes it. The order of the
elements and where a command stops are the model's readings (logs 23, 25 and 52, DEDUCED and DESIGN CHOICE). -/
def Obligations.CopyChannelsStartCompleteAndStop : Prop :=
  ∀ (s : State) (ch : BitVec 2),
    let c := s.core.chan ch.toNat
    (c.flt = true → exec (.channelFaultWrite ch) s
      = .next (s.setChan ch.toNat { c with flt := false, offered := false, readyAt := s.now + 1 }))
    ∧ (∀ q rest, c.queue = q :: rest → c.active = false → c.flt = false → (∀ j ∈ q.join, (s.core.chan j.1).complete j.2 = true) →
      exec (.copyCommandStart ch) s = .next (s.setChan ch.toNat
        { c with active := true, count := 0, off := 0, issued := 0, readyAt := s.now + 4, last := q.regs }))
    ∧ (∀ q rest, c.queue = q :: rest → c.active = true → c.flt = false → q.regs.empty = true →
      ∃ t, exec (.copyCommandComplete ch) s = .next t ∧ (t.core.chan ch.toNat).queue = rest ∧ t.mem = s.mem ∧ t.scr = s.scr)
    ∧ (∀ q rest u, c.queue = q :: rest → c.active = true → c.flt = false → q.regs.empty = false → q.regs.cal = false →
      State.copyRun (q.who s.core.id ch.toNat) (s.core.id / 8) ch.toNat q.regs q.regs.elements s = (u, none) →
      q.regs.total ≤ (u.core.chan ch.toNat).count → u.chanPending ch.toNat = false → (u.core.chan ch.toNat).queue = q :: rest →
      ∃ t, exec (.copyCommandComplete ch) s = .next t ∧ (t.core.chan ch.toNat).queue = rest ∧ t.mem = u.mem ∧ t.scr = u.scr)
    ∧ (∀ q rest u r log, c.queue = q :: rest → c.active = true → c.flt = false → q.regs.empty = false → q.regs.cal = false →
      State.copyRun (q.who s.core.id ch.toNat) (s.core.id / 8) ch.toNat q.regs q.regs.elements s = (u, some (.fault r log)) →
      ∃ t, exec (.copyChannelFault ch) s = .next t ∧ (t.core.chan ch.toNat).flt = true
        ∧ (t.core.chan ch.toNat).faddr = r.taddr ∧ (t.core.chan ch.toNat).offered = (r.cause == cPage)
        ∧ bits (t.core.chan ch.toNat).fault 7 0 = r.cause.toNat)

/-- A line of a calendar command can issue: its source has its leaf in the core's TLB, on memory of this package at pa, and its
destination lies in the launch's granules of the core named (R186, R203, R204, R211). -/
def LinePlaced (s : State) (q : Command) (i pa core off : Nat) : Prop :=
  let a := q.regs.lineAddrs i
  2 ^ 32 ≤ a.1 ∧ a.1 < 2 ^ 57 ∧ s.core.id < 192 ∧ isHbm pa = true
  ∧ (∃ e : TlbEnt, s.core.tlb.find? (fun e => e.covers q.launch a.1) = some e ∧ pa = ptePa e.pte + a.1 % e.size
      ∧ bitAt e.pte 6 = false ∧ pteRm e.pte = false)
  ∧ a.2 < 2 ^ 24 ∧ core = 8 * (s.core.id / 8) + a.2 / 2 ^ 21 % 8 ∧ off = a.2 % 2 ^ 21
  ∧ s.inGranules q.launch core off 128 = true

/-- The calendar's map and slots (R216, R217, R231): a pending map takes effect with its rotation; in an owned slot the next line of a
ready command issues, to be read twelve cycles later and to land after 520, and with no line to issue nothing happens; a line whose
translation has not completed stays for a slot of the next rotation. Whether a walk has completed is free (log 9, DESIGN CHOICE). -/
def CalendarSlotsIssueLines : Prop :=
  ∀ (s : State) (ch : BitVec 2),
    let c := s.core.chan ch.toNat
    (∀ m, s.core.calNext = some m → exec .calendarRotationStart s = .next { s with core := { s.core with calMap := m, calNext := none } })
    ∧ (s.core.calNext = none → exec .calendarRotationStart s = .next s)
    ∧ (c.queue = [] → exec (.calendarLineIssue ch) s = .next s)
    ∧ (∀ q rest, c.queue = q :: rest → c.active = true → c.flt = false → q.regs.cal = true → q.regs.empty = false →
      c.issued < q.regs.lineCount → c.readyAt ≤ s.now →
      (∀ pa core off, LinePlaced s q c.issued pa core off → ∃ t l, exec (.calendarLineIssue ch) s = .next t
        ∧ t.core.lines = s.core.lines ++ [l] ∧ l.chan = ch.toNat ∧ l.cmd = q.id ∧ l.index = c.issued ∧ l.dev = none ∧ l.pa = pa
        ∧ l.core = core ∧ l.off = off ∧ l.at_ = s.now ∧ l.land = s.now + 520 ∧ l.read = false ∧ l.fault = none
        ∧ (t.core.chan ch.toNat).issued = c.issued + 1 ∧ t.mem = s.mem ∧ t.scr = s.scr)
      ∧ (2 ^ 32 ≤ (q.regs.lineAddrs c.issued).1 → s.tlbHolds s.core.id q.launch (q.regs.lineAddrs c.issued).1 = false →
        ∃ t, exec (.calendarLineIssue ch) s = .next t ∧ t.mem = s.mem ∧ t.scr = s.scr
        ∧ (Config.walked s.draw = false → t.core.lines = s.core.lines ∧ (t.core.chan ch.toNat).issued = c.issued
          ∧ (t.core.chan ch.toNat).readyAt = s.now + 256)))

/-- The calendar's lines (R217, R218, R231 to R233) and the chamber bus (R220): a line of this package is read at its home with its
poison; it may be held, a delay of its own length; it lands in the destination scratchpad, and a poisoned one stays until its channel
stops at it; arrivals that no BLATCH captured are gone. The length of a hold within its rotation is free (log 65, DESIGN CHOICE). -/
def CalendarLinesAreReadAndLand : Prop :=
  ∀ (s : State) (k delay : Nat) (l : CalLine), s.core.lines[k]? = some l →
    (l.dev = none → ∃ t l', exec (.calendarLineRead k) s = .next t ∧ t.core.lines[k]? = some l' ∧ l'.bytes = memGetN s.mem l.pa 128
      ∧ l'.read = true ∧ l'.index = l.index ∧ l'.core = l.core ∧ l'.off = l.off ∧ l'.land = l.land ∧ t.mem = s.mem ∧ t.scr = s.scr
      ∧ ∀ i, i < 4 → l'.bad.getLsbD i = t.sectorBad (l.pa / 32 + i))
    ∧ (∃ t, exec (.calendarHold k delay) s = .next t ∧ t.core.lines[k]? = some { l with land := l.at_ + 520 + delay }
      ∧ t.mem = s.mem ∧ t.scr = s.scr)
    ∧ ((s.coreAt l.core).phaseEnd = none → s.scrPending (l.agent s.core.id) = false → l.skip = 0 →
      (l.bad = 0 → ∃ t, exec (.calendarLineLanding k) s = .next t ∧ t.core.lines.length + 1 = s.core.lines.length
        ∧ t.scr = memPutN s.scr (scrKey l.core l.off) l.bytes ∧ t.mem = s.mem)
      ∧ (l.bad ≠ 0 → ∃ t, exec (.calendarLineLanding k) s = .next t ∧ t.core.lines[k]? = some { l with land := 0 } ∧ t.mem = s.mem))

/-- A cycle of the bus ends (R188, R220): what has passed is gone, what has not stays. -/
def BusArrivalsPass : Prop :=
  ∀ s : State, ∃ t, exec .busArrival s = .next t ∧ t.core.bus = s.core.bus.filter (fun b => !b.passed s.now s.ctx)
    ∧ t.mem = s.mem ∧ t.scr = s.scr

/-- The events of the calendar and the bus complete (R216 to R220, R231 to R233). -/
def Obligations.CalendarLinesIssueReadAndLand : Prop := CalendarSlotsIssueLines ∧ CalendarLinesAreReadAndLand ∧ BusArrivalsPass

/-! ## Flowstone, Rimstone and the fabric -/

/-- A report of a source is on its way to the front end (R425). -/
def Reported (t : State) (source : Nat) (detail : Word) : Prop := ∃ e ∈ t.reports, e.source = source ∧ e.detail = detail

/-- The steps of a Flowstone run (R337, R340 to R346): it takes its completion object, sends the row at its cursor, counts
positive answers and pauses on negative ones, commits its record and then acknowledges the rows of that commit, pauses on a fault, and
gives its slot up once DONE is committed and the object released; a stopped one gives it up with its commit; a run that is done and
meets a fault pauses too. The number of the report is the model's (log 13, DESIGN CHOICE). -/
def FlowstoneRunsAdvance : Prop :=
  ∀ (s : State) (n : Nat) (r : Run) (k : Pkt) (cause detail : Nat), s.flow n = some r →
    (r.rstate = 1 → r.soHeld = false → r.so = 0 → exec (.flowstoneSoGranted n) s = .next (s.setFlow { r with soHeld := true }))
    ∧ (∀ ws u, r.rstate = 1 → r.soHeld = false → r.so ≠ 0 → engSo r.soWho .acqX r.so s = .ok (ws, u) → soValid ws = true →
      soGranted .acqX (ws.getD 0 0) = true →
      exec (.flowstoneSoGranted n) s = .next ((u.engForget r.soWho).setFlow { r with soHeld := true, soOurs := true }))
    ∧ (∀ it bs bad u, (r.items s.fab.dev)[r.pickRow]? = some it →
      rowRead r.who 1000 0 (it.src.flatMap (fun q => pagesOf q.1 q.2)) s = .ok ((bs, bad), u) →
      ∀ i ∈ [Instr.flowstoneRowSend n, Instr.ckptChunkSend n], ∃ t o, exec i s = .next t ∧ o ∈ t.fab.out
        ∧ o.answer = none ∧ o.pkt.dst = it.dev ∧ o.pkt.stream = 6912 + n ∧ o.pkt.agency = r.agency
        ∧ (r.ckpt = false → o.pkt.vc = 4 ∧ o.pkt.body = .row r.hash it.shard it.box it.row it.dst bs bad)
        ∧ (r.ckpt = true → o.pkt.vc = 5 ∧ o.pkt.body = .chunk it.dst bs bad))
    ∧ (∀ o w bs x it, s.fab.out.find? (fun o => o.pkt.dst == k.src && o.pkt.stream == k.stream && o.pkt.num == k.num) = some o →
      k.body = .response w bs false →
      r.rows.find? (fun y => y.index == o.step && y.num == k.num && y.st == 0) = some x → (r.items s.fab.dev)[x.index]? = some it →
      (bits w 53 44 = 0 → ∃ t, exec (.flowstoneRowAck n k) s = .next t ∧ ∃ q ∈ t.flows, q.slot = n ∧ q.sent = r.sent + it.bytes)
      ∧ (bits w 53 44 ≠ 0 → r.rstate = 1 → ∃ t, exec (.flowstoneRowAck n k) s = .next t ∧ ∃ q ∈ t.flows, q.slot = n ∧ q.rstate = 2))
    ∧ (let b := r.begun s.fab.dev
       (r.commit = none → b.counted = [] ∧ b.changed = [] ∧ b.dirty = false
         ∧ ∃ c, b.commit = some c ∧ c.counted = r.counted ∧ c.sent = r.sent ∧ c.recv = r.recv)
       ∧ (∀ c u, b.commit = some c → commitE b c s = .ok ((), u) →
         (r.rstate ≠ 3 → exec (.flowstoneCommit n) s = .next (((u.engForget b.recWho).setFlow
           { b with commit := none, first := false, sentC := c.sent, recvC := c.recv }).ackCounted c.counted))
         ∧ (r.rstate = 3 → b.dirty = false → exec (.flowstoneCommit n) s
           = .next (((u.engForget b.recWho).dropFlow n).ackCounted c.counted))))
    ∧ (r.rstate = 4 → r.quiet = true → r.wait = none → (r.so = 0 → exec (.flowstoneRunDone n) s = .next (s.dropFlow n))
      ∧ ∀ ws u, r.so ≠ 0 → engSo r.soWho .rel r.so s = .ok (ws, u) →
        exec (.flowstoneRunDone n) s = .next ((u.engForget r.soWho).dropFlow n))
    ∧ (∀ c u, r.rstate ≠ 4 → r.wait = none → r.commit = none → r.so = 0 →
      (({ r with rstate := 4, dirty := true } : Run).begun s.fab.dev).commit = some c →
      commitE (({ r with rstate := 4, dirty := true } : Run).begun s.fab.dev) c (s.setFlow { r with rstate := 4, dirty := true })
        = .ok ((), u) → ∃ t, exec (.flowstoneRunDone n) s = .next t ∧ ∀ q ∈ t.flows, q.slot ≠ n)
    ∧ (r.rstate = 1 ∨ r.rstate = 4 → ∃ t, exec (.flowstoneFault n cause detail) s = .next t
        ∧ (∃ q ∈ t.flows, q.slot = n ∧ q.rstate = 2) ∧ Reported t 7 (w64 r.recVa))

/-- Rows and sweep signals that arrive (R343, R360, R369): a row is written at its destination and counted under the run with its hash,
and answered busy while no run waits for it; a signal of a package of the horizon's set is noted, answered busy while the horizon is
not open here, and refused once this package has closed it. That the sender's number names the horizon here too is the model's
reading (log 86, DEDUCED); how a message names the opening it belongs to, and the cause of the refusal, are the model's (log 133,
DESIGN CHOICE). -/
def RowsAndSignalsArrive : Prop :=
  ∀ (s : State) (k : Pkt), (s.rxFor k).place k.num = .now →
    (∀ h shard box row va bs bad, k.body = .row h shard box row va bs bad →
      (∀ r pa, s.flowFor h = some r → s.rowReady h = true →
        rowPlace { r.who with agency := k.agency } s (k.src == s.fab.dev) (r.wait.bind (fun w => if w.recv && w.refused then some w.va else none))
          (pagesOf va bs.length) = .at [(pa, bs.length)] →
        ∃ t, exec (.flowstoneRowReceive k) s = .next t ∧ t.mem = memPutN s.mem pa bs
          ∧ ∃ q ∈ t.flows, q.slot = r.slot ∧ ⟨k.src, k.stream, k.num, s.now⟩ ∈ q.counted)
      ∧ (s.flowFor h = none →
        exec (.flowstoneRowReceive k) s = .next ((s.taken k).sendPkt (pktReply k s.fab.dev 0 [] true))))
    ∧ (∀ ws, k.body = .other ws → k.src ≠ s.fab.dev → 6920 ≤ k.stream →
      let h := k.stream - 6920
      let n := (ws.getD 1 0).toNat
      let devs := (ws.drop 2).take 8
      let named := bitAt (devs.getD (s.fab.dev / 64) 0) (s.fab.dev % 64)
      (∀ z, s.horizon h = some z → z.opening = n → z.devWords = devs → k.src ∈ z.devs → ws.getD 0 0 = 32 →
        ∃ t z', exec (.sweepSignal k) s = .next t ∧ t.horizon h = some z' ∧ sigOf k.src ws ∈ z'.signals)
      ∧ (s.horizon h = none → named = true → s.openings h devs < n →
        exec (.sweepSignal k) s = .next ((s.taken k).sendPkt (pktReply k s.fab.dev 0 [] true)))
      ∧ (s.horizon h = none → n ≤ s.openings h devs →
        let u := (s.taken k).setRx (((s.taken k).rxFor k).done k.num (.response (unicastWord 1) [] false))
        exec (.sweepSignal k) s = .next ((u.sendPkt (pktReply k s.fab.dev (unicastWord 1) [] false)).release k)))

/-- The steps of a Flowstone run, and the rows and sweep signals that arrive (R337 to R346, R360, R369; logs 86 and 133). -/
def Obligations.FlowstoneRowsAndSweepSignalsMove : Prop := FlowstoneRunsAdvance ∧ RowsAndSignalsArrive

/-- Links (R304, R306 to R310, R423): a flit that passes its check clears the failures, and with the last one of a packet the packet
reaches the router; a failed one asks for replay, sixteen failures in a row take the link down; transit goes on by the route; the mode
register trains the link or takes it down; a key starts the link whose session stands; stop bits and replays act on the channel and the flits they name. The
number of the report is the model's (log 13, DESIGN CHOICE), and so is the sending of a packet at once (log 66, DESIGN CHOICE). -/
def Obligations.LinksCarryKeysAndFlits : Prop :=
  ∀ (s : State) (l vc first idx : Nat) (k : Pkt) (w : Word) (key : BitVec 256) (salt : BitVec 16) (stop : Bool) (table : List (Nat × Nat)),
    l < 6 → vc < 8 →
    let x := s.fab.links.getD l Link.reset
    let link := fun (t : State) => t.fab.links.getD l Link.reset
    (x.lstate = 3 → x.en = true → idx < pktFlits k →
      (flitVc k idx < 8 → (∀ i, i < pktFlits k → i ≠ idx → (i, k) ∈ x.rxGot) → ∃ t, exec (.flitReceive l true false ⟨k, idx⟩) s = .next t
        ∧ (l, k) ∈ t.fab.loop ∧ (link t).fails = 0 ∧ (link t).oldKey = none ∧ (link t).rxNum = x.rxNum + 1
        ∧ (link t).rxCount.getD (flitVc k idx) 0 = x.rxCount.getD (flitVc k idx) 0 + 1)
      ∧ ((∃ i, i < pktFlits k ∧ i ≠ idx ∧ (i, k) ∉ x.rxGot) → ∃ t, exec (.flitReceive l true false ⟨k, idx⟩) s = .next t
        ∧ (link t).rxGot = x.rxGot ++ [(idx, k)] ∧ (link t).fails = 0 ∧ t.fab.loop = s.fab.loop)
      ∧ (x.fails < 15 → ∃ t, exec (.flitReceive l false false ⟨k, idx⟩) s = .next t
        ∧ link t = { x with fails := x.fails + 1 } ∧ t.fab.loop = s.fab.loop ∧ Answer.replayRequest l x.rxNum ∈ t.answers)
      ∧ (15 ≤ x.fails → ∃ t, exec (.flitReceive l false false ⟨k, idx⟩) s = .next t
        ∧ (link t).lstate = 0 ∧ (link t).key = none ∧ Reported t 2 (w64 l)))
    ∧ (s.fab.nextLink k.dst = some l → ∃ t, exec (.transitForward k) s = .next t
      ∧ (∃ f ∈ (link t).waiting ++ (link t).replay, f.pkt = k ∧ f.idx + 1 = pktFlits k)
      ∧ (x.en = false → (link t).waiting = x.waiting ++ s.fab.flits l k))
    ∧ exec (.routeTableLoad table) s = .next { s with fab := { s.fab with routes := table } }
    ∧ (∃ t, exec (.linkModeWrite l w) s = .next t ∧ (link t).en = bitAt w 0 ∧ (link t).encl = bitAt w 7
      ∧ (link t).io.toNat = bits w 15 8 ∧ (bitAt w 0 = false → (link t).lstate = 0 ∧ (link t).key = none)
      ∧ (bitAt w 0 = true → (link t).lstate = if x.lstate = 0 then 1 else x.lstate))
    ∧ (s.sessionStands l = false → exec (.linkKeyInstall l key salt) s = .next s)
    ∧ (s.sessionStands l = true → x.barred = false → x.lstate = 2 ∨ x.lstate = 3 → ∃ t, exec (.linkKeyInstall l key salt) s = .next t ∧ (link t).key = some key
      ∧ (link t).oldKey = x.key ∧ (link t).lstate = 3 ∧ (link t).rxCount = Vector.replicate 8 0
      ∧ (link t).ioNow = if x.encl then 0 else x.io)
    ∧ (∃ t, exec (.linkStopGo l vc stop) s = .next t ∧ (link t).stop.getLsbD vc = stop
      ∧ ∀ j, j < 8 → j ≠ vc → (link t).stop.getLsbD j = x.stop.getLsbD j)
    ∧ (x.replay.length ≤ x.sentNum → x.sentNum - x.replay.length ≤ first → first < x.sentNum → x.replay.length ≤ 128 →
      x.waiting = [] → (∀ y ∈ x.replay, y.iv.isSome = true ∧ x.carries y = true) →
      ∃ t, exec (.replayRequest l first) s = .next t ∧ (link t).replay = x.replay ∧ (link t).sentNum = x.sentNum
        ∧ (link t).waiting = [])
    ∧ (x.lstate = 1 → ∃ t, exec (.linkTrainingDone l) s = .next t ∧ (link t).lstate = 2
      ∧ (s.fab.dev < neighbour s.fab.dims s.fab.dev l → Answer.spdm l 0xE4 [] [] ∈ t.answers
        ∧ ∃ e ∈ t.plat.spdm, e.peer = l ∧ e.asks = true ∧ e.stage = 1))

/-- Requests and responses (R303, R311 to R315): a request leaves with its timer, or is answered by cause 1 where no device is; one
that arrives in order is performed once and answered, a refusal performs nothing; the first response counts; an unanswered request
is sent again, and after eight resends is unreachable. -/
def Obligations.RequestsAreAnsweredOnce : Prop :=
  ∀ (s : State) (k : Pkt) (dst stream num : Nat),
    ((∀ g off ms bs pol to_, k.body ≠ .mcast g off ms bs pol to_) →
      (s.fab.populated k.dst = true → exec (.mappedRequestSend k) s
        = .next ((s.modOut k (fun o => { o with due := s.now + 30000 })).sendPkt k))
      ∧ (s.fab.populated k.dst = false → exec (.mappedRequestSend k) s
        = .next ((s.modOut k (fun o => { o with due := s.now + 30000 })).answered k (unicastWord 1) [])))
    ∧ ((s.rxFor k).place k.num = .now →
      let a := (s.taken k).answer k
      exec (.fabricRequestArrival k) s = .next (((a.2.2.setRx ((a.2.2.rxFor k).done k.num (.response a.1 a.2.1 false))).sendPkt
        (pktReply k a.2.2.fab.dev a.1 a.2.1 false)).release k)
      ∧ (∀ pa n pol, k.body = .read pa n pol → isHbm pa = true → s.admits pa k.agency = true → s.poisoned pa n = none →
        a.1 = unicastWord 0 ∧ a.2.1 = memGetN s.mem pa n ∧ a.2.2.mem = s.mem)
      ∧ (∀ pa bs pol, k.body = .write pa bs pol → isHbm pa = true → s.admits pa k.agency = true →
        a.1 = unicastWord 0 ∧ a.2.2.mem = memPutN s.mem pa bs)
      ∧ (∀ pa n, loadSpan k.body = some (pa, n) → isHbm pa = true → s.admits pa k.agency = false →
        a.1 = unicastWord 2 ∧ a.2.2 = s.taken k))
    ∧ (∀ b, (s.rxFor k).place k.num = .cached b → exec (.fabricRequestArrival k) s
        = .next ((s.taken k).sendPkt { pktReply k s.fab.dev 0 [] false with body := b }))
    ∧ (∀ o w bs, s.fab.out.find? (fun o => o.pkt.dst == k.src && o.pkt.stream == k.stream && o.pkt.num == k.num) = some o →
      (∀ ws, o.pkt.body ≠ .port ws) → k.body = .response w bs false →
      exec (.fabricResponseArrival k) s = .next ((s.taken k).answered o.pkt w bs))
    ∧ (∀ o pa n pol, s.outAt dst stream num = some o → o.pkt.body = .read pa n pol → o.pkt.vc ≠ 3 →
      (o.resends < 8 → exec (.requestResendTimer dst stream num) s = .next ((s.modOut o.pkt (fun o =>
        { o with due := s.now + 30000, resends := o.resends + 1 })).sendPkt o.pkt))
      ∧ (8 ≤ o.resends → exec (.requestResendTimer dst stream num) s = .next (s.answered o.pkt (unicastWord 6) [])))

/-- Ports, multicast and collectives (R317 to R328): a packet joins its port's inbound queue under the popper's header; a multicast
request is performed at each member and its responses merge up the tree; parts combine at their root and the result comes down into
the contributor's port. A multicast request's numbers for its members are the model's (log 19, DESIGN CHOICE), and so is the numbering
of the parts and of the result (log 119, DESIGN CHOICE). -/
def Obligations.PortsMulticastAndCollectivesDeliver : Prop :=
  ∀ (s : State) (k : Pkt) (l src stream num group op low : Nat) (w : Word) (ord : Option Nat),
    (∀ ws slot, k.body = .port ws → bits (ws.getD 0 0) 45 43 < 6 → (s.rxFor k).place k.num = .now →
      s.portHolder (bits (ws.getD 0 0) 53 46) = some (k.agency, slot, false) →
      ((s.coreAt (bits (ws.getD 0 0) 53 46)).inq.getD (bits (ws.getD 0 0) 45 43) []).length < 8 →
      ∃ t, exec (.portPacketArrival k) s = .next t
        ∧ (t.coreAt (bits (ws.getD 0 0) 53 46)).inq.getD (bits (ws.getD 0 0) 45 43) []
          = (s.coreAt (bits (ws.getD 0 0) 53 46)).inq.getD (bits (ws.getD 0 0) 45 43) [] ++ [popHeader k (ws.getD 0 0) :: ws.drop 1])
    ∧ (∀ g off ms bs pol to_, k.body = .mcast g off ms bs pol to_ →
      ((∀ e ∈ to_, e.1 ≠ s.fab.dev) → exec (.multicastMemberArrival l k) s = .next ((s.taken k).mcastSpread k (some l) to_ none))
      ∧ ((∃ e ∈ to_, e.1 = s.fab.dev) → (s.rxFor k).place (rxNum s.fab.dev k) = .now →
        let a := (s.taken k).mcastAnswer g off ms bs pol k.agency
        exec (.multicastMemberArrival l k) s = .next (((a.2.2.setRx ((a.2.2.rxFor k).done (rxNum s.fab.dev k)
          (.response a.1 (ordBytes a.2.1) false))).mcastSpread k (some l) to_ (some (a.1, a.2.1))).release k)
        ∧ (let base := bits (s.mgWord g 0) 47 16 * 2 ^ 16
           s.mgValid g = true → bitAt (s.mgWord g 0) 62 = true → s.mgAgency g = k.agency →
           off + bs.length ≤ bits (s.mgWord g 1) 12 0 * 2 ^ 16 → isHbm (base + off) = true → isHbm (base + off + bs.length - 1) = true →
           a.1 = unicastWord 0 ∧ a.2.2.mem = memPutN s.mem (base + off) bs)))
    ∧ (∀ m, s.mergeAt src stream num = some m → l ∈ m.awaited → exec (.multicastMerge l src stream num w ord) s
        = .next (s.mergeDone { m with awaited := m.awaited.erase l, word := (mergeWords m.word m.ord w ord).1,
                                      ord := (mergeWords m.word m.ord w ord).2,
                                      parts := m.parts.filter (fun p => p.link != l) }))
    ∧ (∀ c, s.fab.colls.find? (fun c => c.group == group) = some c → c.sent = false → (∀ x ∈ c.pkts, partLow x ≠ low) →
      k.body = .collUp group op low w → (s.rxFor k).place k.num = .now →
      ((∃ d ∈ s.collParts group, d ≠ low ∧ ∀ x ∈ c.pkts, partLow x ≠ d) → exec (.collectiveCombine group op low k) s
        = .next ((s.taken k).setColl { c with pkts := c.pkts ++ [k] }))
      ∧ ((∀ d ∈ s.collParts group, d = low ∨ ∃ x ∈ c.pkts, partLow x = d) → s.collRoot group = s.fab.dev →
        (∀ x ∈ c.pkts, ∃ o d v, x.body = .collUp group o d v) →
        ∃ t q, exec (.collectiveCombine group op low k) s = .next t ∧ (6, q) ∈ t.fab.loop ∧ q.vc = 3
          ∧ q.body = .collDown group c.op (combineParts c.op (put c.parts low w))))
    ∧ (∀ c p, s.fab.colls.find? (fun c => c.group == group) = some c → c.sent = true → c.lowest = some p →
      k.body = .collDown group op w → p.stream = k.stream → p.num = k.num →
      (c.core = none → ∃ t, exec (.collectiveResult group op k) s = .next t
        ∧ t.fab.colls = s.fab.colls.filter (fun x => x.group != group))
      ∧ (∀ n, c.core = some n → c.port < 6 → ((s.coreAt n).inq.getD c.port []).length < 8 →
        ∃ t, exec (.collectiveResult group op k) s = .next t ∧ (t.coreAt n).inq.getD c.port []
          = (s.coreAt n).inq.getD c.port [] ++ [[w64 (group * 2 ^ 52 + 2 ^ 40 + 2 ^ 32 + op * 2 ^ 24), w]]))

/-! ## The front end and the platform -/

/-- Queues (R400 to R403, R409): the scanner takes the next packet of a pending queue, advances its read index and writes it
back; a report of a sector marks its queue or takes an acknowledged signal away; a packet whose work is done gives its place
up and writes pk.done. That no queue is served while notification is off is the model's reading (log 88, DEDUCED). -/
def QueuesGiveAndCompletePackets : Prop :=
  ∀ (s : State) (q sector core slot : Nat) (w : Word) (p : Packet), s.MemWf →
    (s.scanNext = some q → qdEn (s.qd q 0) = false →
      ∃ t, exec .queueService s = .next t ∧ q ∉ t.fe.pending ∧ t.fe.packets = s.fe.packets ∧ t.fe.scan = (q + 1) % 4096)
    ∧ (∀ n wr rd at_ v, s.scanNext = some q → q < 4096 → qdEn (s.qd q 0) = true → bitAt s.fe.nbase 0 = true →
      qdBad (s.qd q 0) = false → at_ = bits s.fe.nbase 47 18 * 2 ^ 18 + 32 * q → wr = natOfBytes (memGetN s.mem at_ 4) →
      rd = bits (s.qd q 1) 31 0 → wr ≠ rd → sval 32 ((wr + 2 ^ 32 - rd) % 2 ^ 32) ≤ (2 ^ qdLg (s.qd q 0) : Nat) →
      n = bits ((wordsOfBytes 1 (memGetN s.mem (qdBase (s.qd q 0) + 256 * (rd % 2 ^ qdLg (s.qd q 0))) 8)).headD 0) 15 12 + 1 →
      v = State.touch { s with fe := { s.fe with pending := s.fe.pending.filter (· != q), scan := (q + 1) % 4096 } } at_ 4 .l2
        false (qdAgency (s.qd q 0)) →
      (∀ a ∈ slotAddrs (s.qd q 0) rd n, v.unreadable a 256 = false) →
      p = { uid := s.fe.nextUid, queue := q, index := rd, agency := qdAgency (s.qd q 0),
            words := wordsOfBytes (32 * n) ((slotAddrs (s.qd q 0) rd n).flatMap (fun a => memGetN s.mem a 256)), phase := 0,
            launch := 0, status := 0, node := none } →
      packetBad p = false → ∃ t, exec .queueService s = .next t ∧ t.fe.packets = s.fe.packets ++ [p]
        ∧ bits (t.qd q 1) 31 0 = (rd + n) % 2 ^ 32 ∧ memGetN t.mem (at_ + 8) 8 = bytesOfNat 8 ((rd + n) % 2 ^ 32))
    ∧ (bitAt s.fe.nbase 0 = true → sector < 4096 → ∃ t, exec (.notifyReport sector) s = .next t ∧ sector ∈ t.fe.pending)
    ∧ (bitAt s.fe.nbase 0 = false → exec (.notifyReport sector) s = .next s)
    ∧ exec (.nbaseWrite w) s = .next { s with fe := { s.fe with nbase := w &&& 0xFFFFFFFC0001 } }
    ∧ (core < 192 → slot < 4 → exec (.signalAck core slot) s
        = .next { s with ctx := s.ctx.acked core slot s.now, ctxs := s.ctxs.map (fun c => c.acked core slot s.now) })
    ∧ (s.packet p.uid = some p → s.packetDone p = true → ∃ t, exec (.packetComplete p.uid) s = .next t
        ∧ (∀ x ∈ t.fe.packets, x.uid ≠ p.uid)
        ∧ (p.nbuf = 0 → (p.dw 1).toNat ≠ 0 → isHbm (p.dw 1).toNat = true →
          memGetN t.mem (p.dw 1).toNat 8 = bytesOfNat 8 (p.queue * 2 ^ 52 + p.status * 2 ^ 48 + p.index)))

/-- Packets act (R404 to R411): the start actions come once, before each type does its work; then it waits to be completed (phase 3,
or 1 while an engine works); BUFS makes both columns at once; a condition that does not hold leaves its packet waiting; a place that
cannot be made leaves or faults its queue. That the start actions of a packet that waits are made once, before its wait, is the model's
reading (log 121, DEDUCED), and so are the places of the number and the supervisor core in a HORIZON packet (log 92, DEDUCED). -/
def PacketsActForTheirLaunches : Prop :=
  ∀ (s u : State) (p : Packet), s.packet p.uid = some p → p.phase = 0 →
    let acted := if p.begun then s else s.bufferActs p true
    let after := u.engForget p.who
    let waiting := after.setPacket { p with begun := true }
    (p.typ = 2 → exec (.bufs p.uid) s = .next (((s.bufferActs p true).bufferActs p false).setPacket { p with phase := 3 }))
    ∧ (p.typ = 3 → ∃ t, exec (.signal p.uid) s = .next t
      ∧ ∀ c ∈ t.allCtxs, c.isOf p.tgt (bits (p.body 0) 7 0) = true → c.ipend.getLsbD 0 = true)
    ∧ (p.typ = 4 → waitsoE p acted = .ok (true, u) → exec (.waitso p.uid) s = .next (after.setPacket { p with phase := 3 }))
    ∧ (p.typ = 4 → waitsoE p acted = .ok (false, u) → exec (.waitso p.uid) s = .next waiting)
    ∧ (∀ started, p.typ = 7 → reshardE p.who (p.body 0).toNat (p.body 1).toNat (p.body 2).toNat (some p.uid) acted = .ok (started, u) →
      exec (.reshard p.uid) s = .next (after.setPacket { p with phase := if started then 1 else 3 }))
    ∧ (∀ started, p.typ = 9 → ckptE p.who (p.body 0).toNat (p.body 1).toNat (some p.uid) acted = .ok (started, u) →
      exec (.pkCkpt p.uid) s = .next (after.setPacket { p with phase := if started then 1 else 3 }))
    ∧ (∀ st, p.typ = 8 → openE p.who (bits (p.body 1) 1 0) (p.body 0).toNat (bits (p.body 1) 9 2) acted = .ok (st, u) →
      exec (.horizon p.uid) s = .next (after.setPacket { p with phase := 3, status := st }))
    ∧ (p.typ = 5 → graphE p acted = .ok (none, u) → exec (.graph p.uid) s = .next waiting)
    ∧ (p.typ = 5 → graphE p acted = .ok (some none, u) → exec (.graph p.uid) s = .next (after.packetFault p 1))
    ∧ (∀ r, p.typ = 5 → graphE p acted = .ok (some (some r), u) → ∃ t, exec (.graph p.uid) s = .next t ∧ r ∈ t.fe.replays
      ∧ t.fe.graphGen r.recAt = r.gen)
    ∧ (∀ pa gen, p.typ = 6 → patchE p acted = .ok (some (pa, gen), u) → ∃ t, exec (.patch p.uid) s = .next t
      ∧ t.fe.graphGen pa = gen)
    ∧ (p.typ = 6 → patchE p acted = .ok (none, u) → exec (.patch p.uid) s = .next waiting)
    ∧ (∀ code, p.typ = 1 → s.places (p.body 1).toNat 0 p.cores = .error code → exec (.launch p.uid) s = .next ((s.noteLaunch p).packetFault p code))
    ∧ (∀ xs, p.typ = 1 → s.places (p.body 1).toNat 0 p.cores = .ok xs → s.placed p s.fe.nextLaunch xs = none →
      exec (.launch p.uid) s = .next s)
    ∧ (∀ xs cs l v, p.typ = 1 → s.places (p.body 1).toNat 0 p.cores = .ok xs → s.placed p s.fe.nextLaunch xs = some cs →
      l = { num := s.fe.nextLaunch, agency := p.agency, prio := qdPrio (s.qd p.queue 0), root := bits (p.body 0) 47 0,
            lock := bitAt (p.body 0) 63, ssave := (p.body 7).toNat, cores := p.cores, live := p.cores, uid := p.uid, bad := false } →
      v = s.readPlaces (p.body 1).toNat p.agency xs →
      launchE { p with launch := s.fe.nextLaunch, phase := 1 } cs { v with
        launches := v.launches ++ [l], fe := { v.fe with nextLaunch := (s.fe.nextLaunch + 1) % 2 ^ 32 } } = .ok ((), u) →
      ∃ t, exec (.launch p.uid) s = .next t ∧ ∀ e ∈ cs, e.2 ∈ t.allCtxs)

/-- A release lets every loaded context of its launch run (R81, R407), and a replay dispatches its lowest ready node (R410).
The age of a released context is the model's reading (log 99, DEDUCED). -/
def ReleasesAndNodesDispatch : Prop :=
  ∀ (s : State) (p : Packet) (r : Replay) (node : Nat) (c : Ctx), s.packet p.uid = some p →
    (p.typ = 1 → p.phase = 1 → ∃ t, exec (.launchRelease p.uid) s = .next t
      ∧ (∀ x ∈ t.allCtxs, x.launch = p.launch → x.status ≠ .loaded)
      ∧ (c ∈ s.allCtxs → c.launch = p.launch → c.status = .loaded →
        ∃ x ∈ t.allCtxs, x.core = c.core ∧ x.slot = c.slot ∧ x.launch = c.launch ∧ x.status = .ready ∧ x.lastIssue = s.now
          ∧ x.q0 = c.q0 ∧ x.s = c.s ∧ x.v = c.v)
      ∧ (c ∈ s.allCtxs → (∀ x ∈ s.allCtxs, x.launch = p.launch → x.status = .loaded → x.core = c.core → x = c) →
        c.launch = p.launch → c.status = .loaded → (s.coreAt c.core).running = none →
        (t.coreAt c.core).running = some c.slot ∧ (t.coreAt c.core).mode = none
          ∧ (t.coreAt c.core).el = Vector.replicate 4 Latch.zero))
    ∧ (∀ ws u q, s.fe.replays.find? (fun r => r.uid == p.uid) = some r → r.ready = some node →
      nodeE p.who (r.base + 4096 * node) s = .ok (ws, u) →
      q = { uid := s.fe.nextUid, queue := p.queue, index := p.index, agency := p.agency, words := ws, phase := 0, launch := 0,
            status := 0, node := some (p.uid, node) } → packetBad q = false → q.typ ≠ 5 → q.typ ≠ 6 → u.fe = s.fe →
      ∃ t, exec (.graphNodeDispatch p.uid node) s = .next t ∧ t.fe.packets = s.fe.packets ++ [q]
        ∧ ∀ x ∈ t.fe.replays, x.uid = p.uid → node ∈ x.sent)

/-- Queues, packets, releases and graph nodes (R400 to R411). -/
def Obligations.QueuesAndPacketsDoTheirWork : Prop := QueuesGiveAndCompletePackets ∧ PacketsActForTheirLaunches ∧ ReleasesAndNodesDispatch

/-- The host's control space and the memory system (R204, R228, R233, R401, R414, R415): a read answers its word, a write
answers, and changes no measurement register but for a write of mr.ext, which extends one; an invalidation drops a launch's translations and no other's; the scrubber
logs what it finds and poisons what it cannot correct; a stack's filter is cleared. Errors a pass finds are given by the event
(log 4, DESIGN CHOICE); which register a write of mr.ext extends, and by what digest, is free (log 93, DESIGN CHOICE). -/
def Obligations.HostAndMemorySystemEvents : Prop :=
  ∀ (s : State) (addr launch pa stack lo hi : Nat) (w : Word) (inSump : Bool),
    exec (.hostControlRead addr) s = .next { s with answers := s.answers ++
      [.word addr (if addr < 0xF00000000000 then 0 else s.ctlRead (addr - 0xF00000000000))] }
    ∧ (∃ t, exec (.hostControlWrite addr w) s = .next t ∧ Answer.wrote addr ∈ t.answers
      ∧ t.mem = s.mem ∧ t.scr = s.scr ∧ t.allCtxs = s.allCtxs
      ∧ (addr ≠ 0xF00001000200 → t.plat.mr = s.plat.mr)
      ∧ (addr = 0xF00001000200 → ∃ i d, i < 8 ∧ List.length d = 64
        ∧ t.plat.mr.getD i [] = shake256 64 (s.plat.mr.getD i [] ++ d) ∧ ∀ j, j ≠ i → t.plat.mr.getD j [] = s.plat.mr.getD j []))
    ∧ (∀ q, q < 4096 → addr = 0xF00000000000 + 32 * q → qdEn (s.qd q 0) = false → qdEn w = false ∨ qdBad w = false →
      ∃ t, exec (.hostControlWrite addr w) s = .next t ∧ ∀ j, j < 64 → j ≠ 62 → (t.qd q 0).getLsbD j = w.getLsbD j)
    ∧ (∃ t, exec (.tlbInvalidate launch none) s = .next t ∧ Answer.invalidated launch ∈ t.answers
      ∧ (∀ e ∈ t.core.tlb, e.launch ≠ launch) ∧ (∀ e ∈ t.ctlb, e.2.launch ≠ launch)
      ∧ ∀ e ∈ s.core.tlb, e.launch ≠ launch → e ∈ t.core.tlb)
    ∧ (∃ t, exec (.tlbInvalidate launch (some (lo, hi))) s = .next t
      ∧ (∀ e ∈ t.core.tlb, e.launch = launch → lo < e.base + e.size → ¬ e.base < hi)
      ∧ ∀ e ∈ s.core.tlb, e.launch ≠ launch ∨ hi ≤ e.base ∨ e.base + e.size ≤ lo → e ∈ t.core.tlb)
    ∧ (isHbm pa = true → (inSump = true → (lineHolding s.sump (pa / 32)).isSome = true) →
      s.upset (if inSump then .sump else .hbm) (pa / 32) = none → exec (.scrubPass pa inSump 0) s = .next s
      ∧ (∃ t e, exec (.scrubPass pa inSump 1) s = .next t ∧ t.poison = s.poison ∧ t.mem = s.mem
        ∧ (t.plat.errs.getD (hbmStack (pa / 32 * 32) % 8) ⟨[], 0, 0⟩).ents.head? = some e
        ∧ bits e.w0 59 56 = (if inSump then 3 else 1) ∧ bits e.w0 47 0 = pa / 32 * 32)
      ∧ ∃ t, exec (.scrubPass pa inSump 2) s = .next t ∧ t.mem = s.mem
        ∧ (inSump = false → pa / 32 ∈ t.poison)
        ∧ (inSump = true → ∃ l ∈ t.sump, l.line = pa / 128 ∧ l.bad.getLsbD (pa / 32 % 4) = true))
    ∧ exec (.sumpFilterClear stack) s = .next (s.setFilter ⟨stack, [], 0⟩)

/-- Boot and power (R419 to R421, R424, R426): a measurement register is extended by a digest; a boot counts and clears the
registers; a step whose stages before have passed measures the digest of an image whose signature holds and journals how it ends, stuck
at a failed required stage, and left as started where the power is lost in it; a power loss leaves the journal; energy without counts is
idle; a throttle freezes its cores for its quanta and is reported; a shutdown ends every launch. The places in the journal, what a power
loss clears and the numbers of the reports are the model's (logs 94, 73 and 13, DEDUCED and DESIGN CHOICE). -/
def Obligations.BootMeasuresAndPowerEventsAct : Prop :=
  ∀ (s : State) (x : BootStep) (dies cores : List Nat) (hub hbm quanta i : Nat) (digest : List Byte),
    (i < 8 → digest.length = 64 → ∃ t, exec (.mrExt i digest) s = .next t
      ∧ t.plat.mr.getD i [] = shake256 64 (s.plat.mr.getD i [] ++ digest) ∧ ∀ j, j ≠ i → t.plat.mr.getD j [] = s.plat.mr.getD j [])
    ∧ (x.stage ≤ 6 → x.unit < stageUnits x.stage → s.plat.power = .off ∨ s.plat.power = .booting →
      State.bootedTo { s with plat := { s.plat with boot := s.plat.boot + 1 } } x.stage = true →
      journalState (look s.plat.journal (8 * x.stage + x.unit) 0) = 0 ∨ journalState (look s.plat.journal (8 * x.stage + x.unit) 0) = 2 →
      bits (look s.plat.journal (8 * x.stage + x.unit) 0) 31 0 ≠ (s.plat.boot + 1) % 2 ^ 32 →
      bits (look s.plat.journal 56 0) 31 0 ≠ (s.plat.boot + 1) % 2 ^ 32 →
      ∃ t, exec (.powerOnBoot [x]) s = .next t ∧ t.plat.boot = s.plat.boot + 1
        ∧ (x.ends ≠ .powerLost → t.plat.mr.getD x.stage []
          = if x.signed then shake256 64 (List.replicate 64 0 ++ shake256 64 x.image) else List.replicate 64 0)
        ∧ (x.ends = .passed → x.signed = true →
          t.plat.power = .booting ∧ journalState (look t.plat.journal (8 * x.stage + x.unit) 0) = 2)
        ∧ (x.ends = .failed ∨ (x.ends = .passed ∧ x.signed = false) →
          journalState (look t.plat.journal (8 * x.stage + x.unit) 0) = 3
          ∧ t.plat.power = if x.stage = 2 ∨ x.stage = 3 ∨ x.stage = 4 then .booting else .stuck)
        ∧ (x.ends = .powerLost →
          t.plat.power = .off ∧ journalState (look t.plat.journal (8 * x.stage + x.unit) 0) = 1))
    ∧ (∃ t, exec .powerLoss s = .next t ∧ t.plat.power = .off ∧ t.plat.journal = s.plat.journal ∧ t.plat.mr = Vector.replicate 8 (List.replicate 64 0)
      ∧ t.launches = [] ∧ t.mem = [])
    ∧ ((∀ k, look s.plat.mark k 0 = 0) → (∀ a, s.movedBytes a = 0) → s.plat.idle.toNat + (dies.take 4).sum + hub + hbm < 2 ^ 64 →
      ∃ t, exec (.energyInterval dies hub hbm) s = .next t
        ∧ t.plat.idle.toNat = s.plat.idle.toNat + (dies.take 4).sum + hub + hbm ∧ t.plat.acct = s.plat.acct)
    ∧ (∃ t, exec (.thermalThrottle cores quanta) s = .next t
      ∧ (s.core.id ∈ cores → t.core.throttle = max s.core.throttle (s.now + 64 * quanta))
      ∧ (s.core.id ∉ cores → (∀ c ∈ s.allCtxs, c.lock = false) → t.core = s.core) ∧ t.ctx = s.ctx
      ∧ Reported t 8 105)
    ∧ (∃ t, exec .thermalShutdown s = .next t ∧ t.plat.power = .shut ∧ Reported t 8 115
      ∧ ∀ l ∈ t.launches, l.bad = true)

/-- Attestation (R419, R422, R423): each request of a running package is answered; measurement block k is register k − 1; a
session of a link needs mutual authentication, and its end installs the link's key; a session that fails is logged and unkeys its link;
a package stuck in reset answers
GET_VERSION by an error. The codes are those of DSP0274 (log 95, PRESUMED), the values of keys are free (log 12, DESIGN
CHOICE). -/
def Obligations.AttestationAnswersRequests : Prop :=
  ∀ (s : State) (peer k : Nat) (nonce share : List Byte) (version : Bool), s.plat.power = .running →
    let replies := fun (t : State) (code : Nat) => ∃ fields bytes, Answer.spdm peer code fields bytes ∈ t.answers
    exec (.getVersion peer) s = .next { s with answers := s.answers ++ [.spdm peer 0x04 [0x1300] []] }
    ∧ exec (.getVersion peer) { s with plat := { s.plat with power := .stuck } } = .next { s with
        plat := { s.plat with power := .stuck }, answers := s.answers ++ [.spdm peer 0x7F [4] []] }
    ∧ exec (.getCapabilities peer) s = .next { s with answers := s.answers ++ [.spdm peer 0x61 [14, 0x3D6] []] }
    ∧ exec (.negotiateAlgorithms peer true) s = .next { s with answers := s.answers ++ [.spdm peer 0x63 [0x4252, 1, 2, 3, 2, 1] []] }
    ∧ exec (.negotiateAlgorithms peer false) s = .next { s with answers := s.answers ++ [.spdm peer 0x7F [1] []] }
    ∧ (∃ t, exec (.getDigests peer 0) s = .next t ∧ replies t 0x01) ∧ (∃ t, exec (.getCertificate peer 0) s = .next t ∧ replies t 0x02)
    ∧ (k ≠ 0 → ∃ t, exec (.getDigests peer k) s = .next t ∧ replies t 0x7F)
    ∧ (∃ t b, exec (.challenge peer 0 1 nonce) s = .next t
      ∧ Answer.spdm peer 0x03 [1] (shake256 64 (s.plat.mr.getD 5 []) ++ nonce ++ b) ∈ t.answers)
    ∧ (1 ≤ k → k ≤ 8 → exec (.getMeasurements peer k false nonce) s = .next { s with answers := s.answers ++
        [.spdm peer 0x60 [w64 k] (s.plat.mr.getD (k - 1) [])] })
    ∧ (∃ t, exec (.getMeasurements peer 1 true nonce) s = .next t ∧ replies t 0x60)
    ∧ (peer < 6 → ∃ t, exec (.keyExchange peer false share) s = .next t ∧ Answer.spdm peer 0x7F [1] [] ∈ t.answers
      ∧ Reported t 10 (w64 peer) ∧ (t.fab.links.getD peer Link.reset).barred = true ∧ ∀ e ∈ t.plat.spdm, e.peer ≠ peer)
    ∧ (∃ t b, exec (.keyExchange peer true share) s = .next t ∧ Answer.spdm peer 0x64 [w64 share.length, 0] b ∈ t.answers
      ∧ ∃ e ∈ t.plat.spdm, e.peer = peer ∧ e.asks = false ∧ e.stage = 1)
    ∧ ((∃ e ∈ s.plat.spdm, e.peer = peer ∧ e.asks = false ∧ e.stage = 1) →
      (∃ t, exec (.finish peer true) s = .next t ∧ replies t 0x65
        ∧ (∃ e ∈ t.plat.spdm, e.peer = peer ∧ e.stage = 2)
        ∧ (peer < 6 → (s.fab.links.getD peer Link.reset).lstate = 2 → (s.fab.links.getD peer Link.reset).barred = false →
          (t.fab.links.getD peer Link.reset).lstate = 3
          ∧ (t.fab.links.getD peer Link.reset).key = some (Config.sessionKey s.draw).1))
      ∧ (∃ t, exec (.finish peer false) s = .next t ∧ replies t 0x7F ∧ Reported t 10 (w64 peer)
        ∧ (peer < 6 → (t.fab.links.getD peer Link.reset).key = none)))
    ∧ exec (.spdmUnsupported peer version) s = .next { s with answers := s.answers ++
        [.spdm peer 0x7F [if version then 1 else 7] []] }
end

