-- ==== Sys2Proof/Laws/Encoding.lean ====
section
/-! SUPPORT. Decoding what the encoder gives: for every encoded instruction, the table of its slot position reads its own
word back (spec/03). -/

namespace Sys2Proof.Laws

/-! ## Numbers of words -/

/-- The number of two bit strings set side by side. -/
theorem append_toNat {n m : Nat} (x : BitVec n) (y : BitVec m) : (x ++ y).toNat = x.toNat * 2 ^ m + y.toNat := by
  rw [BitVec.toNat_append, Nat.shiftLeft_eq, Nat.mul_comm, Nat.two_pow_add_eq_or_of_lt y.isLt]

/-- A bit as a number. -/
theorem bit_toNat (b : Bool) : (BitVec.ofBool b).toNat = b.toNat := by cases b <;> rfl

/-- A field of a word from its number. -/
theorem field_eq {n : Nat} (w : SlotWord) (lo : Nat) (x : BitVec n) (h : w.toNat / 2 ^ lo % 2 ^ n = x.toNat) :
    w.extractLsb' lo n = x := by
  apply BitVec.eq_of_toNat_eq
  rw [BitVec.extractLsb'_toNat, Nat.shiftRight_eq_div_pow, h]

/-- A field of a word as a number. -/
theorem field_toNat (w : SlotWord) (lo n k : Nat) (h : w.toNat / 2 ^ lo % 2 ^ n = k) :
    (w.extractLsb' lo n).toNat = k := by
  rw [BitVec.extractLsb'_toNat, Nat.shiftRight_eq_div_pow, h]

/-- A bit of a word from its number. -/
theorem bit_eq (w : SlotWord) (k : Nat) (b : Bool) (h : w.toNat / 2 ^ k % 2 = b.toNat) : w.getLsbD k = b := by
  rw [BitVec.getLsbD, Nat.testBit_eq_decide_div_mod_eq, h]
  cases b <;> rfl

/-- Two adjacent fields. -/
theorem fields_eq (w : SlotWord) (x : BitVec 12) (h1 : w.toNat / 2 ^ 11 % 2 ^ 5 = x.toNat / 2 ^ 7)
    (h2 : w.toNat % 2 ^ 7 = x.toNat % 2 ^ 7) : w.extractLsb' 11 5 ++ w.extractLsb' 0 7 = x := by
  apply BitVec.eq_of_toNat_eq
  rw [append_toNat, BitVec.extractLsb'_toNat, BitVec.extractLsb'_toNat, Nat.shiftRight_eq_div_pow,
    Nat.shiftRight_eq_div_pow, h1, Nat.pow_zero, Nat.div_one, h2]
  omega

/-- A word and a mask of some fields share no bit when those fields are zero. -/
theorem unused_ok (w mask : SlotWord) (i : Instr) (fs : List (Nat × Nat))
    (hm : mask = fs.foldr (fun f m => (BitVec.ofNat 32 (2 ^ f.2 - 1)) <<< f.1 ||| m) 0)
    (h : ∀ f ∈ fs, w.toNat / 2 ^ f.1 % 2 ^ f.2 = 0) : unused w mask i = .ok i := by
  unfold unused
  rw [if_pos]
  subst hm
  induction fs with
  | nil => simp
  | cons f t ih =>
    have ht := ih (fun g hg => h g (List.mem_cons_of_mem _ hg))
    have hf := h f (List.mem_cons_self ..)
    simp only [List.foldr_cons]
    rw [BitVec.and_or_distrib_left, ht]
    show (w &&& (BitVec.ofNat 32 (2 ^ f.2 - 1)) <<< f.1) ||| 0#32 = 0#32
    rw [BitVec.or_zero]
    ext k hk
    have hb : (w.toNat / 2 ^ f.1 % 2 ^ f.2).testBit (k - f.1) = false := by rw [hf]; simp
    rw [Nat.testBit_mod_two_pow, Nat.testBit_div_two_pow] at hb
    by_cases hk1 : k < f.1
    · simp [hk1]
    · have he : k - f.1 + f.1 = k := by omega
      rw [he] at hb
      cases hw : w.toNat.testBit k with
      | false => simp [BitVec.getElem_eq_testBit_toNat, hw]
      | true =>
        have hj : ¬ k - f.1 < f.2 := by simpa [hw] using hb
        have hz : ((2 ^ f.2 - 1) * 2 ^ f.1 % 4294967296).testBit k = false := by
          rw [show (4294967296 : Nat) = 2 ^ 32 from rfl, Nat.testBit_mod_two_pow, Nat.testBit_mul_two_pow,
            Nat.testBit_two_pow_sub_one]
          simp [hj]
        simp [BitVec.getElem_eq_testBit_toNat, hw, Nat.shiftLeft_eq, hz]

set_option linter.unusedSimpArgs false

/-- The six conditions of R22. -/
theorem cond_cases : ∀ cc : BitVec 3, cc.toNat ≤ 5 → cc = 0 ∨ cc = 1 ∨ cc = 2 ∨ cc = 3 ∨ cc = 4 ∨ cc = 5 := by decide

/-! ## One lemma per encoded instruction -/

theorem decode_add (p : Pos) (d : BitVec 5) (a : BitVec 5) (b : BitVec 5) :
    decodeAlu p (encode (.add p d a b)) = some (.ok (.add p d a b)) := by
  have e : encode (.add p d a b) = packR 0x01 d a b 0x000 := rfl
  have W : (encode (.add p d a b)).toNat = 67108864 + d.toNat * 2 ^ 21 + a.toNat * 2 ^ 16 + b.toNat * 2 ^ 11 := by
    rw [e]
    simp only [packR, append_toNat, bit_toNat, BitVec.toNat_ofNat, BitVec.ofNat_eq_ofNat, BitVec.extractLsb'_toNat,
      Nat.shiftRight_eq_div_pow, Bool.toNat_false, Bool.toNat_true] <;> omega
  clear e
  generalize encode (.add p d a b) = w at W ⊢
  have h1 : fMajor w = 1 := field_toNat w 26 6 _ (by rw [W] <;> omega)
  have h2 : (fFun w).toNat = 0 := field_toNat w 0 11 _ (by rw [W] <;> omega)
  have h3 : fD w = d := field_eq w 21 d (by rw [W] <;> omega)
  have h4 : fA w = a := field_eq w 16 a (by rw [W] <;> omega)
  have h5 : fB w = b := field_eq w 11 b (by rw [W] <;> omega)
  simp only [decodeAlu, decodeScalarR, h1, h2, h3, h4, h5]

theorem decode_sub (p : Pos) (d : BitVec 5) (a : BitVec 5) (b : BitVec 5) :
    decodeAlu p (encode (.sub p d a b)) = some (.ok (.sub p d a b)) := by
  have e : encode (.sub p d a b) = packR 0x01 d a b 0x001 := rfl
  have W : (encode (.sub p d a b)).toNat = 67108865 + d.toNat * 2 ^ 21 + a.toNat * 2 ^ 16 + b.toNat * 2 ^ 11 := by
    rw [e]
    simp only [packR, append_toNat, bit_toNat, BitVec.toNat_ofNat, BitVec.ofNat_eq_ofNat, BitVec.extractLsb'_toNat,
      Nat.shiftRight_eq_div_pow, Bool.toNat_false, Bool.toNat_true] <;> omega
  clear e
  generalize encode (.sub p d a b) = w at W ⊢
  have h1 : fMajor w = 1 := field_toNat w 26 6 _ (by rw [W] <;> omega)
  have h2 : (fFun w).toNat = 1 := field_toNat w 0 11 _ (by rw [W] <;> omega)
  have h3 : fD w = d := field_eq w 21 d (by rw [W] <;> omega)
  have h4 : fA w = a := field_eq w 16 a (by rw [W] <;> omega)
  have h5 : fB w = b := field_eq w 11 b (by rw [W] <;> omega)
  simp only [decodeAlu, decodeScalarR, h1, h2, h3, h4, h5]

theorem decode_and (p : Pos) (d : BitVec 5) (a : BitVec 5) (b : BitVec 5) :
    decodeAlu p (encode (.and p d a b)) = some (.ok (.and p d a b)) := by
  have e : encode (.and p d a b) = packR 0x01 d a b 0x002 := rfl
  have W : (encode (.and p d a b)).toNat = 67108866 + d.toNat * 2 ^ 21 + a.toNat * 2 ^ 16 + b.toNat * 2 ^ 11 := by
    rw [e]
    simp only [packR, append_toNat, bit_toNat, BitVec.toNat_ofNat, BitVec.ofNat_eq_ofNat, BitVec.extractLsb'_toNat,
      Nat.shiftRight_eq_div_pow, Bool.toNat_false, Bool.toNat_true] <;> omega
  clear e
  generalize encode (.and p d a b) = w at W ⊢
  have h1 : fMajor w = 1 := field_toNat w 26 6 _ (by rw [W] <;> omega)
  have h2 : (fFun w).toNat = 2 := field_toNat w 0 11 _ (by rw [W] <;> omega)
  have h3 : fD w = d := field_eq w 21 d (by rw [W] <;> omega)
  have h4 : fA w = a := field_eq w 16 a (by rw [W] <;> omega)
  have h5 : fB w = b := field_eq w 11 b (by rw [W] <;> omega)
  simp only [decodeAlu, decodeScalarR, h1, h2, h3, h4, h5]

theorem decode_or (p : Pos) (d : BitVec 5) (a : BitVec 5) (b : BitVec 5) :
    decodeAlu p (encode (.or p d a b)) = some (.ok (.or p d a b)) := by
  have e : encode (.or p d a b) = packR 0x01 d a b 0x003 := rfl
  have W : (encode (.or p d a b)).toNat = 67108867 + d.toNat * 2 ^ 21 + a.toNat * 2 ^ 16 + b.toNat * 2 ^ 11 := by
    rw [e]
    simp only [packR, append_toNat, bit_toNat, BitVec.toNat_ofNat, BitVec.ofNat_eq_ofNat, BitVec.extractLsb'_toNat,
      Nat.shiftRight_eq_div_pow, Bool.toNat_false, Bool.toNat_true] <;> omega
  clear e
  generalize encode (.or p d a b) = w at W ⊢
  have h1 : fMajor w = 1 := field_toNat w 26 6 _ (by rw [W] <;> omega)
  have h2 : (fFun w).toNat = 3 := field_toNat w 0 11 _ (by rw [W] <;> omega)
  have h3 : fD w = d := field_eq w 21 d (by rw [W] <;> omega)
  have h4 : fA w = a := field_eq w 16 a (by rw [W] <;> omega)
  have h5 : fB w = b := field_eq w 11 b (by rw [W] <;> omega)
  simp only [decodeAlu, decodeScalarR, h1, h2, h3, h4, h5]

theorem decode_xor (p : Pos) (d : BitVec 5) (a : BitVec 5) (b : BitVec 5) :
    decodeAlu p (encode (.xor p d a b)) = some (.ok (.xor p d a b)) := by
  have e : encode (.xor p d a b) = packR 0x01 d a b 0x004 := rfl
  have W : (encode (.xor p d a b)).toNat = 67108868 + d.toNat * 2 ^ 21 + a.toNat * 2 ^ 16 + b.toNat * 2 ^ 11 := by
    rw [e]
    simp only [packR, append_toNat, bit_toNat, BitVec.toNat_ofNat, BitVec.ofNat_eq_ofNat, BitVec.extractLsb'_toNat,
      Nat.shiftRight_eq_div_pow, Bool.toNat_false, Bool.toNat_true] <;> omega
  clear e
  generalize encode (.xor p d a b) = w at W ⊢
  have h1 : fMajor w = 1 := field_toNat w 26 6 _ (by rw [W] <;> omega)
  have h2 : (fFun w).toNat = 4 := field_toNat w 0 11 _ (by rw [W] <;> omega)
  have h3 : fD w = d := field_eq w 21 d (by rw [W] <;> omega)
  have h4 : fA w = a := field_eq w 16 a (by rw [W] <;> omega)
  have h5 : fB w = b := field_eq w 11 b (by rw [W] <;> omega)
  simp only [decodeAlu, decodeScalarR, h1, h2, h3, h4, h5]

theorem decode_andn (p : Pos) (d : BitVec 5) (a : BitVec 5) (b : BitVec 5) :
    decodeAlu p (encode (.andn p d a b)) = some (.ok (.andn p d a b)) := by
  have e : encode (.andn p d a b) = packR 0x01 d a b 0x005 := rfl
  have W : (encode (.andn p d a b)).toNat = 67108869 + d.toNat * 2 ^ 21 + a.toNat * 2 ^ 16 + b.toNat * 2 ^ 11 := by
    rw [e]
    simp only [packR, append_toNat, bit_toNat, BitVec.toNat_ofNat, BitVec.ofNat_eq_ofNat, BitVec.extractLsb'_toNat,
      Nat.shiftRight_eq_div_pow, Bool.toNat_false, Bool.toNat_true] <;> omega
  clear e
  generalize encode (.andn p d a b) = w at W ⊢
  have h1 : fMajor w = 1 := field_toNat w 26 6 _ (by rw [W] <;> omega)
  have h2 : (fFun w).toNat = 5 := field_toNat w 0 11 _ (by rw [W] <;> omega)
  have h3 : fD w = d := field_eq w 21 d (by rw [W] <;> omega)
  have h4 : fA w = a := field_eq w 16 a (by rw [W] <;> omega)
  have h5 : fB w = b := field_eq w 11 b (by rw [W] <;> omega)
  simp only [decodeAlu, decodeScalarR, h1, h2, h3, h4, h5]

theorem decode_shl (p : Pos) (d : BitVec 5) (a : BitVec 5) (b : BitVec 5) :
    decodeAlu p (encode (.shl p d a b)) = some (.ok (.shl p d a b)) := by
  have e : encode (.shl p d a b) = packR 0x01 d a b 0x006 := rfl
  have W : (encode (.shl p d a b)).toNat = 67108870 + d.toNat * 2 ^ 21 + a.toNat * 2 ^ 16 + b.toNat * 2 ^ 11 := by
    rw [e]
    simp only [packR, append_toNat, bit_toNat, BitVec.toNat_ofNat, BitVec.ofNat_eq_ofNat, BitVec.extractLsb'_toNat,
      Nat.shiftRight_eq_div_pow, Bool.toNat_false, Bool.toNat_true] <;> omega
  clear e
  generalize encode (.shl p d a b) = w at W ⊢
  have h1 : fMajor w = 1 := field_toNat w 26 6 _ (by rw [W] <;> omega)
  have h2 : (fFun w).toNat = 6 := field_toNat w 0 11 _ (by rw [W] <;> omega)
  have h3 : fD w = d := field_eq w 21 d (by rw [W] <;> omega)
  have h4 : fA w = a := field_eq w 16 a (by rw [W] <;> omega)
  have h5 : fB w = b := field_eq w 11 b (by rw [W] <;> omega)
  simp only [decodeAlu, decodeScalarR, h1, h2, h3, h4, h5]

theorem decode_shr (p : Pos) (d : BitVec 5) (a : BitVec 5) (b : BitVec 5) :
    decodeAlu p (encode (.shr p d a b)) = some (.ok (.shr p d a b)) := by
  have e : encode (.shr p d a b) = packR 0x01 d a b 0x007 := rfl
  have W : (encode (.shr p d a b)).toNat = 67108871 + d.toNat * 2 ^ 21 + a.toNat * 2 ^ 16 + b.toNat * 2 ^ 11 := by
    rw [e]
    simp only [packR, append_toNat, bit_toNat, BitVec.toNat_ofNat, BitVec.ofNat_eq_ofNat, BitVec.extractLsb'_toNat,
      Nat.shiftRight_eq_div_pow, Bool.toNat_false, Bool.toNat_true] <;> omega
  clear e
  generalize encode (.shr p d a b) = w at W ⊢
  have h1 : fMajor w = 1 := field_toNat w 26 6 _ (by rw [W] <;> omega)
  have h2 : (fFun w).toNat = 7 := field_toNat w 0 11 _ (by rw [W] <;> omega)
  have h3 : fD w = d := field_eq w 21 d (by rw [W] <;> omega)
  have h4 : fA w = a := field_eq w 16 a (by rw [W] <;> omega)
  have h5 : fB w = b := field_eq w 11 b (by rw [W] <;> omega)
  simp only [decodeAlu, decodeScalarR, h1, h2, h3, h4, h5]

theorem decode_sar (p : Pos) (d : BitVec 5) (a : BitVec 5) (b : BitVec 5) :
    decodeAlu p (encode (.sar p d a b)) = some (.ok (.sar p d a b)) := by
  have e : encode (.sar p d a b) = packR 0x01 d a b 0x008 := rfl
  have W : (encode (.sar p d a b)).toNat = 67108872 + d.toNat * 2 ^ 21 + a.toNat * 2 ^ 16 + b.toNat * 2 ^ 11 := by
    rw [e]
    simp only [packR, append_toNat, bit_toNat, BitVec.toNat_ofNat, BitVec.ofNat_eq_ofNat, BitVec.extractLsb'_toNat,
      Nat.shiftRight_eq_div_pow, Bool.toNat_false, Bool.toNat_true] <;> omega
  clear e
  generalize encode (.sar p d a b) = w at W ⊢
  have h1 : fMajor w = 1 := field_toNat w 26 6 _ (by rw [W] <;> omega)
  have h2 : (fFun w).toNat = 8 := field_toNat w 0 11 _ (by rw [W] <;> omega)
  have h3 : fD w = d := field_eq w 21 d (by rw [W] <;> omega)
  have h4 : fA w = a := field_eq w 16 a (by rw [W] <;> omega)
  have h5 : fB w = b := field_eq w 11 b (by rw [W] <;> omega)
  simp only [decodeAlu, decodeScalarR, h1, h2, h3, h4, h5]

theorem decode_min (p : Pos) (d : BitVec 5) (a : BitVec 5) (b : BitVec 5) :
    decodeAlu p (encode (.min p d a b)) = some (.ok (.min p d a b)) := by
  have e : encode (.min p d a b) = packR 0x01 d a b 0x009 := rfl
  have W : (encode (.min p d a b)).toNat = 67108873 + d.toNat * 2 ^ 21 + a.toNat * 2 ^ 16 + b.toNat * 2 ^ 11 := by
    rw [e]
    simp only [packR, append_toNat, bit_toNat, BitVec.toNat_ofNat, BitVec.ofNat_eq_ofNat, BitVec.extractLsb'_toNat,
      Nat.shiftRight_eq_div_pow, Bool.toNat_false, Bool.toNat_true] <;> omega
  clear e
  generalize encode (.min p d a b) = w at W ⊢
  have h1 : fMajor w = 1 := field_toNat w 26 6 _ (by rw [W] <;> omega)
  have h2 : (fFun w).toNat = 9 := field_toNat w 0 11 _ (by rw [W] <;> omega)
  have h3 : fD w = d := field_eq w 21 d (by rw [W] <;> omega)
  have h4 : fA w = a := field_eq w 16 a (by rw [W] <;> omega)
  have h5 : fB w = b := field_eq w 11 b (by rw [W] <;> omega)
  simp only [decodeAlu, decodeScalarR, h1, h2, h3, h4, h5]

theorem decode_max (p : Pos) (d : BitVec 5) (a : BitVec 5) (b : BitVec 5) :
    decodeAlu p (encode (.max p d a b)) = some (.ok (.max p d a b)) := by
  have e : encode (.max p d a b) = packR 0x01 d a b 0x00A := rfl
  have W : (encode (.max p d a b)).toNat = 67108874 + d.toNat * 2 ^ 21 + a.toNat * 2 ^ 16 + b.toNat * 2 ^ 11 := by
    rw [e]
    simp only [packR, append_toNat, bit_toNat, BitVec.toNat_ofNat, BitVec.ofNat_eq_ofNat, BitVec.extractLsb'_toNat,
      Nat.shiftRight_eq_div_pow, Bool.toNat_false, Bool.toNat_true] <;> omega
  clear e
  generalize encode (.max p d a b) = w at W ⊢
  have h1 : fMajor w = 1 := field_toNat w 26 6 _ (by rw [W] <;> omega)
  have h2 : (fFun w).toNat = 10 := field_toNat w 0 11 _ (by rw [W] <;> omega)
  have h3 : fD w = d := field_eq w 21 d (by rw [W] <;> omega)
  have h4 : fA w = a := field_eq w 16 a (by rw [W] <;> omega)
  have h5 : fB w = b := field_eq w 11 b (by rw [W] <;> omega)
  simp only [decodeAlu, decodeScalarR, h1, h2, h3, h4, h5]

theorem decode_minn (p : Pos) (d : BitVec 5) (a : BitVec 5) (b : BitVec 5) :
    decodeAlu p (encode (.minn p d a b)) = some (.ok (.minn p d a b)) := by
  have e : encode (.minn p d a b) = packR 0x01 d a b 0x00B := rfl
  have W : (encode (.minn p d a b)).toNat = 67108875 + d.toNat * 2 ^ 21 + a.toNat * 2 ^ 16 + b.toNat * 2 ^ 11 := by
    rw [e]
    simp only [packR, append_toNat, bit_toNat, BitVec.toNat_ofNat, BitVec.ofNat_eq_ofNat, BitVec.extractLsb'_toNat,
      Nat.shiftRight_eq_div_pow, Bool.toNat_false, Bool.toNat_true] <;> omega
  clear e
  generalize encode (.minn p d a b) = w at W ⊢
  have h1 : fMajor w = 1 := field_toNat w 26 6 _ (by rw [W] <;> omega)
  have h2 : (fFun w).toNat = 11 := field_toNat w 0 11 _ (by rw [W] <;> omega)
  have h3 : fD w = d := field_eq w 21 d (by rw [W] <;> omega)
  have h4 : fA w = a := field_eq w 16 a (by rw [W] <;> omega)
  have h5 : fB w = b := field_eq w 11 b (by rw [W] <;> omega)
  simp only [decodeAlu, decodeScalarR, h1, h2, h3, h4, h5]

theorem decode_maxn (p : Pos) (d : BitVec 5) (a : BitVec 5) (b : BitVec 5) :
    decodeAlu p (encode (.maxn p d a b)) = some (.ok (.maxn p d a b)) := by
  have e : encode (.maxn p d a b) = packR 0x01 d a b 0x00C := rfl
  have W : (encode (.maxn p d a b)).toNat = 67108876 + d.toNat * 2 ^ 21 + a.toNat * 2 ^ 16 + b.toNat * 2 ^ 11 := by
    rw [e]
    simp only [packR, append_toNat, bit_toNat, BitVec.toNat_ofNat, BitVec.ofNat_eq_ofNat, BitVec.extractLsb'_toNat,
      Nat.shiftRight_eq_div_pow, Bool.toNat_false, Bool.toNat_true] <;> omega
  clear e
  generalize encode (.maxn p d a b) = w at W ⊢
  have h1 : fMajor w = 1 := field_toNat w 26 6 _ (by rw [W] <;> omega)
  have h2 : (fFun w).toNat = 12 := field_toNat w 0 11 _ (by rw [W] <;> omega)
  have h3 : fD w = d := field_eq w 21 d (by rw [W] <;> omega)
  have h4 : fA w = a := field_eq w 16 a (by rw [W] <;> omega)
  have h5 : fB w = b := field_eq w 11 b (by rw [W] <;> omega)
  simp only [decodeAlu, decodeScalarR, h1, h2, h3, h4, h5]

theorem decode_sel (p : Pos) (d : BitVec 5) (a : BitVec 5) (b : BitVec 5) :
    decodeAlu p (encode (.sel p d a b)) = some (.ok (.sel p d a b)) := by
  have e : encode (.sel p d a b) = packR 0x01 d a b 0x00D := rfl
  have W : (encode (.sel p d a b)).toNat = 67108877 + d.toNat * 2 ^ 21 + a.toNat * 2 ^ 16 + b.toNat * 2 ^ 11 := by
    rw [e]
    simp only [packR, append_toNat, bit_toNat, BitVec.toNat_ofNat, BitVec.ofNat_eq_ofNat, BitVec.extractLsb'_toNat,
      Nat.shiftRight_eq_div_pow, Bool.toNat_false, Bool.toNat_true] <;> omega
  clear e
  generalize encode (.sel p d a b) = w at W ⊢
  have h1 : fMajor w = 1 := field_toNat w 26 6 _ (by rw [W] <;> omega)
  have h2 : (fFun w).toNat = 13 := field_toNat w 0 11 _ (by rw [W] <;> omega)
  have h3 : fD w = d := field_eq w 21 d (by rw [W] <;> omega)
  have h4 : fA w = a := field_eq w 16 a (by rw [W] <;> omega)
  have h5 : fB w = b := field_eq w 11 b (by rw [W] <;> omega)
  simp only [decodeAlu, decodeScalarR, h1, h2, h3, h4, h5]

theorem decode_slt (p : Pos) (cc : BitVec 3) (d : BitVec 5) (a : BitVec 5) (b : BitVec 5) (hc : cc.toNat ≤ 5) :
    decodeAlu p (encode (.slt p cc d a b)) = some (.ok (.slt p cc d a b)) := by
  have e : encode (.slt p cc d a b) = packR 0x01 d a b ((0x02 : BitVec 8) ++ cc) := rfl
  have W : (encode (.slt p cc d a b)).toNat = 67108880 + d.toNat * 2 ^ 21 + a.toNat * 2 ^ 16 + b.toNat * 2 ^ 11 + cc.toNat := by
    rw [e]
    simp only [packR, append_toNat, bit_toNat, BitVec.toNat_ofNat, BitVec.ofNat_eq_ofNat, BitVec.extractLsb'_toNat,
      Nat.shiftRight_eq_div_pow, Bool.toNat_false, Bool.toNat_true] <;> omega
  clear e
  generalize encode (.slt p cc d a b) = w at W ⊢
  have h1 : fMajor w = 1 := field_toNat w 26 6 _ (by rw [W] <;> omega)
  have hf : (fFun w).toNat = 16 + cc.toNat := field_toNat w 0 11 _ (by rw [W] <;> omega)
  have h2 : fD w = d := field_eq w 21 d (by rw [W] <;> omega)
  have h3 : fA w = a := field_eq w 16 a (by rw [W] <;> omega)
  have h4 : fB w = b := field_eq w 11 b (by rw [W] <;> omega)
  have hcs : cc = 0 ∨ cc = 1 ∨ cc = 2 ∨ cc = 3 ∨ cc = 4 ∨ cc = 5 := cond_cases cc hc
  rcases hcs with rfl | rfl | rfl | rfl | rfl | rfl <;>
    simp [decodeAlu, decodeScalarR, hf, h1, h2, h3, h4]

theorem decode_mul (p : Pos) (d : BitVec 5) (a : BitVec 5) (b : BitVec 5) :
    decodeAlu p (encode (.mul p d a b)) = some (.ok (.mul p d a b)) := by
  have e : encode (.mul p d a b) = packR 0x01 d a b 0x020 := rfl
  have W : (encode (.mul p d a b)).toNat = 67108896 + d.toNat * 2 ^ 21 + a.toNat * 2 ^ 16 + b.toNat * 2 ^ 11 := by
    rw [e]
    simp only [packR, append_toNat, bit_toNat, BitVec.toNat_ofNat, BitVec.ofNat_eq_ofNat, BitVec.extractLsb'_toNat,
      Nat.shiftRight_eq_div_pow, Bool.toNat_false, Bool.toNat_true] <;> omega
  clear e
  generalize encode (.mul p d a b) = w at W ⊢
  have h1 : fMajor w = 1 := field_toNat w 26 6 _ (by rw [W] <;> omega)
  have h2 : (fFun w).toNat = 32 := field_toNat w 0 11 _ (by rw [W] <;> omega)
  have h3 : fD w = d := field_eq w 21 d (by rw [W] <;> omega)
  have h4 : fA w = a := field_eq w 16 a (by rw [W] <;> omega)
  have h5 : fB w = b := field_eq w 11 b (by rw [W] <;> omega)
  simp only [decodeAlu, decodeScalarR, h1, h2, h3, h4, h5]

theorem decode_mulh (p : Pos) (d : BitVec 5) (a : BitVec 5) (b : BitVec 5) :
    decodeAlu p (encode (.mulh p d a b)) = some (.ok (.mulh p d a b)) := by
  have e : encode (.mulh p d a b) = packR 0x01 d a b 0x021 := rfl
  have W : (encode (.mulh p d a b)).toNat = 67108897 + d.toNat * 2 ^ 21 + a.toNat * 2 ^ 16 + b.toNat * 2 ^ 11 := by
    rw [e]
    simp only [packR, append_toNat, bit_toNat, BitVec.toNat_ofNat, BitVec.ofNat_eq_ofNat, BitVec.extractLsb'_toNat,
      Nat.shiftRight_eq_div_pow, Bool.toNat_false, Bool.toNat_true] <;> omega
  clear e
  generalize encode (.mulh p d a b) = w at W ⊢
  have h1 : fMajor w = 1 := field_toNat w 26 6 _ (by rw [W] <;> omega)
  have h2 : (fFun w).toNat = 33 := field_toNat w 0 11 _ (by rw [W] <;> omega)
  have h3 : fD w = d := field_eq w 21 d (by rw [W] <;> omega)
  have h4 : fA w = a := field_eq w 16 a (by rw [W] <;> omega)
  have h5 : fB w = b := field_eq w 11 b (by rw [W] <;> omega)
  simp only [decodeAlu, decodeScalarR, h1, h2, h3, h4, h5]

theorem decode_mulhn (p : Pos) (d : BitVec 5) (a : BitVec 5) (b : BitVec 5) :
    decodeAlu p (encode (.mulhn p d a b)) = some (.ok (.mulhn p d a b)) := by
  have e : encode (.mulhn p d a b) = packR 0x01 d a b 0x022 := rfl
  have W : (encode (.mulhn p d a b)).toNat = 67108898 + d.toNat * 2 ^ 21 + a.toNat * 2 ^ 16 + b.toNat * 2 ^ 11 := by
    rw [e]
    simp only [packR, append_toNat, bit_toNat, BitVec.toNat_ofNat, BitVec.ofNat_eq_ofNat, BitVec.extractLsb'_toNat,
      Nat.shiftRight_eq_div_pow, Bool.toNat_false, Bool.toNat_true] <;> omega
  clear e
  generalize encode (.mulhn p d a b) = w at W ⊢
  have h1 : fMajor w = 1 := field_toNat w 26 6 _ (by rw [W] <;> omega)
  have h2 : (fFun w).toNat = 34 := field_toNat w 0 11 _ (by rw [W] <;> omega)
  have h3 : fD w = d := field_eq w 21 d (by rw [W] <;> omega)
  have h4 : fA w = a := field_eq w 16 a (by rw [W] <;> omega)
  have h5 : fB w = b := field_eq w 11 b (by rw [W] <;> omega)
  simp only [decodeAlu, decodeScalarR, h1, h2, h3, h4, h5]

theorem decode_div (p : Pos) (d : BitVec 5) (a : BitVec 5) (b : BitVec 5) :
    decodeAlu p (encode (.div p d a b)) = some (.ok (.div p d a b)) := by
  have e : encode (.div p d a b) = packR 0x01 d a b 0x024 := rfl
  have W : (encode (.div p d a b)).toNat = 67108900 + d.toNat * 2 ^ 21 + a.toNat * 2 ^ 16 + b.toNat * 2 ^ 11 := by
    rw [e]
    simp only [packR, append_toNat, bit_toNat, BitVec.toNat_ofNat, BitVec.ofNat_eq_ofNat, BitVec.extractLsb'_toNat,
      Nat.shiftRight_eq_div_pow, Bool.toNat_false, Bool.toNat_true] <;> omega
  clear e
  generalize encode (.div p d a b) = w at W ⊢
  have h1 : fMajor w = 1 := field_toNat w 26 6 _ (by rw [W] <;> omega)
  have h2 : (fFun w).toNat = 36 := field_toNat w 0 11 _ (by rw [W] <;> omega)
  have h3 : fD w = d := field_eq w 21 d (by rw [W] <;> omega)
  have h4 : fA w = a := field_eq w 16 a (by rw [W] <;> omega)
  have h5 : fB w = b := field_eq w 11 b (by rw [W] <;> omega)
  simp only [decodeAlu, decodeScalarR, h1, h2, h3, h4, h5]

theorem decode_divn (p : Pos) (d : BitVec 5) (a : BitVec 5) (b : BitVec 5) :
    decodeAlu p (encode (.divn p d a b)) = some (.ok (.divn p d a b)) := by
  have e : encode (.divn p d a b) = packR 0x01 d a b 0x025 := rfl
  have W : (encode (.divn p d a b)).toNat = 67108901 + d.toNat * 2 ^ 21 + a.toNat * 2 ^ 16 + b.toNat * 2 ^ 11 := by
    rw [e]
    simp only [packR, append_toNat, bit_toNat, BitVec.toNat_ofNat, BitVec.ofNat_eq_ofNat, BitVec.extractLsb'_toNat,
      Nat.shiftRight_eq_div_pow, Bool.toNat_false, Bool.toNat_true] <;> omega
  clear e
  generalize encode (.divn p d a b) = w at W ⊢
  have h1 : fMajor w = 1 := field_toNat w 26 6 _ (by rw [W] <;> omega)
  have h2 : (fFun w).toNat = 37 := field_toNat w 0 11 _ (by rw [W] <;> omega)
  have h3 : fD w = d := field_eq w 21 d (by rw [W] <;> omega)
  have h4 : fA w = a := field_eq w 16 a (by rw [W] <;> omega)
  have h5 : fB w = b := field_eq w 11 b (by rw [W] <;> omega)
  simp only [decodeAlu, decodeScalarR, h1, h2, h3, h4, h5]

theorem decode_rem (p : Pos) (d : BitVec 5) (a : BitVec 5) (b : BitVec 5) :
    decodeAlu p (encode (.rem p d a b)) = some (.ok (.rem p d a b)) := by
  have e : encode (.rem p d a b) = packR 0x01 d a b 0x026 := rfl
  have W : (encode (.rem p d a b)).toNat = 67108902 + d.toNat * 2 ^ 21 + a.toNat * 2 ^ 16 + b.toNat * 2 ^ 11 := by
    rw [e]
    simp only [packR, append_toNat, bit_toNat, BitVec.toNat_ofNat, BitVec.ofNat_eq_ofNat, BitVec.extractLsb'_toNat,
      Nat.shiftRight_eq_div_pow, Bool.toNat_false, Bool.toNat_true] <;> omega
  clear e
  generalize encode (.rem p d a b) = w at W ⊢
  have h1 : fMajor w = 1 := field_toNat w 26 6 _ (by rw [W] <;> omega)
  have h2 : (fFun w).toNat = 38 := field_toNat w 0 11 _ (by rw [W] <;> omega)
  have h3 : fD w = d := field_eq w 21 d (by rw [W] <;> omega)
  have h4 : fA w = a := field_eq w 16 a (by rw [W] <;> omega)
  have h5 : fB w = b := field_eq w 11 b (by rw [W] <;> omega)
  simp only [decodeAlu, decodeScalarR, h1, h2, h3, h4, h5]

theorem decode_remn (p : Pos) (d : BitVec 5) (a : BitVec 5) (b : BitVec 5) :
    decodeAlu p (encode (.remn p d a b)) = some (.ok (.remn p d a b)) := by
  have e : encode (.remn p d a b) = packR 0x01 d a b 0x027 := rfl
  have W : (encode (.remn p d a b)).toNat = 67108903 + d.toNat * 2 ^ 21 + a.toNat * 2 ^ 16 + b.toNat * 2 ^ 11 := by
    rw [e]
    simp only [packR, append_toNat, bit_toNat, BitVec.toNat_ofNat, BitVec.ofNat_eq_ofNat, BitVec.extractLsb'_toNat,
      Nat.shiftRight_eq_div_pow, Bool.toNat_false, Bool.toNat_true] <;> omega
  clear e
  generalize encode (.remn p d a b) = w at W ⊢
  have h1 : fMajor w = 1 := field_toNat w 26 6 _ (by rw [W] <;> omega)
  have h2 : (fFun w).toNat = 39 := field_toNat w 0 11 _ (by rw [W] <;> omega)
  have h3 : fD w = d := field_eq w 21 d (by rw [W] <;> omega)
  have h4 : fA w = a := field_eq w 16 a (by rw [W] <;> omega)
  have h5 : fB w = b := field_eq w 11 b (by rw [W] <;> omega)
  simp only [decodeAlu, decodeScalarR, h1, h2, h3, h4, h5]

theorem decode_clz (p : Pos) (d : BitVec 5) (a : BitVec 5) :
    decodeAlu p (encode (.clz p d a)) = some (.ok (.clz p d a)) := by
  have e : encode (.clz p d a) = packR 0x01 d a 0 0x030 := rfl
  have W : (encode (.clz p d a)).toNat = 67108912 + d.toNat * 2 ^ 21 + a.toNat * 2 ^ 16 := by
    rw [e]
    simp only [packR, append_toNat, bit_toNat, BitVec.toNat_ofNat, BitVec.ofNat_eq_ofNat, BitVec.extractLsb'_toNat,
      Nat.shiftRight_eq_div_pow, Bool.toNat_false, Bool.toNat_true] <;> omega
  clear e
  generalize encode (.clz p d a) = w at W ⊢
  have h1 : fMajor w = 1 := field_toNat w 26 6 _ (by rw [W] <;> omega)
  have h2 : (fFun w).toNat = 48 := field_toNat w 0 11 _ (by rw [W] <;> omega)
  have h3 : fD w = d := field_eq w 21 d (by rw [W] <;> omega)
  have h4 : fA w = a := field_eq w 16 a (by rw [W] <;> omega)
  have U : ∀ i, unused w 0x0000F800 i = .ok i := fun i => unused_ok w _ i [(11, 5)] (by decide)
    (by simp only [List.forall_mem_cons, W] <;> simp <;> omega)
  simp only [decodeAlu, decodeScalarR, h1, h2, h3, h4, U]

theorem decode_ctz (p : Pos) (d : BitVec 5) (a : BitVec 5) :
    decodeAlu p (encode (.ctz p d a)) = some (.ok (.ctz p d a)) := by
  have e : encode (.ctz p d a) = packR 0x01 d a 0 0x031 := rfl
  have W : (encode (.ctz p d a)).toNat = 67108913 + d.toNat * 2 ^ 21 + a.toNat * 2 ^ 16 := by
    rw [e]
    simp only [packR, append_toNat, bit_toNat, BitVec.toNat_ofNat, BitVec.ofNat_eq_ofNat, BitVec.extractLsb'_toNat,
      Nat.shiftRight_eq_div_pow, Bool.toNat_false, Bool.toNat_true] <;> omega
  clear e
  generalize encode (.ctz p d a) = w at W ⊢
  have h1 : fMajor w = 1 := field_toNat w 26 6 _ (by rw [W] <;> omega)
  have h2 : (fFun w).toNat = 49 := field_toNat w 0 11 _ (by rw [W] <;> omega)
  have h3 : fD w = d := field_eq w 21 d (by rw [W] <;> omega)
  have h4 : fA w = a := field_eq w 16 a (by rw [W] <;> omega)
  have U : ∀ i, unused w 0x0000F800 i = .ok i := fun i => unused_ok w _ i [(11, 5)] (by decide)
    (by simp only [List.forall_mem_cons, W] <;> simp <;> omega)
  simp only [decodeAlu, decodeScalarR, h1, h2, h3, h4, U]

theorem decode_popc (p : Pos) (d : BitVec 5) (a : BitVec 5) :
    decodeAlu p (encode (.popc p d a)) = some (.ok (.popc p d a)) := by
  have e : encode (.popc p d a) = packR 0x01 d a 0 0x032 := rfl
  have W : (encode (.popc p d a)).toNat = 67108914 + d.toNat * 2 ^ 21 + a.toNat * 2 ^ 16 := by
    rw [e]
    simp only [packR, append_toNat, bit_toNat, BitVec.toNat_ofNat, BitVec.ofNat_eq_ofNat, BitVec.extractLsb'_toNat,
      Nat.shiftRight_eq_div_pow, Bool.toNat_false, Bool.toNat_true] <;> omega
  clear e
  generalize encode (.popc p d a) = w at W ⊢
  have h1 : fMajor w = 1 := field_toNat w 26 6 _ (by rw [W] <;> omega)
  have h2 : (fFun w).toNat = 50 := field_toNat w 0 11 _ (by rw [W] <;> omega)
  have h3 : fD w = d := field_eq w 21 d (by rw [W] <;> omega)
  have h4 : fA w = a := field_eq w 16 a (by rw [W] <;> omega)
  have U : ∀ i, unused w 0x0000F800 i = .ok i := fun i => unused_ok w _ i [(11, 5)] (by decide)
    (by simp only [List.forall_mem_cons, W] <;> simp <;> omega)
  simp only [decodeAlu, decodeScalarR, h1, h2, h3, h4, U]

theorem decode_addSat (p : Pos) (d : BitVec 5) (a : BitVec 5) (b : BitVec 5) :
    decodeAlu p (encode (.addSat p d a b)) = some (.ok (.addSat p d a b)) := by
  have e : encode (.addSat p d a b) = packR 0x01 d a b 0x040 := rfl
  have W : (encode (.addSat p d a b)).toNat = 67108928 + d.toNat * 2 ^ 21 + a.toNat * 2 ^ 16 + b.toNat * 2 ^ 11 := by
    rw [e]
    simp only [packR, append_toNat, bit_toNat, BitVec.toNat_ofNat, BitVec.ofNat_eq_ofNat, BitVec.extractLsb'_toNat,
      Nat.shiftRight_eq_div_pow, Bool.toNat_false, Bool.toNat_true] <;> omega
  clear e
  generalize encode (.addSat p d a b) = w at W ⊢
  have h1 : fMajor w = 1 := field_toNat w 26 6 _ (by rw [W] <;> omega)
  have h2 : (fFun w).toNat = 64 := field_toNat w 0 11 _ (by rw [W] <;> omega)
  have h3 : fD w = d := field_eq w 21 d (by rw [W] <;> omega)
  have h4 : fA w = a := field_eq w 16 a (by rw [W] <;> omega)
  have h5 : fB w = b := field_eq w 11 b (by rw [W] <;> omega)
  simp only [decodeAlu, decodeScalarR, h1, h2, h3, h4, h5]

theorem decode_subSat (p : Pos) (d : BitVec 5) (a : BitVec 5) (b : BitVec 5) :
    decodeAlu p (encode (.subSat p d a b)) = some (.ok (.subSat p d a b)) := by
  have e : encode (.subSat p d a b) = packR 0x01 d a b 0x041 := rfl
  have W : (encode (.subSat p d a b)).toNat = 67108929 + d.toNat * 2 ^ 21 + a.toNat * 2 ^ 16 + b.toNat * 2 ^ 11 := by
    rw [e]
    simp only [packR, append_toNat, bit_toNat, BitVec.toNat_ofNat, BitVec.ofNat_eq_ofNat, BitVec.extractLsb'_toNat,
      Nat.shiftRight_eq_div_pow, Bool.toNat_false, Bool.toNat_true] <;> omega
  clear e
  generalize encode (.subSat p d a b) = w at W ⊢
  have h1 : fMajor w = 1 := field_toNat w 26 6 _ (by rw [W] <;> omega)
  have h2 : (fFun w).toNat = 65 := field_toNat w 0 11 _ (by rw [W] <;> omega)
  have h3 : fD w = d := field_eq w 21 d (by rw [W] <;> omega)
  have h4 : fA w = a := field_eq w 16 a (by rw [W] <;> omega)
  have h5 : fB w = b := field_eq w 11 b (by rw [W] <;> omega)
  simp only [decodeAlu, decodeScalarR, h1, h2, h3, h4, h5]

theorem decode_addI (p : Pos) (d : BitVec 5) (a : BitVec 5) (imm : BitVec 16) :
    decodeAlu p (encode (.addI p d a imm)) = some (.ok (.addI p d a imm)) := by
  have e : encode (.addI p d a imm) = packI 0x02 d a imm := rfl
  have W : (encode (.addI p d a imm)).toNat = 134217728 + d.toNat * 2 ^ 21 + a.toNat * 2 ^ 16 + imm.toNat := by
    rw [e]
    simp only [packI, append_toNat, bit_toNat, BitVec.toNat_ofNat, BitVec.ofNat_eq_ofNat, BitVec.extractLsb'_toNat,
      Nat.shiftRight_eq_div_pow, Bool.toNat_false, Bool.toNat_true] <;> omega
  clear e
  generalize encode (.addI p d a imm) = w at W ⊢
  have h1 : fMajor w = 2 := field_toNat w 26 6 _ (by rw [W] <;> omega)
  have h2 : fD w = d := field_eq w 21 d (by rw [W] <;> omega)
  have h3 : fA w = a := field_eq w 16 a (by rw [W] <;> omega)
  have h4 : fImm w = imm := field_eq w 0 imm (by rw [W] <;> omega)
  simp only [decodeAlu, h1, h2, h3, h4]

theorem decode_andI (p : Pos) (d : BitVec 5) (a : BitVec 5) (imm : BitVec 16) :
    decodeAlu p (encode (.andI p d a imm)) = some (.ok (.andI p d a imm)) := by
  have e : encode (.andI p d a imm) = packI 0x03 d a imm := rfl
  have W : (encode (.andI p d a imm)).toNat = 201326592 + d.toNat * 2 ^ 21 + a.toNat * 2 ^ 16 + imm.toNat := by
    rw [e]
    simp only [packI, append_toNat, bit_toNat, BitVec.toNat_ofNat, BitVec.ofNat_eq_ofNat, BitVec.extractLsb'_toNat,
      Nat.shiftRight_eq_div_pow, Bool.toNat_false, Bool.toNat_true] <;> omega
  clear e
  generalize encode (.andI p d a imm) = w at W ⊢
  have h1 : fMajor w = 3 := field_toNat w 26 6 _ (by rw [W] <;> omega)
  have h2 : fD w = d := field_eq w 21 d (by rw [W] <;> omega)
  have h3 : fA w = a := field_eq w 16 a (by rw [W] <;> omega)
  have h4 : fImm w = imm := field_eq w 0 imm (by rw [W] <;> omega)
  simp only [decodeAlu, h1, h2, h3, h4]

theorem decode_orI (p : Pos) (d : BitVec 5) (a : BitVec 5) (imm : BitVec 16) :
    decodeAlu p (encode (.orI p d a imm)) = some (.ok (.orI p d a imm)) := by
  have e : encode (.orI p d a imm) = packI 0x05 d a imm := rfl
  have W : (encode (.orI p d a imm)).toNat = 335544320 + d.toNat * 2 ^ 21 + a.toNat * 2 ^ 16 + imm.toNat := by
    rw [e]
    simp only [packI, append_toNat, bit_toNat, BitVec.toNat_ofNat, BitVec.ofNat_eq_ofNat, BitVec.extractLsb'_toNat,
      Nat.shiftRight_eq_div_pow, Bool.toNat_false, Bool.toNat_true] <;> omega
  clear e
  generalize encode (.orI p d a imm) = w at W ⊢
  have h1 : fMajor w = 5 := field_toNat w 26 6 _ (by rw [W] <;> omega)
  have h2 : fD w = d := field_eq w 21 d (by rw [W] <;> omega)
  have h3 : fA w = a := field_eq w 16 a (by rw [W] <;> omega)
  have h4 : fImm w = imm := field_eq w 0 imm (by rw [W] <;> omega)
  simp only [decodeAlu, h1, h2, h3, h4]

theorem decode_xorI (p : Pos) (d : BitVec 5) (a : BitVec 5) (imm : BitVec 16) :
    decodeAlu p (encode (.xorI p d a imm)) = some (.ok (.xorI p d a imm)) := by
  have e : encode (.xorI p d a imm) = packI 0x06 d a imm := rfl
  have W : (encode (.xorI p d a imm)).toNat = 402653184 + d.toNat * 2 ^ 21 + a.toNat * 2 ^ 16 + imm.toNat := by
    rw [e]
    simp only [packI, append_toNat, bit_toNat, BitVec.toNat_ofNat, BitVec.ofNat_eq_ofNat, BitVec.extractLsb'_toNat,
      Nat.shiftRight_eq_div_pow, Bool.toNat_false, Bool.toNat_true] <;> omega
  clear e
  generalize encode (.xorI p d a imm) = w at W ⊢
  have h1 : fMajor w = 6 := field_toNat w 26 6 _ (by rw [W] <;> omega)
  have h2 : fD w = d := field_eq w 21 d (by rw [W] <;> omega)
  have h3 : fA w = a := field_eq w 16 a (by rw [W] <;> omega)
  have h4 : fImm w = imm := field_eq w 0 imm (by rw [W] <;> omega)
  simp only [decodeAlu, h1, h2, h3, h4]

theorem decode_shlI (p : Pos) (d : BitVec 5) (a : BitVec 5) (sh : BitVec 6) :
    decodeAlu p (encode (.shlI p d a sh)) = some (.ok (.shlI p d a sh)) := by
  have e : encode (.shlI p d a sh) = packI 0x07 d a ((0 : BitVec 10) ++ sh) := rfl
  have W : (encode (.shlI p d a sh)).toNat = 469762048 + d.toNat * 2 ^ 21 + a.toNat * 2 ^ 16 + sh.toNat := by
    rw [e]
    simp only [packI, append_toNat, bit_toNat, BitVec.toNat_ofNat, BitVec.ofNat_eq_ofNat, BitVec.extractLsb'_toNat,
      Nat.shiftRight_eq_div_pow, Bool.toNat_false, Bool.toNat_true] <;> omega
  clear e
  generalize encode (.shlI p d a sh) = w at W ⊢
  have h1 : fMajor w = 7 := field_toNat w 26 6 _ (by rw [W] <;> omega)
  have h2 : fD w = d := field_eq w 21 d (by rw [W] <;> omega)
  have h3 : fA w = a := field_eq w 16 a (by rw [W] <;> omega)
  have h4 : w.extractLsb' 0 6 = sh := field_eq w 0 sh (by rw [W] <;> omega)
  have U : ∀ i, unused w 0x0000FFC0 i = .ok i := fun i => unused_ok w _ i [(6, 10)] (by decide)
    (by simp only [List.forall_mem_cons, W] <;> simp <;> omega)
  simp only [decodeAlu, h1, h2, h3, h4, U]

theorem decode_shrI (p : Pos) (d : BitVec 5) (a : BitVec 5) (sh : BitVec 6) :
    decodeAlu p (encode (.shrI p d a sh)) = some (.ok (.shrI p d a sh)) := by
  have e : encode (.shrI p d a sh) = packI 0x08 d a ((0 : BitVec 10) ++ sh) := rfl
  have W : (encode (.shrI p d a sh)).toNat = 536870912 + d.toNat * 2 ^ 21 + a.toNat * 2 ^ 16 + sh.toNat := by
    rw [e]
    simp only [packI, append_toNat, bit_toNat, BitVec.toNat_ofNat, BitVec.ofNat_eq_ofNat, BitVec.extractLsb'_toNat,
      Nat.shiftRight_eq_div_pow, Bool.toNat_false, Bool.toNat_true] <;> omega
  clear e
  generalize encode (.shrI p d a sh) = w at W ⊢
  have h1 : fMajor w = 8 := field_toNat w 26 6 _ (by rw [W] <;> omega)
  have h2 : fD w = d := field_eq w 21 d (by rw [W] <;> omega)
  have h3 : fA w = a := field_eq w 16 a (by rw [W] <;> omega)
  have h4 : w.extractLsb' 0 6 = sh := field_eq w 0 sh (by rw [W] <;> omega)
  have U : ∀ i, unused w 0x0000FFC0 i = .ok i := fun i => unused_ok w _ i [(6, 10)] (by decide)
    (by simp only [List.forall_mem_cons, W] <;> simp <;> omega)
  simp only [decodeAlu, h1, h2, h3, h4, U]

theorem decode_sarI (p : Pos) (d : BitVec 5) (a : BitVec 5) (sh : BitVec 6) :
    decodeAlu p (encode (.sarI p d a sh)) = some (.ok (.sarI p d a sh)) := by
  have e : encode (.sarI p d a sh) = packI 0x09 d a ((0 : BitVec 10) ++ sh) := rfl
  have W : (encode (.sarI p d a sh)).toNat = 603979776 + d.toNat * 2 ^ 21 + a.toNat * 2 ^ 16 + sh.toNat := by
    rw [e]
    simp only [packI, append_toNat, bit_toNat, BitVec.toNat_ofNat, BitVec.ofNat_eq_ofNat, BitVec.extractLsb'_toNat,
      Nat.shiftRight_eq_div_pow, Bool.toNat_false, Bool.toNat_true] <;> omega
  clear e
  generalize encode (.sarI p d a sh) = w at W ⊢
  have h1 : fMajor w = 9 := field_toNat w 26 6 _ (by rw [W] <;> omega)
  have h2 : fD w = d := field_eq w 21 d (by rw [W] <;> omega)
  have h3 : fA w = a := field_eq w 16 a (by rw [W] <;> omega)
  have h4 : w.extractLsb' 0 6 = sh := field_eq w 0 sh (by rw [W] <;> omega)
  have U : ∀ i, unused w 0x0000FFC0 i = .ok i := fun i => unused_ok w _ i [(6, 10)] (by decide)
    (by simp only [List.forall_mem_cons, W] <;> simp <;> omega)
  simp only [decodeAlu, h1, h2, h3, h4, U]

theorem decode_minI (p : Pos) (d : BitVec 5) (a : BitVec 5) (imm : BitVec 16) :
    decodeAlu p (encode (.minI p d a imm)) = some (.ok (.minI p d a imm)) := by
  have e : encode (.minI p d a imm) = packI 0x0A d a imm := rfl
  have W : (encode (.minI p d a imm)).toNat = 671088640 + d.toNat * 2 ^ 21 + a.toNat * 2 ^ 16 + imm.toNat := by
    rw [e]
    simp only [packI, append_toNat, bit_toNat, BitVec.toNat_ofNat, BitVec.ofNat_eq_ofNat, BitVec.extractLsb'_toNat,
      Nat.shiftRight_eq_div_pow, Bool.toNat_false, Bool.toNat_true] <;> omega
  clear e
  generalize encode (.minI p d a imm) = w at W ⊢
  have h1 : fMajor w = 10 := field_toNat w 26 6 _ (by rw [W] <;> omega)
  have h2 : fD w = d := field_eq w 21 d (by rw [W] <;> omega)
  have h3 : fA w = a := field_eq w 16 a (by rw [W] <;> omega)
  have h4 : fImm w = imm := field_eq w 0 imm (by rw [W] <;> omega)
  simp only [decodeAlu, h1, h2, h3, h4]

theorem decode_maxI (p : Pos) (d : BitVec 5) (a : BitVec 5) (imm : BitVec 16) :
    decodeAlu p (encode (.maxI p d a imm)) = some (.ok (.maxI p d a imm)) := by
  have e : encode (.maxI p d a imm) = packI 0x0B d a imm := rfl
  have W : (encode (.maxI p d a imm)).toNat = 738197504 + d.toNat * 2 ^ 21 + a.toNat * 2 ^ 16 + imm.toNat := by
    rw [e]
    simp only [packI, append_toNat, bit_toNat, BitVec.toNat_ofNat, BitVec.ofNat_eq_ofNat, BitVec.extractLsb'_toNat,
      Nat.shiftRight_eq_div_pow, Bool.toNat_false, Bool.toNat_true] <;> omega
  clear e
  generalize encode (.maxI p d a imm) = w at W ⊢
  have h1 : fMajor w = 11 := field_toNat w 26 6 _ (by rw [W] <;> omega)
  have h2 : fD w = d := field_eq w 21 d (by rw [W] <;> omega)
  have h3 : fA w = a := field_eq w 16 a (by rw [W] <;> omega)
  have h4 : fImm w = imm := field_eq w 0 imm (by rw [W] <;> omega)
  simp only [decodeAlu, h1, h2, h3, h4]

theorem decode_mulI (p : Pos) (d : BitVec 5) (a : BitVec 5) (imm : BitVec 16) :
    decodeAlu p (encode (.mulI p d a imm)) = some (.ok (.mulI p d a imm)) := by
  have e : encode (.mulI p d a imm) = packI 0x0C d a imm := rfl
  have W : (encode (.mulI p d a imm)).toNat = 805306368 + d.toNat * 2 ^ 21 + a.toNat * 2 ^ 16 + imm.toNat := by
    rw [e]
    simp only [packI, append_toNat, bit_toNat, BitVec.toNat_ofNat, BitVec.ofNat_eq_ofNat, BitVec.extractLsb'_toNat,
      Nat.shiftRight_eq_div_pow, Bool.toNat_false, Bool.toNat_true] <;> omega
  clear e
  generalize encode (.mulI p d a imm) = w at W ⊢
  have h1 : fMajor w = 12 := field_toNat w 26 6 _ (by rw [W] <;> omega)
  have h2 : fD w = d := field_eq w 21 d (by rw [W] <;> omega)
  have h3 : fA w = a := field_eq w 16 a (by rw [W] <;> omega)
  have h4 : fImm w = imm := field_eq w 0 imm (by rw [W] <;> omega)
  simp only [decodeAlu, h1, h2, h3, h4]

theorem decode_lih (p : Pos) (d : BitVec 5) (a : BitVec 5) (imm : BitVec 16) :
    decodeAlu p (encode (.lih p d a imm)) = some (.ok (.lih p d a imm)) := by
  have e : encode (.lih p d a imm) = packI 0x0D d a imm := rfl
  have W : (encode (.lih p d a imm)).toNat = 872415232 + d.toNat * 2 ^ 21 + a.toNat * 2 ^ 16 + imm.toNat := by
    rw [e]
    simp only [packI, append_toNat, bit_toNat, BitVec.toNat_ofNat, BitVec.ofNat_eq_ofNat, BitVec.extractLsb'_toNat,
      Nat.shiftRight_eq_div_pow, Bool.toNat_false, Bool.toNat_true] <;> omega
  clear e
  generalize encode (.lih p d a imm) = w at W ⊢
  have h1 : fMajor w = 13 := field_toNat w 26 6 _ (by rw [W] <;> omega)
  have h2 : fD w = d := field_eq w 21 d (by rw [W] <;> omega)
  have h3 : fA w = a := field_eq w 16 a (by rw [W] <;> omega)
  have h4 : fImm w = imm := field_eq w 0 imm (by rw [W] <;> omega)
  simp only [decodeAlu, h1, h2, h3, h4]

theorem decode_bfx (p : Pos) (d : BitVec 5) (a : BitVec 5) (len : BitVec 6) (pos : BitVec 6) :
    decodeAlu p (encode (.bfx p d a len pos)) = some (.ok (.bfx p d a len pos)) := by
  have e : encode (.bfx p d a len pos) = packI 0x0E d a ((0 : BitVec 4) ++ len ++ pos) := rfl
  have W : (encode (.bfx p d a len pos)).toNat = 939524096 + d.toNat * 2 ^ 21 + a.toNat * 2 ^ 16 + len.toNat * 2 ^ 6 + pos.toNat := by
    rw [e]
    simp only [packI, append_toNat, bit_toNat, BitVec.toNat_ofNat, BitVec.ofNat_eq_ofNat, BitVec.extractLsb'_toNat,
      Nat.shiftRight_eq_div_pow, Bool.toNat_false, Bool.toNat_true] <;> omega
  clear e
  generalize encode (.bfx p d a len pos) = w at W ⊢
  have h1 : fMajor w = 14 := field_toNat w 26 6 _ (by rw [W] <;> omega)
  have h2 : fD w = d := field_eq w 21 d (by rw [W] <;> omega)
  have h3 : fA w = a := field_eq w 16 a (by rw [W] <;> omega)
  have h4 : w.extractLsb' 6 6 = len := field_eq w 6 len (by rw [W] <;> omega)
  have h5 : w.extractLsb' 0 6 = pos := field_eq w 0 pos (by rw [W] <;> omega)
  have U : ∀ i, unused w 0x0000F000 i = .ok i := fun i => unused_ok w _ i [(12, 4)] (by decide)
    (by simp only [List.forall_mem_cons, W] <;> simp <;> omega)
  simp only [decodeAlu, h1, h2, h3, h4, h5, U]

theorem decode_bfi (p : Pos) (d : BitVec 5) (a : BitVec 5) (len : BitVec 6) (pos : BitVec 6) :
    decodeAlu p (encode (.bfi p d a len pos)) = some (.ok (.bfi p d a len pos)) := by
  have e : encode (.bfi p d a len pos) = packI 0x0F d a ((0 : BitVec 4) ++ len ++ pos) := rfl
  have W : (encode (.bfi p d a len pos)).toNat = 1006632960 + d.toNat * 2 ^ 21 + a.toNat * 2 ^ 16 + len.toNat * 2 ^ 6 + pos.toNat := by
    rw [e]
    simp only [packI, append_toNat, bit_toNat, BitVec.toNat_ofNat, BitVec.ofNat_eq_ofNat, BitVec.extractLsb'_toNat,
      Nat.shiftRight_eq_div_pow, Bool.toNat_false, Bool.toNat_true] <;> omega
  clear e
  generalize encode (.bfi p d a len pos) = w at W ⊢
  have h1 : fMajor w = 15 := field_toNat w 26 6 _ (by rw [W] <;> omega)
  have h2 : fD w = d := field_eq w 21 d (by rw [W] <;> omega)
  have h3 : fA w = a := field_eq w 16 a (by rw [W] <;> omega)
  have h4 : w.extractLsb' 6 6 = len := field_eq w 6 len (by rw [W] <;> omega)
  have h5 : w.extractLsb' 0 6 = pos := field_eq w 0 pos (by rw [W] <;> omega)
  have U : ∀ i, unused w 0x0000F000 i = .ok i := fun i => unused_ok w _ i [(12, 4)] (by decide)
    (by simp only [List.forall_mem_cons, W] <;> simp <;> omega)
  simp only [decodeAlu, h1, h2, h3, h4, h5, U]

theorem decode_br (p : Pos) (a : BitVec 5) (b : BitVec 5) (cc : BitVec 3) (annul : BitVec 2) (disp : BitVec 11) :
    decodeC p (encode (.br p a b cc annul disp)) = .ok (.br p a b cc annul disp) := by
  have e : encode (.br p a b cc annul disp) = packB 0x04 a b cc annul disp := rfl
  have W : (encode (.br p a b cc annul disp)).toNat = 268435456 + a.toNat * 2 ^ 21 + b.toNat * 2 ^ 16 + cc.toNat * 2 ^ 13 + annul.toNat * 2 ^ 11 + disp.toNat := by
    rw [e]
    simp only [packB, append_toNat, bit_toNat, BitVec.toNat_ofNat, BitVec.ofNat_eq_ofNat, BitVec.extractLsb'_toNat,
      Nat.shiftRight_eq_div_pow, Bool.toNat_false, Bool.toNat_true] <;> omega
  clear e
  generalize encode (.br p a b cc annul disp) = w at W ⊢
  have h1 : fMajor w = 4 := field_toNat w 26 6 _ (by rw [W] <;> omega)
  have h2 : fD w = a := field_eq w 21 a (by rw [W] <;> omega)
  have h3 : fA w = b := field_eq w 16 b (by rw [W] <;> omega)
  have h4 : fPol w = cc := field_eq w 13 cc (by rw [W] <;> omega)
  have h5 : fAnnul w = annul := field_eq w 11 annul (by rw [W] <;> omega)
  have h6 : fFun w = disp := field_eq w 0 disp (by rw [W] <;> omega)
  have n : decodeAlu p w = none := by simp only [decodeAlu, h1]
  simp only [decodeC, h1, h2, h3, h4, h5, h6, n]

theorem decode_brp (p : Pos) (pr : BitVec 5) (cc : BitVec 3) (annul : BitVec 2) (disp : BitVec 11) :
    decodeC p (encode (.brp p pr cc annul disp)) = .ok (.brp p pr cc annul disp) := by
  have e : encode (.brp p pr cc annul disp) = packB 0x14 pr 0 cc annul disp := rfl
  have W : (encode (.brp p pr cc annul disp)).toNat = 1342177280 + pr.toNat * 2 ^ 21 + cc.toNat * 2 ^ 13 + annul.toNat * 2 ^ 11 + disp.toNat := by
    rw [e]
    simp only [packB, append_toNat, bit_toNat, BitVec.toNat_ofNat, BitVec.ofNat_eq_ofNat, BitVec.extractLsb'_toNat,
      Nat.shiftRight_eq_div_pow, Bool.toNat_false, Bool.toNat_true] <;> omega
  clear e
  generalize encode (.brp p pr cc annul disp) = w at W ⊢
  have h1 : fMajor w = 20 := field_toNat w 26 6 _ (by rw [W] <;> omega)
  have h2 : fD w = pr := field_eq w 21 pr (by rw [W] <;> omega)
  have h3 : fPol w = cc := field_eq w 13 cc (by rw [W] <;> omega)
  have h4 : fAnnul w = annul := field_eq w 11 annul (by rw [W] <;> omega)
  have h5 : fFun w = disp := field_eq w 0 disp (by rw [W] <;> omega)
  have U : ∀ i, unused w 0x001F0000 i = .ok i := fun i => unused_ok w _ i [(16, 5)] (by decide)
    (by simp only [List.forall_mem_cons, W] <;> simp <;> omega)
  have n : decodeAlu p w = none := by simp only [decodeAlu, h1]
  simp only [decodeC, h1, h2, h3, h4, h5, U, n]

theorem decode_brl (p : Pos) (annul : BitVec 2) (disp : BitVec 11) :
    decodeC p (encode (.brl p annul disp)) = .ok (.brl p annul disp) := by
  have e : encode (.brl p annul disp) = packB 0x15 0 0 0 annul disp := rfl
  have W : (encode (.brl p annul disp)).toNat = 1409286144 + annul.toNat * 2 ^ 11 + disp.toNat := by
    rw [e]
    simp only [packB, append_toNat, bit_toNat, BitVec.toNat_ofNat, BitVec.ofNat_eq_ofNat, BitVec.extractLsb'_toNat,
      Nat.shiftRight_eq_div_pow, Bool.toNat_false, Bool.toNat_true] <;> omega
  clear e
  generalize encode (.brl p annul disp) = w at W ⊢
  have h1 : fMajor w = 21 := field_toNat w 26 6 _ (by rw [W] <;> omega)
  have h2 : fAnnul w = annul := field_eq w 11 annul (by rw [W] <;> omega)
  have h3 : fFun w = disp := field_eq w 0 disp (by rw [W] <;> omega)
  have U : ∀ i, unused w 0x03FFE000 i = .ok i := fun i => unused_ok w _ i [(13, 13)] (by decide)
    (by simp only [List.forall_mem_cons, W] <;> simp <;> omega)
  have n : decodeAlu p w = none := by simp only [decodeAlu, h1]
  simp only [decodeC, h1, h2, h3, U, n]

theorem decode_loop (p : Pos) (a : BitVec 5) (b : BitVec 5) :
    decodeC p (encode (.loop p a b)) = .ok (.loop p a b) := by
  have e : encode (.loop p a b) = packR 0x16 0 a b 0 := rfl
  have W : (encode (.loop p a b)).toNat = 1476395008 + a.toNat * 2 ^ 16 + b.toNat * 2 ^ 11 := by
    rw [e]
    simp only [packR, append_toNat, bit_toNat, BitVec.toNat_ofNat, BitVec.ofNat_eq_ofNat, BitVec.extractLsb'_toNat,
      Nat.shiftRight_eq_div_pow, Bool.toNat_false, Bool.toNat_true] <;> omega
  clear e
  generalize encode (.loop p a b) = w at W ⊢
  have h1 : fMajor w = 22 := field_toNat w 26 6 _ (by rw [W] <;> omega)
  have h2 : fA w = a := field_eq w 16 a (by rw [W] <;> omega)
  have h3 : fB w = b := field_eq w 11 b (by rw [W] <;> omega)
  have U : ∀ i, unused w 0x03E007FF i = .ok i := fun i => unused_ok w _ i [(0, 11), (21, 5)] (by decide)
    (by simp only [List.forall_mem_cons, W] <;> simp <;> omega)
  have n : decodeAlu p w = none := by simp only [decodeAlu, h1]
  simp only [decodeC, h1, h2, h3, U, n]

theorem decode_j (p : Pos) (disp : BitVec 26) :
    decodeC p (encode (.j p disp)) = .ok (.j p disp) := by
  have e : encode (.j p disp) = (0x17 : BitVec 6) ++ disp := rfl
  have W : (encode (.j p disp)).toNat = 1543503872 + disp.toNat := by
    rw [e]
    simp only [append_toNat, bit_toNat, BitVec.toNat_ofNat, BitVec.ofNat_eq_ofNat, BitVec.extractLsb'_toNat,
      Nat.shiftRight_eq_div_pow, Bool.toNat_false, Bool.toNat_true] <;> omega
  clear e
  generalize encode (.j p disp) = w at W ⊢
  have h1 : fMajor w = 23 := field_toNat w 26 6 _ (by rw [W] <;> omega)
  have h2 : w.extractLsb' 0 26 = disp := field_eq w 0 disp (by rw [W] <;> omega)
  have n : decodeAlu p w = none := by simp only [decodeAlu, h1]
  simp only [decodeC, h1, h2, n]

theorem decode_call (p : Pos) (frame : BitVec 5) (disp : BitVec 21) :
    decodeC p (encode (.call p frame disp)) = .ok (.call p frame disp) := by
  have e : encode (.call p frame disp) = (0x18 : BitVec 6) ++ frame ++ disp := rfl
  have W : (encode (.call p frame disp)).toNat = 1610612736 + frame.toNat * 2 ^ 21 + disp.toNat := by
    rw [e]
    simp only [append_toNat, bit_toNat, BitVec.toNat_ofNat, BitVec.ofNat_eq_ofNat, BitVec.extractLsb'_toNat,
      Nat.shiftRight_eq_div_pow, Bool.toNat_false, Bool.toNat_true] <;> omega
  clear e
  generalize encode (.call p frame disp) = w at W ⊢
  have h1 : fMajor w = 24 := field_toNat w 26 6 _ (by rw [W] <;> omega)
  have h2 : fD w = frame := field_eq w 21 frame (by rw [W] <;> omega)
  have h3 : w.extractLsb' 0 21 = disp := field_eq w 0 disp (by rw [W] <;> omega)
  have n : decodeAlu p w = none := by simp only [decodeAlu, h1]
  simp only [decodeC, h1, h2, h3, n]

theorem decode_callr (p : Pos) (a : BitVec 5) (frame : BitVec 5) :
    decodeC p (encode (.callr p a frame)) = .ok (.callr p a frame) := by
  have e : encode (.callr p a frame) = packR 0x19 0 a 0 ((0 : BitVec 6) ++ frame) := rfl
  have W : (encode (.callr p a frame)).toNat = 1677721600 + a.toNat * 2 ^ 16 + frame.toNat := by
    rw [e]
    simp only [packR, append_toNat, bit_toNat, BitVec.toNat_ofNat, BitVec.ofNat_eq_ofNat, BitVec.extractLsb'_toNat,
      Nat.shiftRight_eq_div_pow, Bool.toNat_false, Bool.toNat_true] <;> omega
  clear e
  generalize encode (.callr p a frame) = w at W ⊢
  have h1 : fMajor w = 25 := field_toNat w 26 6 _ (by rw [W] <;> omega)
  have h2 : fA w = a := field_eq w 16 a (by rw [W] <;> omega)
  have h3 : fFmt w = frame := field_eq w 0 frame (by rw [W] <;> omega)
  have U : ∀ i, unused w 0x03E0FFE0 i = .ok i := fun i => unused_ok w _ i [(5, 11), (21, 5)] (by decide)
    (by simp only [List.forall_mem_cons, W] <;> simp <;> omega)
  have n : decodeAlu p w = none := by simp only [decodeAlu, h1]
  simp only [decodeC, h1, h2, h3, U, n]

theorem decode_jr (p : Pos) (a : BitVec 5) :
    decodeC p (encode (.jr p a)) = .ok (.jr p a) := by
  have e : encode (.jr p a) = packR 0x1A 0 a 0 0 := rfl
  have W : (encode (.jr p a)).toNat = 1744830464 + a.toNat * 2 ^ 16 := by
    rw [e]
    simp only [packR, append_toNat, bit_toNat, BitVec.toNat_ofNat, BitVec.ofNat_eq_ofNat, BitVec.extractLsb'_toNat,
      Nat.shiftRight_eq_div_pow, Bool.toNat_false, Bool.toNat_true] <;> omega
  clear e
  generalize encode (.jr p a) = w at W ⊢
  have h1 : fMajor w = 26 := field_toNat w 26 6 _ (by rw [W] <;> omega)
  have h2 : fA w = a := field_eq w 16 a (by rw [W] <;> omega)
  have U : ∀ i, unused w 0x03E0FFFF i = .ok i := fun i => unused_ok w _ i [(0, 16), (21, 5)] (by decide)
    (by simp only [List.forall_mem_cons, W] <;> simp <;> omega)
  have n : decodeAlu p w = none := by simp only [decodeAlu, h1]
  simp only [decodeC, h1, h2, U, n]

theorem decode_ret (p : Pos) (frame : BitVec 5) :
    decodeC p (encode (.ret p frame)) = .ok (.ret p frame) := by
  have e : encode (.ret p frame) = (0x1B : BitVec 6) ++ frame ++ (0 : BitVec 21) := rfl
  have W : (encode (.ret p frame)).toNat = 1811939328 + frame.toNat * 2 ^ 21 := by
    rw [e]
    simp only [append_toNat, bit_toNat, BitVec.toNat_ofNat, BitVec.ofNat_eq_ofNat, BitVec.extractLsb'_toNat,
      Nat.shiftRight_eq_div_pow, Bool.toNat_false, Bool.toNat_true] <;> omega
  clear e
  generalize encode (.ret p frame) = w at W ⊢
  have h1 : fMajor w = 27 := field_toNat w 26 6 _ (by rw [W] <;> omega)
  have h2 : fD w = frame := field_eq w 21 frame (by rw [W] <;> omega)
  have U : ∀ i, unused w 0x001FFFFF i = .ok i := fun i => unused_ok w _ i [(0, 21)] (by decide)
    (by simp only [List.forall_mem_cons, W] <;> simp <;> omega)
  have n : decodeAlu p w = none := by simp only [decodeAlu, h1]
  simp only [decodeC, h1, h2, U, n]

theorem decode_yield (p : Pos) (n : BitVec 16) :
    decodeC p (encode (.yield p n)) = .ok (.yield p n) := by
  have e : encode (.yield p n) = packI 0x1C 0 0 n := rfl
  have W : (encode (.yield p n)).toNat = 1879048192 + n.toNat := by
    rw [e]
    simp only [packI, append_toNat, bit_toNat, BitVec.toNat_ofNat, BitVec.ofNat_eq_ofNat, BitVec.extractLsb'_toNat,
      Nat.shiftRight_eq_div_pow, Bool.toNat_false, Bool.toNat_true] <;> omega
  clear e
  generalize encode (.yield p n) = w at W ⊢
  have h1 : fMajor w = 28 := field_toNat w 26 6 _ (by rw [W] <;> omega)
  have h2 : fImm w = n := field_eq w 0 n (by rw [W] <;> omega)
  have U : ∀ i, unused w 0x03FF0000 i = .ok i := fun i => unused_ok w _ i [(16, 10)] (by decide)
    (by simp only [List.forall_mem_cons, W] <;> simp <;> omega)
  have n : decodeAlu p w = none := by simp only [decodeAlu, h1]
  simp only [decodeC, h1, h2, U, n]

theorem decode_endTask (p : Pos) :
    decodeC p (encode (.endTask p)) = .ok (.endTask p) := by
  have e : encode (.endTask p) = packI 0x1D 0 0 0 := rfl
  have W : (encode (.endTask p)).toNat = 1946157056 := by
    rw [e]
    simp only [packI, append_toNat, bit_toNat, BitVec.toNat_ofNat, BitVec.ofNat_eq_ofNat, BitVec.extractLsb'_toNat,
      Nat.shiftRight_eq_div_pow, Bool.toNat_false, Bool.toNat_true] <;> omega
  clear e
  generalize encode (.endTask p) = w at W ⊢
  have h1 : fMajor w = 29 := field_toNat w 26 6 _ (by rw [W] <;> omega)
  have U : ∀ i, unused w 0x03FFFFFF i = .ok i := fun i => unused_ok w _ i [(0, 26)] (by decide)
    (by simp only [List.forall_mem_cons, W] <;> simp <;> omega)
  have n : decodeAlu p w = none := by simp only [decodeAlu, h1]
  simp only [decodeC, h1, U, n]

theorem decode_trap (p : Pos) (code : BitVec 16) :
    decodeC p (encode (.trap p code)) = .ok (.trap p code) := by
  have e : encode (.trap p code) = packI 0x1E 0 0 code := rfl
  have W : (encode (.trap p code)).toNat = 2013265920 + code.toNat := by
    rw [e]
    simp only [packI, append_toNat, bit_toNat, BitVec.toNat_ofNat, BitVec.ofNat_eq_ofNat, BitVec.extractLsb'_toNat,
      Nat.shiftRight_eq_div_pow, Bool.toNat_false, Bool.toNat_true] <;> omega
  clear e
  generalize encode (.trap p code) = w at W ⊢
  have h1 : fMajor w = 30 := field_toNat w 26 6 _ (by rw [W] <;> omega)
  have h2 : fImm w = code := field_eq w 0 code (by rw [W] <;> omega)
  have U : ∀ i, unused w 0x03FF0000 i = .ok i := fun i => unused_ok w _ i [(16, 10)] (by decide)
    (by simp only [List.forall_mem_cons, W] <;> simp <;> omega)
  have n : decodeAlu p w = none := by simp only [decodeAlu, h1]
  simp only [decodeC, h1, h2, U, n]

theorem decode_eret (p : Pos) :
    decodeC p (encode (.eret p)) = .ok (.eret p) := by
  have e : encode (.eret p) = packI 0x1F 0 0 0 := rfl
  have W : (encode (.eret p)).toNat = 2080374784 := by
    rw [e]
    simp only [packI, append_toNat, bit_toNat, BitVec.toNat_ofNat, BitVec.ofNat_eq_ofNat, BitVec.extractLsb'_toNat,
      Nat.shiftRight_eq_div_pow, Bool.toNat_false, Bool.toNat_true] <;> omega
  clear e
  generalize encode (.eret p) = w at W ⊢
  have h1 : fMajor w = 31 := field_toNat w 26 6 _ (by rw [W] <;> omega)
  have U : ∀ i, unused w 0x03FFFFFF i = .ok i := fun i => unused_ok w _ i [(0, 26)] (by decide)
    (by simp only [List.forall_mem_cons, W] <;> simp <;> omega)
  have n : decodeAlu p w = none := by simp only [decodeAlu, h1]
  simp only [decodeC, h1, U, n]

theorem decode_modeI (p : Pos) :
    decodeC p (encode (.modeI p)) = .ok (.modeI p) := by
  have e : encode (.modeI p) = packR 0x20 0 0 0 0x001 := rfl
  have W : (encode (.modeI p)).toNat = 2147483649 := by
    rw [e]
    simp only [packR, append_toNat, bit_toNat, BitVec.toNat_ofNat, BitVec.ofNat_eq_ofNat, BitVec.extractLsb'_toNat,
      Nat.shiftRight_eq_div_pow, Bool.toNat_false, Bool.toNat_true] <;> omega
  clear e
  generalize encode (.modeI p) = w at W ⊢
  have h1 : fMajor w = 32 := field_toNat w 26 6 _ (by rw [W] <;> omega)
  have h2 : (fFun w).toNat = 1 := field_toNat w 0 11 _ (by rw [W] <;> omega)
  have U : ∀ i, unused w 0x03FFF800 i = .ok i := fun i => unused_ok w _ i [(11, 15)] (by decide)
    (by simp only [List.forall_mem_cons, W] <;> simp <;> omega)
  have n : decodeAlu p w = none := by simp only [decodeAlu, h1]
  simp only [decodeC, h1, h2, U, n]

theorem decode_modeE (p : Pos) :
    decodeC p (encode (.modeE p)) = .ok (.modeE p) := by
  have e : encode (.modeE p) = packR 0x20 0 0 0 0x002 := rfl
  have W : (encode (.modeE p)).toNat = 2147483650 := by
    rw [e]
    simp only [packR, append_toNat, bit_toNat, BitVec.toNat_ofNat, BitVec.ofNat_eq_ofNat, BitVec.extractLsb'_toNat,
      Nat.shiftRight_eq_div_pow, Bool.toNat_false, Bool.toNat_true] <;> omega
  clear e
  generalize encode (.modeE p) = w at W ⊢
  have h1 : fMajor w = 32 := field_toNat w 26 6 _ (by rw [W] <;> omega)
  have h2 : (fFun w).toNat = 2 := field_toNat w 0 11 _ (by rw [W] <;> omega)
  have U : ∀ i, unused w 0x03FFF800 i = .ok i := fun i => unused_ok w _ i [(11, 15)] (by decide)
    (by simp only [List.forall_mem_cons, W] <;> simp <;> omega)
  have n : decodeAlu p w = none := by simp only [decodeAlu, h1]
  simp only [decodeC, h1, h2, U, n]

theorem decode_srr (p : Pos) (d : BitVec 5) (r : BitVec 12) :
    decodeC p (encode (.srr p d r)) = .ok (.srr p d r) := by
  have e : encode (.srr p d r) = packI 0x21 d 0 ((0 : BitVec 4) ++ r) := rfl
  have W : (encode (.srr p d r)).toNat = 2214592512 + d.toNat * 2 ^ 21 + r.toNat := by
    rw [e]
    simp only [packI, append_toNat, bit_toNat, BitVec.toNat_ofNat, BitVec.ofNat_eq_ofNat, BitVec.extractLsb'_toNat,
      Nat.shiftRight_eq_div_pow, Bool.toNat_false, Bool.toNat_true] <;> omega
  clear e
  generalize encode (.srr p d r) = w at W ⊢
  have h1 : fMajor w = 33 := field_toNat w 26 6 _ (by rw [W] <;> omega)
  have h2 : fD w = d := field_eq w 21 d (by rw [W] <;> omega)
  have h3 : w.extractLsb' 0 12 = r := field_eq w 0 r (by rw [W] <;> omega)
  have U : ∀ i, unused w 0x001FF000 i = .ok i := fun i => unused_ok w _ i [(12, 9)] (by decide)
    (by simp only [List.forall_mem_cons, W] <;> simp <;> omega)
  have n : decodeAlu p w = none := by simp only [decodeAlu, h1]
  simp only [decodeC, h1, h2, h3, U, n]

theorem decode_srw (p : Pos) (a : BitVec 5) (r : BitVec 12) :
    decodeC p (encode (.srw p a r)) = .ok (.srw p a r) := by
  have e : encode (.srw p a r) = packI 0x22 0 a ((0 : BitVec 4) ++ r) := rfl
  have W : (encode (.srw p a r)).toNat = 2281701376 + a.toNat * 2 ^ 16 + r.toNat := by
    rw [e]
    simp only [packI, append_toNat, bit_toNat, BitVec.toNat_ofNat, BitVec.ofNat_eq_ofNat, BitVec.extractLsb'_toNat,
      Nat.shiftRight_eq_div_pow, Bool.toNat_false, Bool.toNat_true] <;> omega
  clear e
  generalize encode (.srw p a r) = w at W ⊢
  have h1 : fMajor w = 34 := field_toNat w 26 6 _ (by rw [W] <;> omega)
  have h2 : fA w = a := field_eq w 16 a (by rw [W] <;> omega)
  have h3 : w.extractLsb' 0 12 = r := field_eq w 0 r (by rw [W] <;> omega)
  have U : ∀ i, unused w 0x03E0F000 i = .ok i := fun i => unused_ok w _ i [(12, 4), (21, 5)] (by decide)
    (by simp only [List.forall_mem_cons, W] <;> simp <;> omega)
  have n : decodeAlu p w = none := by simp only [decodeAlu, h1]
  simp only [decodeC, h1, h2, h3, U, n]

theorem decode_srs (p : Pos) (a : BitVec 5) (r : BitVec 12) :
    decodeC p (encode (.srs p a r)) = .ok (.srs p a r) := by
  have e : encode (.srs p a r) = packI 0x23 0 a ((0 : BitVec 4) ++ r) := rfl
  have W : (encode (.srs p a r)).toNat = 2348810240 + a.toNat * 2 ^ 16 + r.toNat := by
    rw [e]
    simp only [packI, append_toNat, bit_toNat, BitVec.toNat_ofNat, BitVec.ofNat_eq_ofNat, BitVec.extractLsb'_toNat,
      Nat.shiftRight_eq_div_pow, Bool.toNat_false, Bool.toNat_true] <;> omega
  clear e
  generalize encode (.srs p a r) = w at W ⊢
  have h1 : fMajor w = 35 := field_toNat w 26 6 _ (by rw [W] <;> omega)
  have h2 : fA w = a := field_eq w 16 a (by rw [W] <;> omega)
  have h3 : w.extractLsb' 0 12 = r := field_eq w 0 r (by rw [W] <;> omega)
  have U : ∀ i, unused w 0x03E0F000 i = .ok i := fun i => unused_ok w _ i [(12, 4), (21, 5)] (by decide)
    (by simp only [List.forall_mem_cons, W] <;> simp <;> omega)
  have n : decodeAlu p w = none := by simp only [decodeAlu, h1]
  simp only [decodeC, h1, h2, h3, U, n]

theorem decode_src (p : Pos) (a : BitVec 5) (r : BitVec 12) :
    decodeC p (encode (.src p a r)) = .ok (.src p a r) := by
  have e : encode (.src p a r) = packI 0x24 0 a ((0 : BitVec 4) ++ r) := rfl
  have W : (encode (.src p a r)).toNat = 2415919104 + a.toNat * 2 ^ 16 + r.toNat := by
    rw [e]
    simp only [packI, append_toNat, bit_toNat, BitVec.toNat_ofNat, BitVec.ofNat_eq_ofNat, BitVec.extractLsb'_toNat,
      Nat.shiftRight_eq_div_pow, Bool.toNat_false, Bool.toNat_true] <;> omega
  clear e
  generalize encode (.src p a r) = w at W ⊢
  have h1 : fMajor w = 36 := field_toNat w 26 6 _ (by rw [W] <;> omega)
  have h2 : fA w = a := field_eq w 16 a (by rw [W] <;> omega)
  have h3 : w.extractLsb' 0 12 = r := field_eq w 0 r (by rw [W] <;> omega)
  have U : ∀ i, unused w 0x03E0F000 i = .ok i := fun i => unused_ok w _ i [(12, 4), (21, 5)] (by decide)
    (by simp only [List.forall_mem_cons, W] <;> simp <;> omega)
  have n : decodeAlu p w = none := by simp only [decodeAlu, h1]
  simp only [decodeC, h1, h2, h3, U, n]

theorem decode_waitf (p : Pos) (f : BitVec 5) (n : BitVec 16) :
    decodeC p (encode (.waitf p f n)) = .ok (.waitf p f n) := by
  have e : encode (.waitf p f n) = packI 0x25 0 f n := rfl
  have W : (encode (.waitf p f n)).toNat = 2483027968 + f.toNat * 2 ^ 16 + n.toNat := by
    rw [e]
    simp only [packI, append_toNat, bit_toNat, BitVec.toNat_ofNat, BitVec.ofNat_eq_ofNat, BitVec.extractLsb'_toNat,
      Nat.shiftRight_eq_div_pow, Bool.toNat_false, Bool.toNat_true] <;> omega
  clear e
  generalize encode (.waitf p f n) = w at W ⊢
  have h1 : fMajor w = 37 := field_toNat w 26 6 _ (by rw [W] <;> omega)
  have h2 : fA w = f := field_eq w 16 f (by rw [W] <;> omega)
  have h3 : fImm w = n := field_eq w 0 n (by rw [W] <;> omega)
  have U : ∀ i, unused w 0x03E00000 i = .ok i := fun i => unused_ok w _ i [(21, 5)] (by decide)
    (by simp only [List.forall_mem_cons, W] <;> simp <;> omega)
  have n : decodeAlu p w = none := by simp only [decodeAlu, h1]
  simp only [decodeC, h1, h2, h3, U, n]

theorem decode_postf (p : Pos) (f : BitVec 5) (n : BitVec 16) :
    decodeC p (encode (.postf p f n)) = .ok (.postf p f n) := by
  have e : encode (.postf p f n) = packI 0x26 0 f n := rfl
  have W : (encode (.postf p f n)).toNat = 2550136832 + f.toNat * 2 ^ 16 + n.toNat := by
    rw [e]
    simp only [packI, append_toNat, bit_toNat, BitVec.toNat_ofNat, BitVec.ofNat_eq_ofNat, BitVec.extractLsb'_toNat,
      Nat.shiftRight_eq_div_pow, Bool.toNat_false, Bool.toNat_true] <;> omega
  clear e
  generalize encode (.postf p f n) = w at W ⊢
  have h1 : fMajor w = 38 := field_toNat w 26 6 _ (by rw [W] <;> omega)
  have h2 : fA w = f := field_eq w 16 f (by rw [W] <;> omega)
  have h3 : fImm w = n := field_eq w 0 n (by rw [W] <;> omega)
  have U : ∀ i, unused w 0x03E00000 i = .ok i := fun i => unused_ok w _ i [(21, 5)] (by decide)
    (by simp only [List.forall_mem_cons, W] <;> simp <;> omega)
  have n : decodeAlu p w = none := by simp only [decodeAlu, h1]
  simp only [decodeC, h1, h2, h3, U, n]

theorem decode_postr (p : Pos) (f : BitVec 5) (a : BitVec 5) (n : BitVec 16) :
    decodeC p (encode (.postr p f a n)) = .ok (.postr p f a n) := by
  have e : encode (.postr p f a n) = packI 0x27 f a n := rfl
  have W : (encode (.postr p f a n)).toNat = 2617245696 + f.toNat * 2 ^ 21 + a.toNat * 2 ^ 16 + n.toNat := by
    rw [e]
    simp only [packI, append_toNat, bit_toNat, BitVec.toNat_ofNat, BitVec.ofNat_eq_ofNat, BitVec.extractLsb'_toNat,
      Nat.shiftRight_eq_div_pow, Bool.toNat_false, Bool.toNat_true] <;> omega
  clear e
  generalize encode (.postr p f a n) = w at W ⊢
  have h1 : fMajor w = 39 := field_toNat w 26 6 _ (by rw [W] <;> omega)
  have h2 : fD w = f := field_eq w 21 f (by rw [W] <;> omega)
  have h3 : fA w = a := field_eq w 16 a (by rw [W] <;> omega)
  have h4 : fImm w = n := field_eq w 0 n (by rw [W] <;> omega)
  have n : decodeAlu p w = none := by simp only [decodeAlu, h1]
  simp only [decodeC, h1, h2, h3, h4, n]

theorem decode_ftest (p : Pos) (d : BitVec 5) (f : BitVec 5) (n : BitVec 16) :
    decodeC p (encode (.ftest p d f n)) = .ok (.ftest p d f n) := by
  have e : encode (.ftest p d f n) = packI 0x28 d f n := rfl
  have W : (encode (.ftest p d f n)).toNat = 2684354560 + d.toNat * 2 ^ 21 + f.toNat * 2 ^ 16 + n.toNat := by
    rw [e]
    simp only [packI, append_toNat, bit_toNat, BitVec.toNat_ofNat, BitVec.ofNat_eq_ofNat, BitVec.extractLsb'_toNat,
      Nat.shiftRight_eq_div_pow, Bool.toNat_false, Bool.toNat_true] <;> omega
  clear e
  generalize encode (.ftest p d f n) = w at W ⊢
  have h1 : fMajor w = 40 := field_toNat w 26 6 _ (by rw [W] <;> omega)
  have h2 : fD w = d := field_eq w 21 d (by rw [W] <;> omega)
  have h3 : fA w = f := field_eq w 16 f (by rw [W] <;> omega)
  have h4 : fImm w = n := field_eq w 0 n (by rw [W] <;> omega)
  have n : decodeAlu p w = none := by simp only [decodeAlu, h1]
  simp only [decodeC, h1, h2, h3, h4, n]

theorem decode_gnew (p : Pos) (d : BitVec 5) (a : BitVec 5) :
    decodeC p (encode (.gnew p d a)) = .ok (.gnew p d a) := by
  have e : encode (.gnew p d a) = packR 0x29 d a 0 0 := rfl
  have W : (encode (.gnew p d a)).toNat = 2751463424 + d.toNat * 2 ^ 21 + a.toNat * 2 ^ 16 := by
    rw [e]
    simp only [packR, append_toNat, bit_toNat, BitVec.toNat_ofNat, BitVec.ofNat_eq_ofNat, BitVec.extractLsb'_toNat,
      Nat.shiftRight_eq_div_pow, Bool.toNat_false, Bool.toNat_true] <;> omega
  clear e
  generalize encode (.gnew p d a) = w at W ⊢
  have h1 : fMajor w = 41 := field_toNat w 26 6 _ (by rw [W] <;> omega)
  have h2 : fD w = d := field_eq w 21 d (by rw [W] <;> omega)
  have h3 : fA w = a := field_eq w 16 a (by rw [W] <;> omega)
  have U : ∀ i, unused w 0x0000FFFF i = .ok i := fun i => unused_ok w _ i [(0, 16)] (by decide)
    (by simp only [List.forall_mem_cons, W] <;> simp <;> omega)
  have n : decodeAlu p w = none := by simp only [decodeAlu, h1]
  simp only [decodeC, h1, h2, h3, U, n]

theorem decode_join (p : Pos) (a : BitVec 5) :
    decodeC p (encode (.join p a)) = .ok (.join p a) := by
  have e : encode (.join p a) = packR 0x2A 0 a 0 0 := rfl
  have W : (encode (.join p a)).toNat = 2818572288 + a.toNat * 2 ^ 16 := by
    rw [e]
    simp only [packR, append_toNat, bit_toNat, BitVec.toNat_ofNat, BitVec.ofNat_eq_ofNat, BitVec.extractLsb'_toNat,
      Nat.shiftRight_eq_div_pow, Bool.toNat_false, Bool.toNat_true] <;> omega
  clear e
  generalize encode (.join p a) = w at W ⊢
  have h1 : fMajor w = 42 := field_toNat w 26 6 _ (by rw [W] <;> omega)
  have h2 : fA w = a := field_eq w 16 a (by rw [W] <;> omega)
  have U : ∀ i, unused w 0x03E0FFFF i = .ok i := fun i => unused_ok w _ i [(0, 16), (21, 5)] (by decide)
    (by simp only [List.forall_mem_cons, W] <;> simp <;> omega)
  have n : decodeAlu p w = none := by simp only [decodeAlu, h1]
  simp only [decodeC, h1, h2, U, n]

theorem decode_leave (p : Pos) (a : BitVec 5) :
    decodeC p (encode (.leave p a)) = .ok (.leave p a) := by
  have e : encode (.leave p a) = packR 0x2B 0 a 0 0 := rfl
  have W : (encode (.leave p a)).toNat = 2885681152 + a.toNat * 2 ^ 16 := by
    rw [e]
    simp only [packR, append_toNat, bit_toNat, BitVec.toNat_ofNat, BitVec.ofNat_eq_ofNat, BitVec.extractLsb'_toNat,
      Nat.shiftRight_eq_div_pow, Bool.toNat_false, Bool.toNat_true] <;> omega
  clear e
  generalize encode (.leave p a) = w at W ⊢
  have h1 : fMajor w = 43 := field_toNat w 26 6 _ (by rw [W] <;> omega)
  have h2 : fA w = a := field_eq w 16 a (by rw [W] <;> omega)
  have U : ∀ i, unused w 0x03E0FFFF i = .ok i := fun i => unused_ok w _ i [(0, 16), (21, 5)] (by decide)
    (by simp only [List.forall_mem_cons, W] <;> simp <;> omega)
  have n : decodeAlu p w = none := by simp only [decodeAlu, h1]
  simp only [decodeC, h1, h2, U, n]

theorem decode_barw (p : Pos) (a : BitVec 5) :
    decodeC p (encode (.barw p a)) = .ok (.barw p a) := by
  have e : encode (.barw p a) = packR 0x2C 0 a 0 0 := rfl
  have W : (encode (.barw p a)).toNat = 2952790016 + a.toNat * 2 ^ 16 := by
    rw [e]
    simp only [packR, append_toNat, bit_toNat, BitVec.toNat_ofNat, BitVec.ofNat_eq_ofNat, BitVec.extractLsb'_toNat,
      Nat.shiftRight_eq_div_pow, Bool.toNat_false, Bool.toNat_true] <;> omega
  clear e
  generalize encode (.barw p a) = w at W ⊢
  have h1 : fMajor w = 44 := field_toNat w 26 6 _ (by rw [W] <;> omega)
  have h2 : fA w = a := field_eq w 16 a (by rw [W] <;> omega)
  have U : ∀ i, unused w 0x03E0FFFF i = .ok i := fun i => unused_ok w _ i [(0, 16), (21, 5)] (by decide)
    (by simp only [List.forall_mem_cons, W] <;> simp <;> omega)
  have n : decodeAlu p w = none := by simp only [decodeAlu, h1]
  simp only [decodeC, h1, h2, U, n]

theorem decode_bara (p : Pos) (a : BitVec 5) :
    decodeC p (encode (.bara p a)) = .ok (.bara p a) := by
  have e : encode (.bara p a) = packR 0x2D 0 a 0 0 := rfl
  have W : (encode (.bara p a)).toNat = 3019898880 + a.toNat * 2 ^ 16 := by
    rw [e]
    simp only [packR, append_toNat, bit_toNat, BitVec.toNat_ofNat, BitVec.ofNat_eq_ofNat, BitVec.extractLsb'_toNat,
      Nat.shiftRight_eq_div_pow, Bool.toNat_false, Bool.toNat_true] <;> omega
  clear e
  generalize encode (.bara p a) = w at W ⊢
  have h1 : fMajor w = 45 := field_toNat w 26 6 _ (by rw [W] <;> omega)
  have h2 : fA w = a := field_eq w 16 a (by rw [W] <;> omega)
  have U : ∀ i, unused w 0x03E0FFFF i = .ok i := fun i => unused_ok w _ i [(0, 16), (21, 5)] (by decide)
    (by simp only [List.forall_mem_cons, W] <;> simp <;> omega)
  have n : decodeAlu p w = none := by simp only [decodeAlu, h1]
  simp only [decodeC, h1, h2, U, n]

theorem decode_barg (p : Pos) (d : BitVec 5) (a : BitVec 5) :
    decodeC p (encode (.barg p d a)) = .ok (.barg p d a) := by
  have e : encode (.barg p d a) = packR 0x2E d a 0 0 := rfl
  have W : (encode (.barg p d a)).toNat = 3087007744 + d.toNat * 2 ^ 21 + a.toNat * 2 ^ 16 := by
    rw [e]
    simp only [packR, append_toNat, bit_toNat, BitVec.toNat_ofNat, BitVec.ofNat_eq_ofNat, BitVec.extractLsb'_toNat,
      Nat.shiftRight_eq_div_pow, Bool.toNat_false, Bool.toNat_true] <;> omega
  clear e
  generalize encode (.barg p d a) = w at W ⊢
  have h1 : fMajor w = 46 := field_toNat w 26 6 _ (by rw [W] <;> omega)
  have h2 : fD w = d := field_eq w 21 d (by rw [W] <;> omega)
  have h3 : fA w = a := field_eq w 16 a (by rw [W] <;> omega)
  have U : ∀ i, unused w 0x0000FFFF i = .ok i := fun i => unused_ok w _ i [(0, 16)] (by decide)
    (by simp only [List.forall_mem_cons, W] <;> simp <;> omega)
  have n : decodeAlu p w = none := by simp only [decodeAlu, h1]
  simp only [decodeC, h1, h2, h3, U, n]

theorem decode_step (p : Pos) (a : BitVec 5) :
    decodeC p (encode (.step p a)) = .ok (.step p a) := by
  have e : encode (.step p a) = packR 0x2F 0 a 0 0 := rfl
  have W : (encode (.step p a)).toNat = 3154116608 + a.toNat * 2 ^ 16 := by
    rw [e]
    simp only [packR, append_toNat, bit_toNat, BitVec.toNat_ofNat, BitVec.ofNat_eq_ofNat, BitVec.extractLsb'_toNat,
      Nat.shiftRight_eq_div_pow, Bool.toNat_false, Bool.toNat_true] <;> omega
  clear e
  generalize encode (.step p a) = w at W ⊢
  have h1 : fMajor w = 47 := field_toNat w 26 6 _ (by rw [W] <;> omega)
  have h2 : fA w = a := field_eq w 16 a (by rw [W] <;> omega)
  have U : ∀ i, unused w 0x03E0FFFF i = .ok i := fun i => unused_ok w _ i [(0, 16), (21, 5)] (by decide)
    (by simp only [List.forall_mem_cons, W] <;> simp <;> omega)
  have n : decodeAlu p w = none := by simp only [decodeAlu, h1]
  simp only [decodeC, h1, h2, U, n]

theorem decode_monitor (p : Pos) (a : BitVec 5) :
    decodeC p (encode (.monitor p a)) = .ok (.monitor p a) := by
  have e : encode (.monitor p a) = packR 0x30 0 a 0 0 := rfl
  have W : (encode (.monitor p a)).toNat = 3221225472 + a.toNat * 2 ^ 16 := by
    rw [e]
    simp only [packR, append_toNat, bit_toNat, BitVec.toNat_ofNat, BitVec.ofNat_eq_ofNat, BitVec.extractLsb'_toNat,
      Nat.shiftRight_eq_div_pow, Bool.toNat_false, Bool.toNat_true] <;> omega
  clear e
  generalize encode (.monitor p a) = w at W ⊢
  have h1 : fMajor w = 48 := field_toNat w 26 6 _ (by rw [W] <;> omega)
  have h2 : fA w = a := field_eq w 16 a (by rw [W] <;> omega)
  have U : ∀ i, unused w 0x03E0FFFF i = .ok i := fun i => unused_ok w _ i [(0, 16), (21, 5)] (by decide)
    (by simp only [List.forall_mem_cons, W] <;> simp <;> omega)
  have n : decodeAlu p w = none := by simp only [decodeAlu, h1]
  simp only [decodeC, h1, h2, U, n]

theorem decode_mwait (p : Pos) (a : BitVec 5) :
    decodeC p (encode (.mwait p a)) = .ok (.mwait p a) := by
  have e : encode (.mwait p a) = packR 0x31 0 a 0 0 := rfl
  have W : (encode (.mwait p a)).toNat = 3288334336 + a.toNat * 2 ^ 16 := by
    rw [e]
    simp only [packR, append_toNat, bit_toNat, BitVec.toNat_ofNat, BitVec.ofNat_eq_ofNat, BitVec.extractLsb'_toNat,
      Nat.shiftRight_eq_div_pow, Bool.toNat_false, Bool.toNat_true] <;> omega
  clear e
  generalize encode (.mwait p a) = w at W ⊢
  have h1 : fMajor w = 49 := field_toNat w 26 6 _ (by rw [W] <;> omega)
  have h2 : fA w = a := field_eq w 16 a (by rw [W] <;> omega)
  have U : ∀ i, unused w 0x03E0FFFF i = .ok i := fun i => unused_ok w _ i [(0, 16), (21, 5)] (by decide)
    (by simp only [List.forall_mem_cons, W] <;> simp <;> omega)
  have n : decodeAlu p w = none := by simp only [decodeAlu, h1]
  simp only [decodeC, h1, h2, U, n]

theorem decode_ldB (p : Pos) (d : BitVec 5) (base : BitVec 5) (pol : BitVec 3) (off : BitVec 13) :
    decodeX p (encode (.ldB p d base pol off)) = .ok (.ldB p d base pol off) := by
  have e : encode (.ldB p d base pol off) = packA 0x10 d base pol off := rfl
  have W : (encode (.ldB p d base pol off)).toNat = 1073741824 + d.toNat * 2 ^ 21 + base.toNat * 2 ^ 16 + pol.toNat * 2 ^ 13 + off.toNat := by
    rw [e]
    simp only [packA, append_toNat, bit_toNat, BitVec.toNat_ofNat, BitVec.ofNat_eq_ofNat, BitVec.extractLsb'_toNat,
      Nat.shiftRight_eq_div_pow, Bool.toNat_false, Bool.toNat_true] <;> omega
  clear e
  generalize encode (.ldB p d base pol off) = w at W ⊢
  have h1 : fMajor w = 16 := field_toNat w 26 6 _ (by rw [W] <;> omega)
  have h2 : fD w = d := field_eq w 21 d (by rw [W] <;> omega)
  have h3 : fA w = base := field_eq w 16 base (by rw [W] <;> omega)
  have h4 : fPol w = pol := field_eq w 13 pol (by rw [W] <;> omega)
  have h5 : fOff w = off := field_eq w 0 off (by rw [W] <;> omega)
  have n : decodeAlu p w = none := by simp only [decodeAlu, h1]
  simp only [decodeX, h1, h2, h3, h4, h5, n]

theorem decode_ldH (p : Pos) (d : BitVec 5) (base : BitVec 5) (pol : BitVec 3) (off : BitVec 13) :
    decodeX p (encode (.ldH p d base pol off)) = .ok (.ldH p d base pol off) := by
  have e : encode (.ldH p d base pol off) = packA 0x11 d base pol off := rfl
  have W : (encode (.ldH p d base pol off)).toNat = 1140850688 + d.toNat * 2 ^ 21 + base.toNat * 2 ^ 16 + pol.toNat * 2 ^ 13 + off.toNat := by
    rw [e]
    simp only [packA, append_toNat, bit_toNat, BitVec.toNat_ofNat, BitVec.ofNat_eq_ofNat, BitVec.extractLsb'_toNat,
      Nat.shiftRight_eq_div_pow, Bool.toNat_false, Bool.toNat_true] <;> omega
  clear e
  generalize encode (.ldH p d base pol off) = w at W ⊢
  have h1 : fMajor w = 17 := field_toNat w 26 6 _ (by rw [W] <;> omega)
  have h2 : fD w = d := field_eq w 21 d (by rw [W] <;> omega)
  have h3 : fA w = base := field_eq w 16 base (by rw [W] <;> omega)
  have h4 : fPol w = pol := field_eq w 13 pol (by rw [W] <;> omega)
  have h5 : fOff w = off := field_eq w 0 off (by rw [W] <;> omega)
  have n : decodeAlu p w = none := by simp only [decodeAlu, h1]
  simp only [decodeX, h1, h2, h3, h4, h5, n]

theorem decode_ldW (p : Pos) (d : BitVec 5) (base : BitVec 5) (pol : BitVec 3) (off : BitVec 13) :
    decodeX p (encode (.ldW p d base pol off)) = .ok (.ldW p d base pol off) := by
  have e : encode (.ldW p d base pol off) = packA 0x12 d base pol off := rfl
  have W : (encode (.ldW p d base pol off)).toNat = 1207959552 + d.toNat * 2 ^ 21 + base.toNat * 2 ^ 16 + pol.toNat * 2 ^ 13 + off.toNat := by
    rw [e]
    simp only [packA, append_toNat, bit_toNat, BitVec.toNat_ofNat, BitVec.ofNat_eq_ofNat, BitVec.extractLsb'_toNat,
      Nat.shiftRight_eq_div_pow, Bool.toNat_false, Bool.toNat_true] <;> omega
  clear e
  generalize encode (.ldW p d base pol off) = w at W ⊢
  have h1 : fMajor w = 18 := field_toNat w 26 6 _ (by rw [W] <;> omega)
  have h2 : fD w = d := field_eq w 21 d (by rw [W] <;> omega)
  have h3 : fA w = base := field_eq w 16 base (by rw [W] <;> omega)
  have h4 : fPol w = pol := field_eq w 13 pol (by rw [W] <;> omega)
  have h5 : fOff w = off := field_eq w 0 off (by rw [W] <;> omega)
  have n : decodeAlu p w = none := by simp only [decodeAlu, h1]
  simp only [decodeX, h1, h2, h3, h4, h5, n]

theorem decode_ldD (p : Pos) (d : BitVec 5) (base : BitVec 5) (pol : BitVec 3) (off : BitVec 13) :
    decodeX p (encode (.ldD p d base pol off)) = .ok (.ldD p d base pol off) := by
  have e : encode (.ldD p d base pol off) = packA 0x13 d base pol off := rfl
  have W : (encode (.ldD p d base pol off)).toNat = 1275068416 + d.toNat * 2 ^ 21 + base.toNat * 2 ^ 16 + pol.toNat * 2 ^ 13 + off.toNat := by
    rw [e]
    simp only [packA, append_toNat, bit_toNat, BitVec.toNat_ofNat, BitVec.ofNat_eq_ofNat, BitVec.extractLsb'_toNat,
      Nat.shiftRight_eq_div_pow, Bool.toNat_false, Bool.toNat_true] <;> omega
  clear e
  generalize encode (.ldD p d base pol off) = w at W ⊢
  have h1 : fMajor w = 19 := field_toNat w 26 6 _ (by rw [W] <;> omega)
  have h2 : fD w = d := field_eq w 21 d (by rw [W] <;> omega)
  have h3 : fA w = base := field_eq w 16 base (by rw [W] <;> omega)
  have h4 : fPol w = pol := field_eq w 13 pol (by rw [W] <;> omega)
  have h5 : fOff w = off := field_eq w 0 off (by rw [W] <;> omega)
  have n : decodeAlu p w = none := by simp only [decodeAlu, h1]
  simp only [decodeX, h1, h2, h3, h4, h5, n]

theorem decode_ldBN (p : Pos) (d : BitVec 5) (base : BitVec 5) (pol : BitVec 3) (off : BitVec 13) :
    decodeX p (encode (.ldBN p d base pol off)) = .ok (.ldBN p d base pol off) := by
  have e : encode (.ldBN p d base pol off) = packA 0x14 d base pol off := rfl
  have W : (encode (.ldBN p d base pol off)).toNat = 1342177280 + d.toNat * 2 ^ 21 + base.toNat * 2 ^ 16 + pol.toNat * 2 ^ 13 + off.toNat := by
    rw [e]
    simp only [packA, append_toNat, bit_toNat, BitVec.toNat_ofNat, BitVec.ofNat_eq_ofNat, BitVec.extractLsb'_toNat,
      Nat.shiftRight_eq_div_pow, Bool.toNat_false, Bool.toNat_true] <;> omega
  clear e
  generalize encode (.ldBN p d base pol off) = w at W ⊢
  have h1 : fMajor w = 20 := field_toNat w 26 6 _ (by rw [W] <;> omega)
  have h2 : fD w = d := field_eq w 21 d (by rw [W] <;> omega)
  have h3 : fA w = base := field_eq w 16 base (by rw [W] <;> omega)
  have h4 : fPol w = pol := field_eq w 13 pol (by rw [W] <;> omega)
  have h5 : fOff w = off := field_eq w 0 off (by rw [W] <;> omega)
  have n : decodeAlu p w = none := by simp only [decodeAlu, h1]
  simp only [decodeX, h1, h2, h3, h4, h5, n]

theorem decode_ldHN (p : Pos) (d : BitVec 5) (base : BitVec 5) (pol : BitVec 3) (off : BitVec 13) :
    decodeX p (encode (.ldHN p d base pol off)) = .ok (.ldHN p d base pol off) := by
  have e : encode (.ldHN p d base pol off) = packA 0x15 d base pol off := rfl
  have W : (encode (.ldHN p d base pol off)).toNat = 1409286144 + d.toNat * 2 ^ 21 + base.toNat * 2 ^ 16 + pol.toNat * 2 ^ 13 + off.toNat := by
    rw [e]
    simp only [packA, append_toNat, bit_toNat, BitVec.toNat_ofNat, BitVec.ofNat_eq_ofNat, BitVec.extractLsb'_toNat,
      Nat.shiftRight_eq_div_pow, Bool.toNat_false, Bool.toNat_true] <;> omega
  clear e
  generalize encode (.ldHN p d base pol off) = w at W ⊢
  have h1 : fMajor w = 21 := field_toNat w 26 6 _ (by rw [W] <;> omega)
  have h2 : fD w = d := field_eq w 21 d (by rw [W] <;> omega)
  have h3 : fA w = base := field_eq w 16 base (by rw [W] <;> omega)
  have h4 : fPol w = pol := field_eq w 13 pol (by rw [W] <;> omega)
  have h5 : fOff w = off := field_eq w 0 off (by rw [W] <;> omega)
  have n : decodeAlu p w = none := by simp only [decodeAlu, h1]
  simp only [decodeX, h1, h2, h3, h4, h5, n]

theorem decode_ldWN (p : Pos) (d : BitVec 5) (base : BitVec 5) (pol : BitVec 3) (off : BitVec 13) :
    decodeX p (encode (.ldWN p d base pol off)) = .ok (.ldWN p d base pol off) := by
  have e : encode (.ldWN p d base pol off) = packA 0x16 d base pol off := rfl
  have W : (encode (.ldWN p d base pol off)).toNat = 1476395008 + d.toNat * 2 ^ 21 + base.toNat * 2 ^ 16 + pol.toNat * 2 ^ 13 + off.toNat := by
    rw [e]
    simp only [packA, append_toNat, bit_toNat, BitVec.toNat_ofNat, BitVec.ofNat_eq_ofNat, BitVec.extractLsb'_toNat,
      Nat.shiftRight_eq_div_pow, Bool.toNat_false, Bool.toNat_true] <;> omega
  clear e
  generalize encode (.ldWN p d base pol off) = w at W ⊢
  have h1 : fMajor w = 22 := field_toNat w 26 6 _ (by rw [W] <;> omega)
  have h2 : fD w = d := field_eq w 21 d (by rw [W] <;> omega)
  have h3 : fA w = base := field_eq w 16 base (by rw [W] <;> omega)
  have h4 : fPol w = pol := field_eq w 13 pol (by rw [W] <;> omega)
  have h5 : fOff w = off := field_eq w 0 off (by rw [W] <;> omega)
  have n : decodeAlu p w = none := by simp only [decodeAlu, h1]
  simp only [decodeX, h1, h2, h3, h4, h5, n]

theorem decode_stB (p : Pos) (d : BitVec 5) (base : BitVec 5) (pol : BitVec 3) (off : BitVec 13) :
    decodeX p (encode (.stB p d base pol off)) = .ok (.stB p d base pol off) := by
  have e : encode (.stB p d base pol off) = packA 0x17 d base pol off := rfl
  have W : (encode (.stB p d base pol off)).toNat = 1543503872 + d.toNat * 2 ^ 21 + base.toNat * 2 ^ 16 + pol.toNat * 2 ^ 13 + off.toNat := by
    rw [e]
    simp only [packA, append_toNat, bit_toNat, BitVec.toNat_ofNat, BitVec.ofNat_eq_ofNat, BitVec.extractLsb'_toNat,
      Nat.shiftRight_eq_div_pow, Bool.toNat_false, Bool.toNat_true] <;> omega
  clear e
  generalize encode (.stB p d base pol off) = w at W ⊢
  have h1 : fMajor w = 23 := field_toNat w 26 6 _ (by rw [W] <;> omega)
  have h2 : fD w = d := field_eq w 21 d (by rw [W] <;> omega)
  have h3 : fA w = base := field_eq w 16 base (by rw [W] <;> omega)
  have h4 : fPol w = pol := field_eq w 13 pol (by rw [W] <;> omega)
  have h5 : fOff w = off := field_eq w 0 off (by rw [W] <;> omega)
  have n : decodeAlu p w = none := by simp only [decodeAlu, h1]
  simp only [decodeX, h1, h2, h3, h4, h5, n]

theorem decode_stH (p : Pos) (d : BitVec 5) (base : BitVec 5) (pol : BitVec 3) (off : BitVec 13) :
    decodeX p (encode (.stH p d base pol off)) = .ok (.stH p d base pol off) := by
  have e : encode (.stH p d base pol off) = packA 0x18 d base pol off := rfl
  have W : (encode (.stH p d base pol off)).toNat = 1610612736 + d.toNat * 2 ^ 21 + base.toNat * 2 ^ 16 + pol.toNat * 2 ^ 13 + off.toNat := by
    rw [e]
    simp only [packA, append_toNat, bit_toNat, BitVec.toNat_ofNat, BitVec.ofNat_eq_ofNat, BitVec.extractLsb'_toNat,
      Nat.shiftRight_eq_div_pow, Bool.toNat_false, Bool.toNat_true] <;> omega
  clear e
  generalize encode (.stH p d base pol off) = w at W ⊢
  have h1 : fMajor w = 24 := field_toNat w 26 6 _ (by rw [W] <;> omega)
  have h2 : fD w = d := field_eq w 21 d (by rw [W] <;> omega)
  have h3 : fA w = base := field_eq w 16 base (by rw [W] <;> omega)
  have h4 : fPol w = pol := field_eq w 13 pol (by rw [W] <;> omega)
  have h5 : fOff w = off := field_eq w 0 off (by rw [W] <;> omega)
  have n : decodeAlu p w = none := by simp only [decodeAlu, h1]
  simp only [decodeX, h1, h2, h3, h4, h5, n]

theorem decode_stW (p : Pos) (d : BitVec 5) (base : BitVec 5) (pol : BitVec 3) (off : BitVec 13) :
    decodeX p (encode (.stW p d base pol off)) = .ok (.stW p d base pol off) := by
  have e : encode (.stW p d base pol off) = packA 0x19 d base pol off := rfl
  have W : (encode (.stW p d base pol off)).toNat = 1677721600 + d.toNat * 2 ^ 21 + base.toNat * 2 ^ 16 + pol.toNat * 2 ^ 13 + off.toNat := by
    rw [e]
    simp only [packA, append_toNat, bit_toNat, BitVec.toNat_ofNat, BitVec.ofNat_eq_ofNat, BitVec.extractLsb'_toNat,
      Nat.shiftRight_eq_div_pow, Bool.toNat_false, Bool.toNat_true] <;> omega
  clear e
  generalize encode (.stW p d base pol off) = w at W ⊢
  have h1 : fMajor w = 25 := field_toNat w 26 6 _ (by rw [W] <;> omega)
  have h2 : fD w = d := field_eq w 21 d (by rw [W] <;> omega)
  have h3 : fA w = base := field_eq w 16 base (by rw [W] <;> omega)
  have h4 : fPol w = pol := field_eq w 13 pol (by rw [W] <;> omega)
  have h5 : fOff w = off := field_eq w 0 off (by rw [W] <;> omega)
  have n : decodeAlu p w = none := by simp only [decodeAlu, h1]
  simp only [decodeX, h1, h2, h3, h4, h5, n]

theorem decode_stD (p : Pos) (d : BitVec 5) (base : BitVec 5) (pol : BitVec 3) (off : BitVec 13) :
    decodeX p (encode (.stD p d base pol off)) = .ok (.stD p d base pol off) := by
  have e : encode (.stD p d base pol off) = packA 0x1A d base pol off := rfl
  have W : (encode (.stD p d base pol off)).toNat = 1744830464 + d.toNat * 2 ^ 21 + base.toNat * 2 ^ 16 + pol.toNat * 2 ^ 13 + off.toNat := by
    rw [e]
    simp only [packA, append_toNat, bit_toNat, BitVec.toNat_ofNat, BitVec.ofNat_eq_ofNat, BitVec.extractLsb'_toNat,
      Nat.shiftRight_eq_div_pow, Bool.toNat_false, Bool.toNat_true] <;> omega
  clear e
  generalize encode (.stD p d base pol off) = w at W ⊢
  have h1 : fMajor w = 26 := field_toNat w 26 6 _ (by rw [W] <;> omega)
  have h2 : fD w = d := field_eq w 21 d (by rw [W] <;> omega)
  have h3 : fA w = base := field_eq w 16 base (by rw [W] <;> omega)
  have h4 : fPol w = pol := field_eq w 13 pol (by rw [W] <;> omega)
  have h5 : fOff w = off := field_eq w 0 off (by rw [W] <;> omega)
  have n : decodeAlu p w = none := by simp only [decodeAlu, h1]
  simp only [decodeX, h1, h2, h3, h4, h5, n]

theorem decode_ldv (p : Pos) (d : BitVec 5) (base : BitVec 5) (pol : BitVec 3) (off : BitVec 13) :
    decodeX p (encode (.ldv p d base pol off)) = .ok (.ldv p d base pol off) := by
  have e : encode (.ldv p d base pol off) = packA 0x1B d base pol off := rfl
  have W : (encode (.ldv p d base pol off)).toNat = 1811939328 + d.toNat * 2 ^ 21 + base.toNat * 2 ^ 16 + pol.toNat * 2 ^ 13 + off.toNat := by
    rw [e]
    simp only [packA, append_toNat, bit_toNat, BitVec.toNat_ofNat, BitVec.ofNat_eq_ofNat, BitVec.extractLsb'_toNat,
      Nat.shiftRight_eq_div_pow, Bool.toNat_false, Bool.toNat_true] <;> omega
  clear e
  generalize encode (.ldv p d base pol off) = w at W ⊢
  have h1 : fMajor w = 27 := field_toNat w 26 6 _ (by rw [W] <;> omega)
  have h2 : fD w = d := field_eq w 21 d (by rw [W] <;> omega)
  have h3 : fA w = base := field_eq w 16 base (by rw [W] <;> omega)
  have h4 : fPol w = pol := field_eq w 13 pol (by rw [W] <;> omega)
  have h5 : fOff w = off := field_eq w 0 off (by rw [W] <;> omega)
  have n : decodeAlu p w = none := by simp only [decodeAlu, h1]
  simp only [decodeX, h1, h2, h3, h4, h5, n]

theorem decode_stv (p : Pos) (d : BitVec 5) (base : BitVec 5) (pol : BitVec 3) (off : BitVec 13) :
    decodeX p (encode (.stv p d base pol off)) = .ok (.stv p d base pol off) := by
  have e : encode (.stv p d base pol off) = packA 0x1C d base pol off := rfl
  have W : (encode (.stv p d base pol off)).toNat = 1879048192 + d.toNat * 2 ^ 21 + base.toNat * 2 ^ 16 + pol.toNat * 2 ^ 13 + off.toNat := by
    rw [e]
    simp only [packA, append_toNat, bit_toNat, BitVec.toNat_ofNat, BitVec.ofNat_eq_ofNat, BitVec.extractLsb'_toNat,
      Nat.shiftRight_eq_div_pow, Bool.toNat_false, Bool.toNat_true] <;> omega
  clear e
  generalize encode (.stv p d base pol off) = w at W ⊢
  have h1 : fMajor w = 28 := field_toNat w 26 6 _ (by rw [W] <;> omega)
  have h2 : fD w = d := field_eq w 21 d (by rw [W] <;> omega)
  have h3 : fA w = base := field_eq w 16 base (by rw [W] <;> omega)
  have h4 : fPol w = pol := field_eq w 13 pol (by rw [W] <;> omega)
  have h5 : fOff w = off := field_eq w 0 off (by rw [W] <;> omega)
  have n : decodeAlu p w = none := by simp only [decodeAlu, h1]
  simp only [decodeX, h1, h2, h3, h4, h5, n]

theorem decode_ldq (p : Pos) (d : BitVec 5) (a : BitVec 5) (b : BitVec 5) (pol : BitVec 3) :
    decodeX p (encode (.ldq p d a b pol)) = .ok (.ldq p d a b pol) := by
  have e : encode (.ldq p d a b pol) = packR 0x1D d a b (pol ++ (0 : BitVec 8)) := rfl
  have W : (encode (.ldq p d a b pol)).toNat = 1946157056 + d.toNat * 2 ^ 21 + a.toNat * 2 ^ 16 + b.toNat * 2 ^ 11 + pol.toNat * 2 ^ 8 := by
    rw [e]
    simp only [packR, append_toNat, bit_toNat, BitVec.toNat_ofNat, BitVec.ofNat_eq_ofNat, BitVec.extractLsb'_toNat,
      Nat.shiftRight_eq_div_pow, Bool.toNat_false, Bool.toNat_true] <;> omega
  clear e
  generalize encode (.ldq p d a b pol) = w at W ⊢
  have h1 : fMajor w = 29 := field_toNat w 26 6 _ (by rw [W] <;> omega)
  have h2 : fD w = d := field_eq w 21 d (by rw [W] <;> omega)
  have h3 : fA w = a := field_eq w 16 a (by rw [W] <;> omega)
  have h4 : fB w = b := field_eq w 11 b (by rw [W] <;> omega)
  have h5 : w.extractLsb' 8 3 = pol := field_eq w 8 pol (by rw [W] <;> omega)
  have U : ∀ i, unused w 0x000000FF i = .ok i := fun i => unused_ok w _ i [(0, 8)] (by decide)
    (by simp only [List.forall_mem_cons, W] <;> simp <;> omega)
  have n : decodeAlu p w = none := by simp only [decodeAlu, h1]
  simp only [decodeX, h1, h2, h3, h4, h5, U, n]

theorem decode_stq (p : Pos) (d : BitVec 5) (a : BitVec 5) (b : BitVec 5) (pol : BitVec 3) :
    decodeX p (encode (.stq p d a b pol)) = .ok (.stq p d a b pol) := by
  have e : encode (.stq p d a b pol) = packR 0x1E d a b (pol ++ (0 : BitVec 8)) := rfl
  have W : (encode (.stq p d a b pol)).toNat = 2013265920 + d.toNat * 2 ^ 21 + a.toNat * 2 ^ 16 + b.toNat * 2 ^ 11 + pol.toNat * 2 ^ 8 := by
    rw [e]
    simp only [packR, append_toNat, bit_toNat, BitVec.toNat_ofNat, BitVec.ofNat_eq_ofNat, BitVec.extractLsb'_toNat,
      Nat.shiftRight_eq_div_pow, Bool.toNat_false, Bool.toNat_true] <;> omega
  clear e
  generalize encode (.stq p d a b pol) = w at W ⊢
  have h1 : fMajor w = 30 := field_toNat w 26 6 _ (by rw [W] <;> omega)
  have h2 : fD w = d := field_eq w 21 d (by rw [W] <;> omega)
  have h3 : fA w = a := field_eq w 16 a (by rw [W] <;> omega)
  have h4 : fB w = b := field_eq w 11 b (by rw [W] <;> omega)
  have h5 : w.extractLsb' 8 3 = pol := field_eq w 8 pol (by rw [W] <;> omega)
  have U : ∀ i, unused w 0x000000FF i = .ok i := fun i => unused_ok w _ i [(0, 8)] (by decide)
    (by simp only [List.forall_mem_cons, W] <;> simp <;> omega)
  have n : decodeAlu p w = none := by simp only [decodeAlu, h1]
  simp only [decodeX, h1, h2, h3, h4, h5, U, n]

theorem decode_vgth (p : Pos) (d : BitVec 5) (a : BitVec 5) (b : BitVec 5) (pol : BitVec 3) (pred : BitVec 4) (size : BitVec 2) :
    decodeX p (encode (.vgth p d a b pol pred size)) = .ok (.vgth p d a b pol pred size) := by
  have e : encode (.vgth p d a b pol pred size) = packR 0x1F d a b (pol ++ pred ++ size ++ (0 : BitVec 2)) := rfl
  have W : (encode (.vgth p d a b pol pred size)).toNat = 2080374784 + d.toNat * 2 ^ 21 + a.toNat * 2 ^ 16 + b.toNat * 2 ^ 11 + pol.toNat * 2 ^ 8 + pred.toNat * 2 ^ 4 + size.toNat * 2 ^ 2 := by
    rw [e]
    simp only [packR, append_toNat, bit_toNat, BitVec.toNat_ofNat, BitVec.ofNat_eq_ofNat, BitVec.extractLsb'_toNat,
      Nat.shiftRight_eq_div_pow, Bool.toNat_false, Bool.toNat_true] <;> omega
  clear e
  generalize encode (.vgth p d a b pol pred size) = w at W ⊢
  have h1 : fMajor w = 31 := field_toNat w 26 6 _ (by rw [W] <;> omega)
  have h2 : fD w = d := field_eq w 21 d (by rw [W] <;> omega)
  have h3 : fA w = a := field_eq w 16 a (by rw [W] <;> omega)
  have h4 : fB w = b := field_eq w 11 b (by rw [W] <;> omega)
  have h5 : w.extractLsb' 8 3 = pol := field_eq w 8 pol (by rw [W] <;> omega)
  have h6 : w.extractLsb' 4 4 = pred := field_eq w 4 pred (by rw [W] <;> omega)
  have h7 : w.extractLsb' 2 2 = size := field_eq w 2 size (by rw [W] <;> omega)
  have U : ∀ i, unused w 0x00000003 i = .ok i := fun i => unused_ok w _ i [(0, 2)] (by decide)
    (by simp only [List.forall_mem_cons, W] <;> simp <;> omega)
  have n : decodeAlu p w = none := by simp only [decodeAlu, h1]
  simp only [decodeX, h1, h2, h3, h4, h5, h6, h7, U, n]

theorem decode_vsct (p : Pos) (d : BitVec 5) (a : BitVec 5) (b : BitVec 5) (pol : BitVec 3) (pred : BitVec 4) (size : BitVec 2) :
    decodeX p (encode (.vsct p d a b pol pred size)) = .ok (.vsct p d a b pol pred size) := by
  have e : encode (.vsct p d a b pol pred size) = packR 0x20 d a b (pol ++ pred ++ size ++ (0 : BitVec 2)) := rfl
  have W : (encode (.vsct p d a b pol pred size)).toNat = 2147483648 + d.toNat * 2 ^ 21 + a.toNat * 2 ^ 16 + b.toNat * 2 ^ 11 + pol.toNat * 2 ^ 8 + pred.toNat * 2 ^ 4 + size.toNat * 2 ^ 2 := by
    rw [e]
    simp only [packR, append_toNat, bit_toNat, BitVec.toNat_ofNat, BitVec.ofNat_eq_ofNat, BitVec.extractLsb'_toNat,
      Nat.shiftRight_eq_div_pow, Bool.toNat_false, Bool.toNat_true] <;> omega
  clear e
  generalize encode (.vsct p d a b pol pred size) = w at W ⊢
  have h1 : fMajor w = 32 := field_toNat w 26 6 _ (by rw [W] <;> omega)
  have h2 : fD w = d := field_eq w 21 d (by rw [W] <;> omega)
  have h3 : fA w = a := field_eq w 16 a (by rw [W] <;> omega)
  have h4 : fB w = b := field_eq w 11 b (by rw [W] <;> omega)
  have h5 : w.extractLsb' 8 3 = pol := field_eq w 8 pol (by rw [W] <;> omega)
  have h6 : w.extractLsb' 4 4 = pred := field_eq w 4 pred (by rw [W] <;> omega)
  have h7 : w.extractLsb' 2 2 = size := field_eq w 2 size (by rw [W] <;> omega)
  have U : ∀ i, unused w 0x00000003 i = .ok i := fun i => unused_ok w _ i [(0, 2)] (by decide)
    (by simp only [List.forall_mem_cons, W] <;> simp <;> omega)
  have n : decodeAlu p w = none := by simp only [decodeAlu, h1]
  simp only [decodeX, h1, h2, h3, h4, h5, h6, h7, U, n]

theorem decode_amo (p : Pos) (d : BitVec 5) (a : BitVec 5) (b : BitVec 5) (op : BitVec 4) (dword : Bool) (far : Bool) :
    decodeX p (encode (.amo p d a b op dword far)) = .ok (.amo p d a b op dword far) := by
  have b_dword := Bool.toNat_le dword
  have b_far := Bool.toNat_le far
  have e : encode (.amo p d a b op dword far) = packR 0x21 d a b (op ++ BitVec.ofBool dword ++ BitVec.ofBool far ++ (0 : BitVec 5)) := rfl
  have W : (encode (.amo p d a b op dword far)).toNat = 2214592512 + d.toNat * 2 ^ 21 + a.toNat * 2 ^ 16 + b.toNat * 2 ^ 11 + op.toNat * 2 ^ 7 + dword.toNat * 2 ^ 6 + far.toNat * 2 ^ 5 := by
    rw [e]
    simp only [packR, append_toNat, bit_toNat, BitVec.toNat_ofNat, BitVec.ofNat_eq_ofNat, BitVec.extractLsb'_toNat,
      Nat.shiftRight_eq_div_pow, Bool.toNat_false, Bool.toNat_true] <;> omega
  clear e
  generalize encode (.amo p d a b op dword far) = w at W ⊢
  have h1 : fMajor w = 33 := field_toNat w 26 6 _ (by rw [W] <;> omega)
  have h2 : fD w = d := field_eq w 21 d (by rw [W] <;> omega)
  have h3 : fA w = a := field_eq w 16 a (by rw [W] <;> omega)
  have h4 : fB w = b := field_eq w 11 b (by rw [W] <;> omega)
  have h5 : w.extractLsb' 7 4 = op := field_eq w 7 op (by rw [W] <;> omega)
  have h6 : w.getLsbD 6 = dword := bit_eq w 6 dword (by rw [W] <;> omega)
  have h7 : w.getLsbD 5 = far := bit_eq w 5 far (by rw [W] <;> omega)
  have U : ∀ i, unused w 0x0000001F i = .ok i := fun i => unused_ok w _ i [(0, 5)] (by decide)
    (by simp only [List.forall_mem_cons, W] <;> simp <;> omega)
  have n : decodeAlu p w = none := by simp only [decodeAlu, h1]
  simp only [decodeX, h1, h2, h3, h4, h5, h6, h7, U, n]

theorem decode_acqX (p : Pos) (a : BitVec 5) :
    decodeX p (encode (.acqX p a)) = .ok (.acqX p a) := by
  have e : encode (.acqX p a) = packR 0x22 0 a 0 0x000 := rfl
  have W : (encode (.acqX p a)).toNat = 2281701376 + a.toNat * 2 ^ 16 := by
    rw [e]
    simp only [packR, append_toNat, bit_toNat, BitVec.toNat_ofNat, BitVec.ofNat_eq_ofNat, BitVec.extractLsb'_toNat,
      Nat.shiftRight_eq_div_pow, Bool.toNat_false, Bool.toNat_true] <;> omega
  clear e
  generalize encode (.acqX p a) = w at W ⊢
  have h1 : fMajor w = 34 := field_toNat w 26 6 _ (by rw [W] <;> omega)
  have h2 : (fFun w).toNat = 0 := field_toNat w 0 11 _ (by rw [W] <;> omega)
  have h3 : fA w = a := field_eq w 16 a (by rw [W] <;> omega)
  have U : ∀ i, unused w 0x03E0F800 i = .ok i := fun i => unused_ok w _ i [(11, 5), (21, 5)] (by decide)
    (by simp only [List.forall_mem_cons, W] <;> simp <;> omega)
  have n : decodeAlu p w = none := by simp only [decodeAlu, h1]
  simp only [decodeX, decodeMemControl, h1, h2, h3, U, n]

theorem decode_acqS (p : Pos) (a : BitVec 5) :
    decodeX p (encode (.acqS p a)) = .ok (.acqS p a) := by
  have e : encode (.acqS p a) = packR 0x22 0 a 0 0x001 := rfl
  have W : (encode (.acqS p a)).toNat = 2281701377 + a.toNat * 2 ^ 16 := by
    rw [e]
    simp only [packR, append_toNat, bit_toNat, BitVec.toNat_ofNat, BitVec.ofNat_eq_ofNat, BitVec.extractLsb'_toNat,
      Nat.shiftRight_eq_div_pow, Bool.toNat_false, Bool.toNat_true] <;> omega
  clear e
  generalize encode (.acqS p a) = w at W ⊢
  have h1 : fMajor w = 34 := field_toNat w 26 6 _ (by rw [W] <;> omega)
  have h2 : (fFun w).toNat = 1 := field_toNat w 0 11 _ (by rw [W] <;> omega)
  have h3 : fA w = a := field_eq w 16 a (by rw [W] <;> omega)
  have U : ∀ i, unused w 0x03E0F800 i = .ok i := fun i => unused_ok w _ i [(11, 5), (21, 5)] (by decide)
    (by simp only [List.forall_mem_cons, W] <;> simp <;> omega)
  have n : decodeAlu p w = none := by simp only [decodeAlu, h1]
  simp only [decodeX, decodeMemControl, h1, h2, h3, U, n]

theorem decode_rel (p : Pos) (a : BitVec 5) :
    decodeX p (encode (.rel p a)) = .ok (.rel p a) := by
  have e : encode (.rel p a) = packR 0x22 0 a 0 0x002 := rfl
  have W : (encode (.rel p a)).toNat = 2281701378 + a.toNat * 2 ^ 16 := by
    rw [e]
    simp only [packR, append_toNat, bit_toNat, BitVec.toNat_ofNat, BitVec.ofNat_eq_ofNat, BitVec.extractLsb'_toNat,
      Nat.shiftRight_eq_div_pow, Bool.toNat_false, Bool.toNat_true] <;> omega
  clear e
  generalize encode (.rel p a) = w at W ⊢
  have h1 : fMajor w = 34 := field_toNat w 26 6 _ (by rw [W] <;> omega)
  have h2 : (fFun w).toNat = 2 := field_toNat w 0 11 _ (by rw [W] <;> omega)
  have h3 : fA w = a := field_eq w 16 a (by rw [W] <;> omega)
  have U : ∀ i, unused w 0x03E0F800 i = .ok i := fun i => unused_ok w _ i [(11, 5), (21, 5)] (by decide)
    (by simp only [List.forall_mem_cons, W] <;> simp <;> omega)
  have n : decodeAlu p w = none := by simp only [decodeAlu, h1]
  simp only [decodeX, decodeMemControl, h1, h2, h3, U, n]

theorem decode_fenceCore (p : Pos) :
    decodeX p (encode (.fenceCore p)) = .ok (.fenceCore p) := by
  have e : encode (.fenceCore p) = packR 0x22 0 0 0 0x010 := rfl
  have W : (encode (.fenceCore p)).toNat = 2281701392 := by
    rw [e]
    simp only [packR, append_toNat, bit_toNat, BitVec.toNat_ofNat, BitVec.ofNat_eq_ofNat, BitVec.extractLsb'_toNat,
      Nat.shiftRight_eq_div_pow, Bool.toNat_false, Bool.toNat_true] <;> omega
  clear e
  generalize encode (.fenceCore p) = w at W ⊢
  have h1 : fMajor w = 34 := field_toNat w 26 6 _ (by rw [W] <;> omega)
  have h2 : (fFun w).toNat = 16 := field_toNat w 0 11 _ (by rw [W] <;> omega)
  have U : ∀ i, unused w 0x03FFF800 i = .ok i := fun i => unused_ok w _ i [(11, 15)] (by decide)
    (by simp only [List.forall_mem_cons, W] <;> simp <;> omega)
  have n : decodeAlu p w = none := by simp only [decodeAlu, h1]
  simp only [decodeX, decodeMemControl, h1, h2, U, n]

theorem decode_fenceDev (p : Pos) :
    decodeX p (encode (.fenceDev p)) = .ok (.fenceDev p) := by
  have e : encode (.fenceDev p) = packR 0x22 0 0 0 0x011 := rfl
  have W : (encode (.fenceDev p)).toNat = 2281701393 := by
    rw [e]
    simp only [packR, append_toNat, bit_toNat, BitVec.toNat_ofNat, BitVec.ofNat_eq_ofNat, BitVec.extractLsb'_toNat,
      Nat.shiftRight_eq_div_pow, Bool.toNat_false, Bool.toNat_true] <;> omega
  clear e
  generalize encode (.fenceDev p) = w at W ⊢
  have h1 : fMajor w = 34 := field_toNat w 26 6 _ (by rw [W] <;> omega)
  have h2 : (fFun w).toNat = 17 := field_toNat w 0 11 _ (by rw [W] <;> omega)
  have U : ∀ i, unused w 0x03FFF800 i = .ok i := fun i => unused_ok w _ i [(11, 15)] (by decide)
    (by simp only [List.forall_mem_cons, W] <;> simp <;> omega)
  have n : decodeAlu p w = none := by simp only [decodeAlu, h1]
  simp only [decodeX, decodeMemControl, h1, h2, U, n]

theorem decode_fenceFab (p : Pos) :
    decodeX p (encode (.fenceFab p)) = .ok (.fenceFab p) := by
  have e : encode (.fenceFab p) = packR 0x22 0 0 0 0x012 := rfl
  have W : (encode (.fenceFab p)).toNat = 2281701394 := by
    rw [e]
    simp only [packR, append_toNat, bit_toNat, BitVec.toNat_ofNat, BitVec.ofNat_eq_ofNat, BitVec.extractLsb'_toNat,
      Nat.shiftRight_eq_div_pow, Bool.toNat_false, Bool.toNat_true] <;> omega
  clear e
  generalize encode (.fenceFab p) = w at W ⊢
  have h1 : fMajor w = 34 := field_toNat w 26 6 _ (by rw [W] <;> omega)
  have h2 : (fFun w).toNat = 18 := field_toNat w 0 11 _ (by rw [W] <;> omega)
  have U : ∀ i, unused w 0x03FFF800 i = .ok i := fun i => unused_ok w _ i [(11, 15)] (by decide)
    (by simp only [List.forall_mem_cons, W] <;> simp <;> omega)
  have n : decodeAlu p w = none := by simp only [decodeAlu, h1]
  simp only [decodeX, decodeMemControl, h1, h2, U, n]

theorem decode_invro (p : Pos) (a : BitVec 5) (b : BitVec 5) :
    decodeX p (encode (.invro p a b)) = .ok (.invro p a b) := by
  have e : encode (.invro p a b) = packR 0x22 0 a b 0x020 := rfl
  have W : (encode (.invro p a b)).toNat = 2281701408 + a.toNat * 2 ^ 16 + b.toNat * 2 ^ 11 := by
    rw [e]
    simp only [packR, append_toNat, bit_toNat, BitVec.toNat_ofNat, BitVec.ofNat_eq_ofNat, BitVec.extractLsb'_toNat,
      Nat.shiftRight_eq_div_pow, Bool.toNat_false, Bool.toNat_true] <;> omega
  clear e
  generalize encode (.invro p a b) = w at W ⊢
  have h1 : fMajor w = 34 := field_toNat w 26 6 _ (by rw [W] <;> omega)
  have h2 : (fFun w).toNat = 32 := field_toNat w 0 11 _ (by rw [W] <;> omega)
  have h3 : fA w = a := field_eq w 16 a (by rw [W] <;> omega)
  have h4 : fB w = b := field_eq w 11 b (by rw [W] <;> omega)
  have U : ∀ i, unused w 0x03E00000 i = .ok i := fun i => unused_ok w _ i [(21, 5)] (by decide)
    (by simp only [List.forall_mem_cons, W] <;> simp <;> omega)
  have n : decodeAlu p w = none := by simp only [decodeAlu, h1]
  simp only [decodeX, decodeMemControl, h1, h2, h3, h4, U, n]

theorem decode_flushr (p : Pos) (a : BitVec 5) (b : BitVec 5) :
    decodeX p (encode (.flushr p a b)) = .ok (.flushr p a b) := by
  have e : encode (.flushr p a b) = packR 0x22 0 a b 0x021 := rfl
  have W : (encode (.flushr p a b)).toNat = 2281701409 + a.toNat * 2 ^ 16 + b.toNat * 2 ^ 11 := by
    rw [e]
    simp only [packR, append_toNat, bit_toNat, BitVec.toNat_ofNat, BitVec.ofNat_eq_ofNat, BitVec.extractLsb'_toNat,
      Nat.shiftRight_eq_div_pow, Bool.toNat_false, Bool.toNat_true] <;> omega
  clear e
  generalize encode (.flushr p a b) = w at W ⊢
  have h1 : fMajor w = 34 := field_toNat w 26 6 _ (by rw [W] <;> omega)
  have h2 : (fFun w).toNat = 33 := field_toNat w 0 11 _ (by rw [W] <;> omega)
  have h3 : fA w = a := field_eq w 16 a (by rw [W] <;> omega)
  have h4 : fB w = b := field_eq w 11 b (by rw [W] <;> omega)
  have U : ∀ i, unused w 0x03E00000 i = .ok i := fun i => unused_ok w _ i [(21, 5)] (by decide)
    (by simp only [List.forall_mem_cons, W] <;> simp <;> omega)
  have n : decodeAlu p w = none := by simp only [decodeAlu, h1]
  simp only [decodeX, decodeMemControl, h1, h2, h3, h4, U, n]

theorem decode_phase (p : Pos) (a : BitVec 5) :
    decodeX p (encode (.phase p a)) = .ok (.phase p a) := by
  have e : encode (.phase p a) = packR 0x22 0 a 0 0x030 := rfl
  have W : (encode (.phase p a)).toNat = 2281701424 + a.toNat * 2 ^ 16 := by
    rw [e]
    simp only [packR, append_toNat, bit_toNat, BitVec.toNat_ofNat, BitVec.ofNat_eq_ofNat, BitVec.extractLsb'_toNat,
      Nat.shiftRight_eq_div_pow, Bool.toNat_false, Bool.toNat_true] <;> omega
  clear e
  generalize encode (.phase p a) = w at W ⊢
  have h1 : fMajor w = 34 := field_toNat w 26 6 _ (by rw [W] <;> omega)
  have h2 : (fFun w).toNat = 48 := field_toNat w 0 11 _ (by rw [W] <;> omega)
  have h3 : fA w = a := field_eq w 16 a (by rw [W] <;> omega)
  have U : ∀ i, unused w 0x03E0F800 i = .ok i := fun i => unused_ok w _ i [(11, 5), (21, 5)] (by decide)
    (by simp only [List.forall_mem_cons, W] <;> simp <;> omega)
  have n : decodeAlu p w = none := by simp only [decodeAlu, h1]
  simp only [decodeX, decodeMemControl, h1, h2, h3, U, n]

theorem decode_pref (p : Pos) (base : BitVec 5) (pol : BitVec 3) (off : BitVec 13) :
    decodeX p (encode (.pref p base pol off)) = .ok (.pref p base pol off) := by
  have e : encode (.pref p base pol off) = packA 0x23 0 base pol off := rfl
  have W : (encode (.pref p base pol off)).toNat = 2348810240 + base.toNat * 2 ^ 16 + pol.toNat * 2 ^ 13 + off.toNat := by
    rw [e]
    simp only [packA, append_toNat, bit_toNat, BitVec.toNat_ofNat, BitVec.ofNat_eq_ofNat, BitVec.extractLsb'_toNat,
      Nat.shiftRight_eq_div_pow, Bool.toNat_false, Bool.toNat_true] <;> omega
  clear e
  generalize encode (.pref p base pol off) = w at W ⊢
  have h1 : fMajor w = 35 := field_toNat w 26 6 _ (by rw [W] <;> omega)
  have h2 : fA w = base := field_eq w 16 base (by rw [W] <;> omega)
  have h3 : fPol w = pol := field_eq w 13 pol (by rw [W] <;> omega)
  have h4 : fOff w = off := field_eq w 0 off (by rw [W] <;> omega)
  have U : ∀ i, unused w 0x03E00000 i = .ok i := fun i => unused_ok w _ i [(21, 5)] (by decide)
    (by simp only [List.forall_mem_cons, W] <;> simp <;> omega)
  have n : decodeAlu p w = none := by simp only [decodeAlu, h1]
  simp only [decodeX, h1, h2, h3, h4, U, n]

theorem decode_xferSv (p : Pos) (d : BitVec 5) (a : BitVec 5) (lane : BitVec 5) :
    decodeX p (encode (.xferSv p d a lane)) = .ok (.xferSv p d a lane) := by
  have e : encode (.xferSv p d a lane) = packR 0x24 d a 0 ((0x00 : BitVec 6) ++ lane) := rfl
  have W : (encode (.xferSv p d a lane)).toNat = 2415919104 + d.toNat * 2 ^ 21 + a.toNat * 2 ^ 16 + lane.toNat := by
    rw [e]
    simp only [packR, append_toNat, bit_toNat, BitVec.toNat_ofNat, BitVec.ofNat_eq_ofNat, BitVec.extractLsb'_toNat,
      Nat.shiftRight_eq_div_pow, Bool.toNat_false, Bool.toNat_true] <;> omega
  clear e
  generalize encode (.xferSv p d a lane) = w at W ⊢
  have h1 : fMajor w = 36 := field_toNat w 26 6 _ (by rw [W] <;> omega)
  have h2 : (w.extractLsb' 5 6).toNat = 0 := field_toNat w 5 6 _ (by rw [W] <;> omega)
  have h3 : fD w = d := field_eq w 21 d (by rw [W] <;> omega)
  have h4 : fA w = a := field_eq w 16 a (by rw [W] <;> omega)
  have h5 : fFmt w = lane := field_eq w 0 lane (by rw [W] <;> omega)
  have U : ∀ i, unused w 0x0000F800 i = .ok i := fun i => unused_ok w _ i [(11, 5)] (by decide)
    (by simp only [List.forall_mem_cons, W] <;> simp <;> omega)
  have n : decodeAlu p w = none := by simp only [decodeAlu, h1]
  simp only [decodeX, decodeCross, h1, h2, h3, h4, h5, U, n]

theorem decode_xferVs (p : Pos) (d : BitVec 5) (a : BitVec 5) (lane : BitVec 5) :
    decodeX p (encode (.xferVs p d a lane)) = .ok (.xferVs p d a lane) := by
  have e : encode (.xferVs p d a lane) = packR 0x24 d a 0 ((0x10 : BitVec 6) ++ lane) := rfl
  have W : (encode (.xferVs p d a lane)).toNat = 2415919616 + d.toNat * 2 ^ 21 + a.toNat * 2 ^ 16 + lane.toNat := by
    rw [e]
    simp only [packR, append_toNat, bit_toNat, BitVec.toNat_ofNat, BitVec.ofNat_eq_ofNat, BitVec.extractLsb'_toNat,
      Nat.shiftRight_eq_div_pow, Bool.toNat_false, Bool.toNat_true] <;> omega
  clear e
  generalize encode (.xferVs p d a lane) = w at W ⊢
  have h1 : fMajor w = 36 := field_toNat w 26 6 _ (by rw [W] <;> omega)
  have h2 : (w.extractLsb' 5 6).toNat = 16 := field_toNat w 5 6 _ (by rw [W] <;> omega)
  have h3 : fD w = d := field_eq w 21 d (by rw [W] <;> omega)
  have h4 : fA w = a := field_eq w 16 a (by rw [W] <;> omega)
  have h5 : fFmt w = lane := field_eq w 0 lane (by rw [W] <;> omega)
  have U : ∀ i, unused w 0x0000F800 i = .ok i := fun i => unused_ok w _ i [(11, 5)] (by decide)
    (by simp only [List.forall_mem_cons, W] <;> simp <;> omega)
  have n : decodeAlu p w = none := by simp only [decodeAlu, h1]
  simp only [decodeX, decodeCross, h1, h2, h3, h4, h5, U, n]

theorem decode_vext (p : Pos) (d : BitVec 5) (a : BitVec 5) (b : BitVec 5) (fmt : BitVec 5) :
    decodeX p (encode (.vext p d a b fmt)) = .ok (.vext p d a b fmt) := by
  have e : encode (.vext p d a b fmt) = packR 0x24 d a b ((0x20 : BitVec 6) ++ fmt) := rfl
  have W : (encode (.vext p d a b fmt)).toNat = 2415920128 + d.toNat * 2 ^ 21 + a.toNat * 2 ^ 16 + b.toNat * 2 ^ 11 + fmt.toNat := by
    rw [e]
    simp only [packR, append_toNat, bit_toNat, BitVec.toNat_ofNat, BitVec.ofNat_eq_ofNat, BitVec.extractLsb'_toNat,
      Nat.shiftRight_eq_div_pow, Bool.toNat_false, Bool.toNat_true] <;> omega
  clear e
  generalize encode (.vext p d a b fmt) = w at W ⊢
  have h1 : fMajor w = 36 := field_toNat w 26 6 _ (by rw [W] <;> omega)
  have h2 : (w.extractLsb' 5 6).toNat = 32 := field_toNat w 5 6 _ (by rw [W] <;> omega)
  have h3 : fD w = d := field_eq w 21 d (by rw [W] <;> omega)
  have h4 : fA w = a := field_eq w 16 a (by rw [W] <;> omega)
  have h5 : fB w = b := field_eq w 11 b (by rw [W] <;> omega)
  have h6 : fFmt w = fmt := field_eq w 0 fmt (by rw [W] <;> omega)
  have n : decodeAlu p w = none := by simp only [decodeAlu, h1]
  simp only [decodeX, decodeCross, h1, h2, h3, h4, h5, h6, n]

theorem decode_ewr (p : Pos) (a : BitVec 5) (r : BitVec 16) :
    decodeX p (encode (.ewr p a r)) = .ok (.ewr p a r) := by
  have e : encode (.ewr p a r) = packI 0x25 0 a r := rfl
  have W : (encode (.ewr p a r)).toNat = 2483027968 + a.toNat * 2 ^ 16 + r.toNat := by
    rw [e]
    simp only [packI, append_toNat, bit_toNat, BitVec.toNat_ofNat, BitVec.ofNat_eq_ofNat, BitVec.extractLsb'_toNat,
      Nat.shiftRight_eq_div_pow, Bool.toNat_false, Bool.toNat_true] <;> omega
  clear e
  generalize encode (.ewr p a r) = w at W ⊢
  have h1 : fMajor w = 37 := field_toNat w 26 6 _ (by rw [W] <;> omega)
  have h2 : fA w = a := field_eq w 16 a (by rw [W] <;> omega)
  have h3 : fImm w = r := field_eq w 0 r (by rw [W] <;> omega)
  have U : ∀ i, unused w 0x03E00000 i = .ok i := fun i => unused_ok w _ i [(21, 5)] (by decide)
    (by simp only [List.forall_mem_cons, W] <;> simp <;> omega)
  have n : decodeAlu p w = none := by simp only [decodeAlu, h1]
  simp only [decodeX, h1, h2, h3, U, n]

theorem decode_erd (p : Pos) (d : BitVec 5) (r : BitVec 16) :
    decodeX p (encode (.erd p d r)) = .ok (.erd p d r) := by
  have e : encode (.erd p d r) = packI 0x26 d 0 r := rfl
  have W : (encode (.erd p d r)).toNat = 2550136832 + d.toNat * 2 ^ 21 + r.toNat := by
    rw [e]
    simp only [packI, append_toNat, bit_toNat, BitVec.toNat_ofNat, BitVec.ofNat_eq_ofNat, BitVec.extractLsb'_toNat,
      Nat.shiftRight_eq_div_pow, Bool.toNat_false, Bool.toNat_true] <;> omega
  clear e
  generalize encode (.erd p d r) = w at W ⊢
  have h1 : fMajor w = 38 := field_toNat w 26 6 _ (by rw [W] <;> omega)
  have h2 : fD w = d := field_eq w 21 d (by rw [W] <;> omega)
  have h3 : fImm w = r := field_eq w 0 r (by rw [W] <;> omega)
  have U : ∀ i, unused w 0x001F0000 i = .ok i := fun i => unused_ok w _ i [(16, 5)] (by decide)
    (by simp only [List.forall_mem_cons, W] <;> simp <;> omega)
  have n : decodeAlu p w = none := by simp only [decodeAlu, h1]
  simp only [decodeX, h1, h2, h3, U, n]

theorem decode_ego (p : Pos) (d : BitVec 5) (ch : BitVec 2) :
    decodeX p (encode (.ego p d ch)) = .ok (.ego p d ch) := by
  have e : encode (.ego p d ch) = packR 0x27 d 0 0 ((0x00 : BitVec 9) ++ ch) := rfl
  have W : (encode (.ego p d ch)).toNat = 2617245696 + d.toNat * 2 ^ 21 + ch.toNat := by
    rw [e]
    simp only [packR, append_toNat, bit_toNat, BitVec.toNat_ofNat, BitVec.ofNat_eq_ofNat, BitVec.extractLsb'_toNat,
      Nat.shiftRight_eq_div_pow, Bool.toNat_false, Bool.toNat_true] <;> omega
  clear e
  generalize encode (.ego p d ch) = w at W ⊢
  have h1 : fMajor w = 39 := field_toNat w 26 6 _ (by rw [W] <;> omega)
  have h2 : (w.extractLsb' 4 7).toNat = 0 := field_toNat w 4 7 _ (by rw [W] <;> omega)
  have h3 : fD w = d := field_eq w 21 d (by rw [W] <;> omega)
  have h4 : w.extractLsb' 0 2 = ch := field_eq w 0 ch (by rw [W] <;> omega)
  have U : ∀ i, unused w 0x001FF80C i = .ok i := fun i => unused_ok w _ i [(2, 2), (11, 10)] (by decide)
    (by simp only [List.forall_mem_cons, W] <;> simp <;> omega)
  have n : decodeAlu p w = none := by simp only [decodeAlu, h1]
  simp only [decodeX, decodeEngine, h1, h2, h3, h4, U, n]

theorem decode_egoP (p : Pos) (d : BitVec 5) (a : BitVec 5) (ch : BitVec 2) :
    decodeX p (encode (.egoP p d a ch)) = .ok (.egoP p d a ch) := by
  have e : encode (.egoP p d a ch) = packR 0x27 d a 0 ((0x04 : BitVec 9) ++ ch) := rfl
  have W : (encode (.egoP p d a ch)).toNat = 2617245712 + d.toNat * 2 ^ 21 + a.toNat * 2 ^ 16 + ch.toNat := by
    rw [e]
    simp only [packR, append_toNat, bit_toNat, BitVec.toNat_ofNat, BitVec.ofNat_eq_ofNat, BitVec.extractLsb'_toNat,
      Nat.shiftRight_eq_div_pow, Bool.toNat_false, Bool.toNat_true] <;> omega
  clear e
  generalize encode (.egoP p d a ch) = w at W ⊢
  have h1 : fMajor w = 39 := field_toNat w 26 6 _ (by rw [W] <;> omega)
  have h2 : (w.extractLsb' 4 7).toNat = 1 := field_toNat w 4 7 _ (by rw [W] <;> omega)
  have h3 : fD w = d := field_eq w 21 d (by rw [W] <;> omega)
  have h4 : fA w = a := field_eq w 16 a (by rw [W] <;> omega)
  have h5 : w.extractLsb' 0 2 = ch := field_eq w 0 ch (by rw [W] <;> omega)
  have U : ∀ i, unused w 0x0000F80C i = .ok i := fun i => unused_ok w _ i [(2, 2), (11, 5)] (by decide)
    (by simp only [List.forall_mem_cons, W] <;> simp <;> omega)
  have n : decodeAlu p w = none := by simp only [decodeAlu, h1]
  simp only [decodeX, decodeEngine, h1, h2, h3, h4, h5, U, n]

theorem decode_ecan (p : Pos) (ch : BitVec 2) :
    decodeX p (encode (.ecan p ch)) = .ok (.ecan p ch) := by
  have e : encode (.ecan p ch) = packR 0x27 0 0 0 ((0x08 : BitVec 9) ++ ch) := rfl
  have W : (encode (.ecan p ch)).toNat = 2617245728 + ch.toNat := by
    rw [e]
    simp only [packR, append_toNat, bit_toNat, BitVec.toNat_ofNat, BitVec.ofNat_eq_ofNat, BitVec.extractLsb'_toNat,
      Nat.shiftRight_eq_div_pow, Bool.toNat_false, Bool.toNat_true] <;> omega
  clear e
  generalize encode (.ecan p ch) = w at W ⊢
  have h1 : fMajor w = 39 := field_toNat w 26 6 _ (by rw [W] <;> omega)
  have h2 : (w.extractLsb' 4 7).toNat = 2 := field_toNat w 4 7 _ (by rw [W] <;> omega)
  have h3 : w.extractLsb' 0 2 = ch := field_eq w 0 ch (by rw [W] <;> omega)
  have U : ∀ i, unused w 0x03FFF80C i = .ok i := fun i => unused_ok w _ i [(2, 2), (11, 15)] (by decide)
    (by simp only [List.forall_mem_cons, W] <;> simp <;> omega)
  have n : decodeAlu p w = none := by simp only [decodeAlu, h1]
  simp only [decodeX, decodeEngine, h1, h2, h3, U, n]

theorem decode_twait (p : Pos) (a : BitVec 5) (ch : BitVec 2) :
    decodeX p (encode (.twait p a ch)) = .ok (.twait p a ch) := by
  have e : encode (.twait p a ch) = packR 0x27 0 a 0 ((0x0C : BitVec 9) ++ ch) := rfl
  have W : (encode (.twait p a ch)).toNat = 2617245744 + a.toNat * 2 ^ 16 + ch.toNat := by
    rw [e]
    simp only [packR, append_toNat, bit_toNat, BitVec.toNat_ofNat, BitVec.ofNat_eq_ofNat, BitVec.extractLsb'_toNat,
      Nat.shiftRight_eq_div_pow, Bool.toNat_false, Bool.toNat_true] <;> omega
  clear e
  generalize encode (.twait p a ch) = w at W ⊢
  have h1 : fMajor w = 39 := field_toNat w 26 6 _ (by rw [W] <;> omega)
  have h2 : (w.extractLsb' 4 7).toNat = 3 := field_toNat w 4 7 _ (by rw [W] <;> omega)
  have h3 : fA w = a := field_eq w 16 a (by rw [W] <;> omega)
  have h4 : w.extractLsb' 0 2 = ch := field_eq w 0 ch (by rw [W] <;> omega)
  have U : ∀ i, unused w 0x03E0F80C i = .ok i := fun i => unused_ok w _ i [(2, 2), (11, 5), (21, 5)] (by decide)
    (by simp only [List.forall_mem_cons, W] <;> simp <;> omega)
  have n : decodeAlu p w = none := by simp only [decodeAlu, h1]
  simp only [decodeX, decodeEngine, h1, h2, h3, h4, U, n]

theorem decode_twaitn (p : Pos) (a : BitVec 5) (ch : BitVec 2) :
    decodeX p (encode (.twaitn p a ch)) = .ok (.twaitn p a ch) := by
  have e : encode (.twaitn p a ch) = packR 0x27 0 a 0 ((0x10 : BitVec 9) ++ ch) := rfl
  have W : (encode (.twaitn p a ch)).toNat = 2617245760 + a.toNat * 2 ^ 16 + ch.toNat := by
    rw [e]
    simp only [packR, append_toNat, bit_toNat, BitVec.toNat_ofNat, BitVec.ofNat_eq_ofNat, BitVec.extractLsb'_toNat,
      Nat.shiftRight_eq_div_pow, Bool.toNat_false, Bool.toNat_true] <;> omega
  clear e
  generalize encode (.twaitn p a ch) = w at W ⊢
  have h1 : fMajor w = 39 := field_toNat w 26 6 _ (by rw [W] <;> omega)
  have h2 : (w.extractLsb' 4 7).toNat = 4 := field_toNat w 4 7 _ (by rw [W] <;> omega)
  have h3 : fA w = a := field_eq w 16 a (by rw [W] <;> omega)
  have h4 : w.extractLsb' 0 2 = ch := field_eq w 0 ch (by rw [W] <;> omega)
  have U : ∀ i, unused w 0x03E0F80C i = .ok i := fun i => unused_ok w _ i [(2, 2), (11, 5), (21, 5)] (by decide)
    (by simp only [List.forall_mem_cons, W] <;> simp <;> omega)
  have n : decodeAlu p w = none := by simp only [decodeAlu, h1]
  simp only [decodeX, decodeEngine, h1, h2, h3, h4, U, n]

theorem decode_qfence (p : Pos) (mask : BitVec 4) :
    decodeX p (encode (.qfence p mask)) = .ok (.qfence p mask) := by
  have e : encode (.qfence p mask) = packR 0x27 0 0 0 ((0x05 : BitVec 7) ++ mask) := rfl
  have W : (encode (.qfence p mask)).toNat = 2617245776 + mask.toNat := by
    rw [e]
    simp only [packR, append_toNat, bit_toNat, BitVec.toNat_ofNat, BitVec.ofNat_eq_ofNat, BitVec.extractLsb'_toNat,
      Nat.shiftRight_eq_div_pow, Bool.toNat_false, Bool.toNat_true] <;> omega
  clear e
  generalize encode (.qfence p mask) = w at W ⊢
  have h1 : fMajor w = 39 := field_toNat w 26 6 _ (by rw [W] <;> omega)
  have h2 : (w.extractLsb' 4 7).toNat = 5 := field_toNat w 4 7 _ (by rw [W] <;> omega)
  have h3 : w.extractLsb' 0 4 = mask := field_eq w 0 mask (by rw [W] <;> omega)
  have U : ∀ i, unused w 0x03FFF800 i = .ok i := fun i => unused_ok w _ i [(11, 15)] (by decide)
    (by simp only [List.forall_mem_cons, W] <;> simp <;> omega)
  have n : decodeAlu p w = none := by simp only [decodeAlu, h1]
  simp only [decodeX, decodeEngine, h1, h2, h3, U, n]

theorem decode_pbinv (p : Pos) (a : BitVec 5) :
    decodeX p (encode (.pbinv p a)) = .ok (.pbinv p a) := by
  have e : encode (.pbinv p a) = packR 0x27 0 a 0 0x060 := rfl
  have W : (encode (.pbinv p a)).toNat = 2617245792 + a.toNat * 2 ^ 16 := by
    rw [e]
    simp only [packR, append_toNat, bit_toNat, BitVec.toNat_ofNat, BitVec.ofNat_eq_ofNat, BitVec.extractLsb'_toNat,
      Nat.shiftRight_eq_div_pow, Bool.toNat_false, Bool.toNat_true] <;> omega
  clear e
  generalize encode (.pbinv p a) = w at W ⊢
  have h1 : fMajor w = 39 := field_toNat w 26 6 _ (by rw [W] <;> omega)
  have h2 : (w.extractLsb' 4 7).toNat = 6 := field_toNat w 4 7 _ (by rw [W] <;> omega)
  have h3 : fA w = a := field_eq w 16 a (by rw [W] <;> omega)
  have U : ∀ i, unused w 0x03E0F80F i = .ok i := fun i => unused_ok w _ i [(0, 4), (11, 5), (21, 5)] (by decide)
    (by simp only [List.forall_mem_cons, W] <;> simp <;> omega)
  have n : decodeAlu p w = none := by simp only [decodeAlu, h1]
  simp only [decodeX, decodeEngine, h1, h2, h3, U, n]

theorem decode_bcast (p : Pos) (a : BitVec 5) (b : BitVec 5) :
    decodeX p (encode (.bcast p a b)) = .ok (.bcast p a b) := by
  have e : encode (.bcast p a b) = packR 0x28 0 a b 0 := rfl
  have W : (encode (.bcast p a b)).toNat = 2684354560 + a.toNat * 2 ^ 16 + b.toNat * 2 ^ 11 := by
    rw [e]
    simp only [packR, append_toNat, bit_toNat, BitVec.toNat_ofNat, BitVec.ofNat_eq_ofNat, BitVec.extractLsb'_toNat,
      Nat.shiftRight_eq_div_pow, Bool.toNat_false, Bool.toNat_true] <;> omega
  clear e
  generalize encode (.bcast p a b) = w at W ⊢
  have h1 : fMajor w = 40 := field_toNat w 26 6 _ (by rw [W] <;> omega)
  have h2 : fA w = a := field_eq w 16 a (by rw [W] <;> omega)
  have h3 : fB w = b := field_eq w 11 b (by rw [W] <;> omega)
  have U : ∀ i, unused w 0x03E007FF i = .ok i := fun i => unused_ok w _ i [(0, 11), (21, 5)] (by decide)
    (by simp only [List.forall_mem_cons, W] <;> simp <;> omega)
  have n : decodeAlu p w = none := by simp only [decodeAlu, h1]
  simp only [decodeX, h1, h2, h3, U, n]

theorem decode_blatch (p : Pos) (a : BitVec 5) :
    decodeX p (encode (.blatch p a)) = .ok (.blatch p a) := by
  have e : encode (.blatch p a) = packR 0x29 0 a 0 0 := rfl
  have W : (encode (.blatch p a)).toNat = 2751463424 + a.toNat * 2 ^ 16 := by
    rw [e]
    simp only [packR, append_toNat, bit_toNat, BitVec.toNat_ofNat, BitVec.ofNat_eq_ofNat, BitVec.extractLsb'_toNat,
      Nat.shiftRight_eq_div_pow, Bool.toNat_false, Bool.toNat_true] <;> omega
  clear e
  generalize encode (.blatch p a) = w at W ⊢
  have h1 : fMajor w = 41 := field_toNat w 26 6 _ (by rw [W] <;> omega)
  have h2 : fA w = a := field_eq w 16 a (by rw [W] <;> omega)
  have U : ∀ i, unused w 0x03E0FFFF i = .ok i := fun i => unused_ok w _ i [(0, 16), (21, 5)] (by decide)
    (by simp only [List.forall_mem_cons, W] <;> simp <;> omega)
  have n : decodeAlu p w = none := by simp only [decodeAlu, h1]
  simp only [decodeX, h1, h2, U, n]

theorem decode_rsgo (p : Pos) (d : BitVec 5) (a : BitVec 5) (b : BitVec 5) :
    decodeX p (encode (.rsgo p d a b)) = .ok (.rsgo p d a b) := by
  have e : encode (.rsgo p d a b) = packR 0x2A d a b 0x000 := rfl
  have W : (encode (.rsgo p d a b)).toNat = 2818572288 + d.toNat * 2 ^ 21 + a.toNat * 2 ^ 16 + b.toNat * 2 ^ 11 := by
    rw [e]
    simp only [packR, append_toNat, bit_toNat, BitVec.toNat_ofNat, BitVec.ofNat_eq_ofNat, BitVec.extractLsb'_toNat,
      Nat.shiftRight_eq_div_pow, Bool.toNat_false, Bool.toNat_true] <;> omega
  clear e
  generalize encode (.rsgo p d a b) = w at W ⊢
  have h1 : fMajor w = 42 := field_toNat w 26 6 _ (by rw [W] <;> omega)
  have h2 : (fFun w).toNat = 0 := field_toNat w 0 11 _ (by rw [W] <;> omega)
  have h3 : fD w = d := field_eq w 21 d (by rw [W] <;> omega)
  have h4 : fA w = a := field_eq w 16 a (by rw [W] <;> omega)
  have h5 : fB w = b := field_eq w 11 b (by rw [W] <;> omega)
  have n : decodeAlu p w = none := by simp only [decodeAlu, h1]
  simp only [decodeX, decodeFlow, h1, h2, h3, h4, h5, n]

theorem decode_rsstat (p : Pos) (d : BitVec 5) (a : BitVec 5) :
    decodeX p (encode (.rsstat p d a)) = .ok (.rsstat p d a) := by
  have e : encode (.rsstat p d a) = packR 0x2A d a 0 0x001 := rfl
  have W : (encode (.rsstat p d a)).toNat = 2818572289 + d.toNat * 2 ^ 21 + a.toNat * 2 ^ 16 := by
    rw [e]
    simp only [packR, append_toNat, bit_toNat, BitVec.toNat_ofNat, BitVec.ofNat_eq_ofNat, BitVec.extractLsb'_toNat,
      Nat.shiftRight_eq_div_pow, Bool.toNat_false, Bool.toNat_true] <;> omega
  clear e
  generalize encode (.rsstat p d a) = w at W ⊢
  have h1 : fMajor w = 42 := field_toNat w 26 6 _ (by rw [W] <;> omega)
  have h2 : (fFun w).toNat = 1 := field_toNat w 0 11 _ (by rw [W] <;> omega)
  have h3 : fD w = d := field_eq w 21 d (by rw [W] <;> omega)
  have h4 : fA w = a := field_eq w 16 a (by rw [W] <;> omega)
  have U : ∀ i, unused w 0x0000F800 i = .ok i := fun i => unused_ok w _ i [(11, 5)] (by decide)
    (by simp only [List.forall_mem_cons, W] <;> simp <;> omega)
  have n : decodeAlu p w = none := by simp only [decodeAlu, h1]
  simp only [decodeX, decodeFlow, h1, h2, h3, h4, U, n]

theorem decode_rsstop (p : Pos) (a : BitVec 5) :
    decodeX p (encode (.rsstop p a)) = .ok (.rsstop p a) := by
  have e : encode (.rsstop p a) = packR 0x2A 0 a 0 0x002 := rfl
  have W : (encode (.rsstop p a)).toNat = 2818572290 + a.toNat * 2 ^ 16 := by
    rw [e]
    simp only [packR, append_toNat, bit_toNat, BitVec.toNat_ofNat, BitVec.ofNat_eq_ofNat, BitVec.extractLsb'_toNat,
      Nat.shiftRight_eq_div_pow, Bool.toNat_false, Bool.toNat_true] <;> omega
  clear e
  generalize encode (.rsstop p a) = w at W ⊢
  have h1 : fMajor w = 42 := field_toNat w 26 6 _ (by rw [W] <;> omega)
  have h2 : (fFun w).toNat = 2 := field_toNat w 0 11 _ (by rw [W] <;> omega)
  have h3 : fA w = a := field_eq w 16 a (by rw [W] <;> omega)
  have U : ∀ i, unused w 0x03E0F800 i = .ok i := fun i => unused_ok w _ i [(11, 5), (21, 5)] (by decide)
    (by simp only [List.forall_mem_cons, W] <;> simp <;> omega)
  have n : decodeAlu p w = none := by simp only [decodeAlu, h1]
  simp only [decodeX, decodeFlow, h1, h2, h3, U, n]

theorem decode_ckpt (p : Pos) (a : BitVec 5) (b : BitVec 5) :
    decodeX p (encode (.ckpt p a b)) = .ok (.ckpt p a b) := by
  have e : encode (.ckpt p a b) = packR 0x2A 0 a b 0x003 := rfl
  have W : (encode (.ckpt p a b)).toNat = 2818572291 + a.toNat * 2 ^ 16 + b.toNat * 2 ^ 11 := by
    rw [e]
    simp only [packR, append_toNat, bit_toNat, BitVec.toNat_ofNat, BitVec.ofNat_eq_ofNat, BitVec.extractLsb'_toNat,
      Nat.shiftRight_eq_div_pow, Bool.toNat_false, Bool.toNat_true] <;> omega
  clear e
  generalize encode (.ckpt p a b) = w at W ⊢
  have h1 : fMajor w = 42 := field_toNat w 26 6 _ (by rw [W] <;> omega)
  have h2 : (fFun w).toNat = 3 := field_toNat w 0 11 _ (by rw [W] <;> omega)
  have h3 : fA w = a := field_eq w 16 a (by rw [W] <;> omega)
  have h4 : fB w = b := field_eq w 11 b (by rw [W] <;> omega)
  have U : ∀ i, unused w 0x03E00000 i = .ok i := fun i => unused_ok w _ i [(21, 5)] (by decide)
    (by simp only [List.forall_mem_cons, W] <;> simp <;> omega)
  have n : decodeAlu p w = none := by simp only [decodeAlu, h1]
  simp only [decodeX, decodeFlow, h1, h2, h3, h4, U, n]

theorem decode_slopen (p : Pos) (h : BitVec 3) (d : BitVec 5) (a : BitVec 5) :
    decodeX p (encode (.slopen p h d a)) = .ok (.slopen p h d a) := by
  have e : encode (.slopen p h d a) = packR 0x2B d a 0 (h ++ (0x00 : BitVec 8)) := rfl
  have W : (encode (.slopen p h d a)).toNat = 2885681152 + d.toNat * 2 ^ 21 + a.toNat * 2 ^ 16 + h.toNat * 2 ^ 8 := by
    rw [e]
    simp only [packR, append_toNat, bit_toNat, BitVec.toNat_ofNat, BitVec.ofNat_eq_ofNat, BitVec.extractLsb'_toNat,
      Nat.shiftRight_eq_div_pow, Bool.toNat_false, Bool.toNat_true] <;> omega
  clear e
  generalize encode (.slopen p h d a) = w at W ⊢
  have h1 : fMajor w = 43 := field_toNat w 26 6 _ (by rw [W] <;> omega)
  have h2 : (w.extractLsb' 0 8).toNat = 0 := field_toNat w 0 8 _ (by rw [W] <;> omega)
  have h3 : w.extractLsb' 8 3 = h := field_eq w 8 h (by rw [W] <;> omega)
  have h4 : fD w = d := field_eq w 21 d (by rw [W] <;> omega)
  have h5 : fA w = a := field_eq w 16 a (by rw [W] <;> omega)
  have U : ∀ i, unused w 0x0000F800 i = .ok i := fun i => unused_ok w _ i [(11, 5)] (by decide)
    (by simp only [List.forall_mem_cons, W] <;> simp <;> omega)
  have n : decodeAlu p w = none := by simp only [decodeAlu, h1]
  simp only [decodeX, decodeRim, h1, h2, h3, h4, h5, U, n]

theorem decode_slbind (p : Pos) (h : BitVec 3) (d : BitVec 5) (a : BitVec 5) (b : BitVec 5) :
    decodeX p (encode (.slbind p h d a b)) = .ok (.slbind p h d a b) := by
  have e : encode (.slbind p h d a b) = packR 0x2B d a b (h ++ (0x01 : BitVec 8)) := rfl
  have W : (encode (.slbind p h d a b)).toNat = 2885681153 + d.toNat * 2 ^ 21 + a.toNat * 2 ^ 16 + b.toNat * 2 ^ 11 + h.toNat * 2 ^ 8 := by
    rw [e]
    simp only [packR, append_toNat, bit_toNat, BitVec.toNat_ofNat, BitVec.ofNat_eq_ofNat, BitVec.extractLsb'_toNat,
      Nat.shiftRight_eq_div_pow, Bool.toNat_false, Bool.toNat_true] <;> omega
  clear e
  generalize encode (.slbind p h d a b) = w at W ⊢
  have h1 : fMajor w = 43 := field_toNat w 26 6 _ (by rw [W] <;> omega)
  have h2 : (w.extractLsb' 0 8).toNat = 1 := field_toNat w 0 8 _ (by rw [W] <;> omega)
  have h3 : w.extractLsb' 8 3 = h := field_eq w 8 h (by rw [W] <;> omega)
  have h4 : fD w = d := field_eq w 21 d (by rw [W] <;> omega)
  have h5 : fA w = a := field_eq w 16 a (by rw [W] <;> omega)
  have h6 : fB w = b := field_eq w 11 b (by rw [W] <;> omega)
  have n : decodeAlu p w = none := by simp only [decodeAlu, h1]
  simp only [decodeX, decodeRim, h1, h2, h3, h4, h5, h6, n]

theorem decode_sldone (p : Pos) (h : BitVec 3) :
    decodeX p (encode (.sldone p h)) = .ok (.sldone p h) := by
  have e : encode (.sldone p h) = packR 0x2B 0 0 0 (h ++ (0x02 : BitVec 8)) := rfl
  have W : (encode (.sldone p h)).toNat = 2885681154 + h.toNat * 2 ^ 8 := by
    rw [e]
    simp only [packR, append_toNat, bit_toNat, BitVec.toNat_ofNat, BitVec.ofNat_eq_ofNat, BitVec.extractLsb'_toNat,
      Nat.shiftRight_eq_div_pow, Bool.toNat_false, Bool.toNat_true] <;> omega
  clear e
  generalize encode (.sldone p h) = w at W ⊢
  have h1 : fMajor w = 43 := field_toNat w 26 6 _ (by rw [W] <;> omega)
  have h2 : (w.extractLsb' 0 8).toNat = 2 := field_toNat w 0 8 _ (by rw [W] <;> omega)
  have h3 : w.extractLsb' 8 3 = h := field_eq w 8 h (by rw [W] <;> omega)
  have U : ∀ i, unused w 0x03FFF800 i = .ok i := fun i => unused_ok w _ i [(11, 15)] (by decide)
    (by simp only [List.forall_mem_cons, W] <;> simp <;> omega)
  have n : decodeAlu p w = none := by simp only [decodeAlu, h1]
  simp only [decodeX, decodeRim, h1, h2, h3, U, n]

theorem decode_slgdone (p : Pos) (h : BitVec 3) :
    decodeX p (encode (.slgdone p h)) = .ok (.slgdone p h) := by
  have e : encode (.slgdone p h) = packR 0x2B 0 0 0 (h ++ (0x03 : BitVec 8)) := rfl
  have W : (encode (.slgdone p h)).toNat = 2885681155 + h.toNat * 2 ^ 8 := by
    rw [e]
    simp only [packR, append_toNat, bit_toNat, BitVec.toNat_ofNat, BitVec.ofNat_eq_ofNat, BitVec.extractLsb'_toNat,
      Nat.shiftRight_eq_div_pow, Bool.toNat_false, Bool.toNat_true] <;> omega
  clear e
  generalize encode (.slgdone p h) = w at W ⊢
  have h1 : fMajor w = 43 := field_toNat w 26 6 _ (by rw [W] <;> omega)
  have h2 : (w.extractLsb' 0 8).toNat = 3 := field_toNat w 0 8 _ (by rw [W] <;> omega)
  have h3 : w.extractLsb' 8 3 = h := field_eq w 8 h (by rw [W] <;> omega)
  have U : ∀ i, unused w 0x03FFF800 i = .ok i := fun i => unused_ok w _ i [(11, 15)] (by decide)
    (by simp only [List.forall_mem_cons, W] <;> simp <;> omega)
  have n : decodeAlu p w = none := by simp only [decodeAlu, h1]
  simp only [decodeX, decodeRim, h1, h2, h3, U, n]

theorem decode_slstat (p : Pos) (h : BitVec 3) (d : BitVec 5) (a : BitVec 5) :
    decodeX p (encode (.slstat p h d a)) = .ok (.slstat p h d a) := by
  have e : encode (.slstat p h d a) = packR 0x2B d a 0 (h ++ (0x04 : BitVec 8)) := rfl
  have W : (encode (.slstat p h d a)).toNat = 2885681156 + d.toNat * 2 ^ 21 + a.toNat * 2 ^ 16 + h.toNat * 2 ^ 8 := by
    rw [e]
    simp only [packR, append_toNat, bit_toNat, BitVec.toNat_ofNat, BitVec.ofNat_eq_ofNat, BitVec.extractLsb'_toNat,
      Nat.shiftRight_eq_div_pow, Bool.toNat_false, Bool.toNat_true] <;> omega
  clear e
  generalize encode (.slstat p h d a) = w at W ⊢
  have h1 : fMajor w = 43 := field_toNat w 26 6 _ (by rw [W] <;> omega)
  have h2 : (w.extractLsb' 0 8).toNat = 4 := field_toNat w 0 8 _ (by rw [W] <;> omega)
  have h3 : w.extractLsb' 8 3 = h := field_eq w 8 h (by rw [W] <;> omega)
  have h4 : fD w = d := field_eq w 21 d (by rw [W] <;> omega)
  have h5 : fA w = a := field_eq w 16 a (by rw [W] <;> omega)
  have U : ∀ i, unused w 0x0000F800 i = .ok i := fun i => unused_ok w _ i [(11, 5)] (by decide)
    (by simp only [List.forall_mem_cons, W] <;> simp <;> omega)
  have n : decodeAlu p w = none := by simp only [decodeAlu, h1]
  simp only [decodeX, decodeRim, h1, h2, h3, h4, h5, U, n]

theorem decode_sljump (p : Pos) (h : BitVec 3) (d : BitVec 5) (a : BitVec 5) :
    decodeX p (encode (.sljump p h d a)) = .ok (.sljump p h d a) := by
  have e : encode (.sljump p h d a) = packR 0x2B d a 0 (h ++ (0x05 : BitVec 8)) := rfl
  have W : (encode (.sljump p h d a)).toNat = 2885681157 + d.toNat * 2 ^ 21 + a.toNat * 2 ^ 16 + h.toNat * 2 ^ 8 := by
    rw [e]
    simp only [packR, append_toNat, bit_toNat, BitVec.toNat_ofNat, BitVec.ofNat_eq_ofNat, BitVec.extractLsb'_toNat,
      Nat.shiftRight_eq_div_pow, Bool.toNat_false, Bool.toNat_true] <;> omega
  clear e
  generalize encode (.sljump p h d a) = w at W ⊢
  have h1 : fMajor w = 43 := field_toNat w 26 6 _ (by rw [W] <;> omega)
  have h2 : (w.extractLsb' 0 8).toNat = 5 := field_toNat w 0 8 _ (by rw [W] <;> omega)
  have h3 : w.extractLsb' 8 3 = h := field_eq w 8 h (by rw [W] <;> omega)
  have h4 : fD w = d := field_eq w 21 d (by rw [W] <;> omega)
  have h5 : fA w = a := field_eq w 16 a (by rw [W] <;> omega)
  have U : ∀ i, unused w 0x0000F800 i = .ok i := fun i => unused_ok w _ i [(11, 5)] (by decide)
    (by simp only [List.forall_mem_cons, W] <;> simp <;> omega)
  have n : decodeAlu p w = none := by simp only [decodeAlu, h1]
  simp only [decodeX, decodeRim, h1, h2, h3, h4, h5, U, n]

theorem decode_slpfx (p : Pos) (h : BitVec 3) (d : BitVec 5) :
    decodeX p (encode (.slpfx p h d)) = .ok (.slpfx p h d) := by
  have e : encode (.slpfx p h d) = packR 0x2B d 0 0 (h ++ (0x06 : BitVec 8)) := rfl
  have W : (encode (.slpfx p h d)).toNat = 2885681158 + d.toNat * 2 ^ 21 + h.toNat * 2 ^ 8 := by
    rw [e]
    simp only [packR, append_toNat, bit_toNat, BitVec.toNat_ofNat, BitVec.ofNat_eq_ofNat, BitVec.extractLsb'_toNat,
      Nat.shiftRight_eq_div_pow, Bool.toNat_false, Bool.toNat_true] <;> omega
  clear e
  generalize encode (.slpfx p h d) = w at W ⊢
  have h1 : fMajor w = 43 := field_toNat w 26 6 _ (by rw [W] <;> omega)
  have h2 : (w.extractLsb' 0 8).toNat = 6 := field_toNat w 0 8 _ (by rw [W] <;> omega)
  have h3 : w.extractLsb' 8 3 = h := field_eq w 8 h (by rw [W] <;> omega)
  have h4 : fD w = d := field_eq w 21 d (by rw [W] <;> omega)
  have U : ∀ i, unused w 0x001FF800 i = .ok i := fun i => unused_ok w _ i [(11, 10)] (by decide)
    (by simp only [List.forall_mem_cons, W] <;> simp <;> omega)
  have n : decodeAlu p w = none := by simp only [decodeAlu, h1]
  simp only [decodeX, decodeRim, h1, h2, h3, h4, U, n]

theorem decode_slinfo (p : Pos) (h : BitVec 3) (d : BitVec 5) (a : BitVec 5) (b : BitVec 5) :
    decodeX p (encode (.slinfo p h d a b)) = .ok (.slinfo p h d a b) := by
  have e : encode (.slinfo p h d a b) = packR 0x2B d a b (h ++ (0x07 : BitVec 8)) := rfl
  have W : (encode (.slinfo p h d a b)).toNat = 2885681159 + d.toNat * 2 ^ 21 + a.toNat * 2 ^ 16 + b.toNat * 2 ^ 11 + h.toNat * 2 ^ 8 := by
    rw [e]
    simp only [packR, append_toNat, bit_toNat, BitVec.toNat_ofNat, BitVec.ofNat_eq_ofNat, BitVec.extractLsb'_toNat,
      Nat.shiftRight_eq_div_pow, Bool.toNat_false, Bool.toNat_true] <;> omega
  clear e
  generalize encode (.slinfo p h d a b) = w at W ⊢
  have h1 : fMajor w = 43 := field_toNat w 26 6 _ (by rw [W] <;> omega)
  have h2 : (w.extractLsb' 0 8).toNat = 7 := field_toNat w 0 8 _ (by rw [W] <;> omega)
  have h3 : w.extractLsb' 8 3 = h := field_eq w 8 h (by rw [W] <;> omega)
  have h4 : fD w = d := field_eq w 21 d (by rw [W] <;> omega)
  have h5 : fA w = a := field_eq w 16 a (by rw [W] <;> omega)
  have h6 : fB w = b := field_eq w 11 b (by rw [W] <;> omega)
  have n : decodeAlu p w = none := by simp only [decodeAlu, h1]
  simp only [decodeX, decodeRim, h1, h2, h3, h4, h5, h6, n]

theorem decode_slwait (p : Pos) (h : BitVec 3) (a : BitVec 5) :
    decodeX p (encode (.slwait p h a)) = .ok (.slwait p h a) := by
  have e : encode (.slwait p h a) = packR 0x2B 0 a 0 (h ++ (0x08 : BitVec 8)) := rfl
  have W : (encode (.slwait p h a)).toNat = 2885681160 + a.toNat * 2 ^ 16 + h.toNat * 2 ^ 8 := by
    rw [e]
    simp only [packR, append_toNat, bit_toNat, BitVec.toNat_ofNat, BitVec.ofNat_eq_ofNat, BitVec.extractLsb'_toNat,
      Nat.shiftRight_eq_div_pow, Bool.toNat_false, Bool.toNat_true] <;> omega
  clear e
  generalize encode (.slwait p h a) = w at W ⊢
  have h1 : fMajor w = 43 := field_toNat w 26 6 _ (by rw [W] <;> omega)
  have h2 : (w.extractLsb' 0 8).toNat = 8 := field_toNat w 0 8 _ (by rw [W] <;> omega)
  have h3 : w.extractLsb' 8 3 = h := field_eq w 8 h (by rw [W] <;> omega)
  have h4 : fA w = a := field_eq w 16 a (by rw [W] <;> omega)
  have U : ∀ i, unused w 0x03E0F800 i = .ok i := fun i => unused_ok w _ i [(11, 5), (21, 5)] (by decide)
    (by simp only [List.forall_mem_cons, W] <;> simp <;> omega)
  have n : decodeAlu p w = none := by simp only [decodeAlu, h1]
  simp only [decodeX, decodeRim, h1, h2, h3, h4, U, n]

theorem decode_slretire (p : Pos) (h : BitVec 3) (d : BitVec 5) :
    decodeX p (encode (.slretire p h d)) = .ok (.slretire p h d) := by
  have e : encode (.slretire p h d) = packR 0x2B d 0 0 (h ++ (0x09 : BitVec 8)) := rfl
  have W : (encode (.slretire p h d)).toNat = 2885681161 + d.toNat * 2 ^ 21 + h.toNat * 2 ^ 8 := by
    rw [e]
    simp only [packR, append_toNat, bit_toNat, BitVec.toNat_ofNat, BitVec.ofNat_eq_ofNat, BitVec.extractLsb'_toNat,
      Nat.shiftRight_eq_div_pow, Bool.toNat_false, Bool.toNat_true] <;> omega
  clear e
  generalize encode (.slretire p h d) = w at W ⊢
  have h1 : fMajor w = 43 := field_toNat w 26 6 _ (by rw [W] <;> omega)
  have h2 : (w.extractLsb' 0 8).toNat = 9 := field_toNat w 0 8 _ (by rw [W] <;> omega)
  have h3 : w.extractLsb' 8 3 = h := field_eq w 8 h (by rw [W] <;> omega)
  have h4 : fD w = d := field_eq w 21 d (by rw [W] <;> omega)
  have U : ∀ i, unused w 0x001FF800 i = .ok i := fun i => unused_ok w _ i [(11, 10)] (by decide)
    (by simp only [List.forall_mem_cons, W] <;> simp <;> omega)
  have n : decodeAlu p w = none := by simp only [decodeAlu, h1]
  simp only [decodeX, decodeRim, h1, h2, h3, h4, U, n]

theorem decode_slrecycle (p : Pos) (h : BitVec 3) (d : BitVec 5) :
    decodeX p (encode (.slrecycle p h d)) = .ok (.slrecycle p h d) := by
  have e : encode (.slrecycle p h d) = packR 0x2B d 0 0 (h ++ (0x0A : BitVec 8)) := rfl
  have W : (encode (.slrecycle p h d)).toNat = 2885681162 + d.toNat * 2 ^ 21 + h.toNat * 2 ^ 8 := by
    rw [e]
    simp only [packR, append_toNat, bit_toNat, BitVec.toNat_ofNat, BitVec.ofNat_eq_ofNat, BitVec.extractLsb'_toNat,
      Nat.shiftRight_eq_div_pow, Bool.toNat_false, Bool.toNat_true] <;> omega
  clear e
  generalize encode (.slrecycle p h d) = w at W ⊢
  have h1 : fMajor w = 43 := field_toNat w 26 6 _ (by rw [W] <;> omega)
  have h2 : (w.extractLsb' 0 8).toNat = 10 := field_toNat w 0 8 _ (by rw [W] <;> omega)
  have h3 : w.extractLsb' 8 3 = h := field_eq w 8 h (by rw [W] <;> omega)
  have h4 : fD w = d := field_eq w 21 d (by rw [W] <;> omega)
  have U : ∀ i, unused w 0x001FF800 i = .ok i := fun i => unused_ok w _ i [(11, 10)] (by decide)
    (by simp only [List.forall_mem_cons, W] <;> simp <;> omega)
  have n : decodeAlu p w = none := by simp only [decodeAlu, h1]
  simp only [decodeX, decodeRim, h1, h2, h3, h4, U, n]

theorem decode_slrefresh (p : Pos) (h : BitVec 3) (a : BitVec 5) :
    decodeX p (encode (.slrefresh p h a)) = .ok (.slrefresh p h a) := by
  have e : encode (.slrefresh p h a) = packR 0x2B 0 a 0 (h ++ (0x0B : BitVec 8)) := rfl
  have W : (encode (.slrefresh p h a)).toNat = 2885681163 + a.toNat * 2 ^ 16 + h.toNat * 2 ^ 8 := by
    rw [e]
    simp only [packR, append_toNat, bit_toNat, BitVec.toNat_ofNat, BitVec.ofNat_eq_ofNat, BitVec.extractLsb'_toNat,
      Nat.shiftRight_eq_div_pow, Bool.toNat_false, Bool.toNat_true] <;> omega
  clear e
  generalize encode (.slrefresh p h a) = w at W ⊢
  have h1 : fMajor w = 43 := field_toNat w 26 6 _ (by rw [W] <;> omega)
  have h2 : (w.extractLsb' 0 8).toNat = 11 := field_toNat w 0 8 _ (by rw [W] <;> omega)
  have h3 : w.extractLsb' 8 3 = h := field_eq w 8 h (by rw [W] <;> omega)
  have h4 : fA w = a := field_eq w 16 a (by rw [W] <;> omega)
  have U : ∀ i, unused w 0x03E0F800 i = .ok i := fun i => unused_ok w _ i [(11, 5), (21, 5)] (by decide)
    (by simp only [List.forall_mem_cons, W] <;> simp <;> omega)
  have n : decodeAlu p w = none := by simp only [decodeAlu, h1]
  simp only [decodeX, decodeRim, h1, h2, h3, h4, U, n]

theorem decode_slclose (p : Pos) (h : BitVec 3) :
    decodeX p (encode (.slclose p h)) = .ok (.slclose p h) := by
  have e : encode (.slclose p h) = packR 0x2B 0 0 0 (h ++ (0x0C : BitVec 8)) := rfl
  have W : (encode (.slclose p h)).toNat = 2885681164 + h.toNat * 2 ^ 8 := by
    rw [e]
    simp only [packR, append_toNat, bit_toNat, BitVec.toNat_ofNat, BitVec.ofNat_eq_ofNat, BitVec.extractLsb'_toNat,
      Nat.shiftRight_eq_div_pow, Bool.toNat_false, Bool.toNat_true] <;> omega
  clear e
  generalize encode (.slclose p h) = w at W ⊢
  have h1 : fMajor w = 43 := field_toNat w 26 6 _ (by rw [W] <;> omega)
  have h2 : (w.extractLsb' 0 8).toNat = 12 := field_toNat w 0 8 _ (by rw [W] <;> omega)
  have h3 : w.extractLsb' 8 3 = h := field_eq w 8 h (by rw [W] <;> omega)
  have U : ∀ i, unused w 0x03FFF800 i = .ok i := fun i => unused_ok w _ i [(11, 15)] (by decide)
    (by simp only [List.forall_mem_cons, W] <;> simp <;> omega)
  have n : decodeAlu p w = none := by simp only [decodeAlu, h1]
  simp only [decodeX, decodeRim, h1, h2, h3, U, n]

theorem decode_seedw (p : Pos) (k : BitVec 5) (a : BitVec 5) :
    decodeX p (encode (.seedw p k a)) = .ok (.seedw p k a) := by
  have e : encode (.seedw p k a) = packR 0x2C k a 0 0x000 := rfl
  have W : (encode (.seedw p k a)).toNat = 2952790016 + k.toNat * 2 ^ 21 + a.toNat * 2 ^ 16 := by
    rw [e]
    simp only [packR, append_toNat, bit_toNat, BitVec.toNat_ofNat, BitVec.ofNat_eq_ofNat, BitVec.extractLsb'_toNat,
      Nat.shiftRight_eq_div_pow, Bool.toNat_false, Bool.toNat_true] <;> omega
  clear e
  generalize encode (.seedw p k a) = w at W ⊢
  have h1 : fMajor w = 44 := field_toNat w 26 6 _ (by rw [W] <;> omega)
  have h2 : (fFun w).toNat = 0 := field_toNat w 0 11 _ (by rw [W] <;> omega)
  have h3 : fD w = k := field_eq w 21 k (by rw [W] <;> omega)
  have h4 : fA w = a := field_eq w 16 a (by rw [W] <;> omega)
  have U : ∀ i, unused w 0x0000F800 i = .ok i := fun i => unused_ok w _ i [(11, 5)] (by decide)
    (by simp only [List.forall_mem_cons, W] <;> simp <;> omega)
  have n : decodeAlu p w = none := by simp only [decodeAlu, h1]
  simp only [decodeX, h1, h2, h3, h4, U, n]

theorem decode_seedr (p : Pos) (d : BitVec 5) (k : BitVec 5) :
    decodeX p (encode (.seedr p d k)) = .ok (.seedr p d k) := by
  have e : encode (.seedr p d k) = packR 0x2C d k 0 0x001 := rfl
  have W : (encode (.seedr p d k)).toNat = 2952790017 + d.toNat * 2 ^ 21 + k.toNat * 2 ^ 16 := by
    rw [e]
    simp only [packR, append_toNat, bit_toNat, BitVec.toNat_ofNat, BitVec.ofNat_eq_ofNat, BitVec.extractLsb'_toNat,
      Nat.shiftRight_eq_div_pow, Bool.toNat_false, Bool.toNat_true] <;> omega
  clear e
  generalize encode (.seedr p d k) = w at W ⊢
  have h1 : fMajor w = 44 := field_toNat w 26 6 _ (by rw [W] <;> omega)
  have h2 : (fFun w).toNat = 1 := field_toNat w 0 11 _ (by rw [W] <;> omega)
  have h3 : fD w = d := field_eq w 21 d (by rw [W] <;> omega)
  have h4 : fA w = k := field_eq w 16 k (by rw [W] <;> omega)
  have U : ∀ i, unused w 0x0000F800 i = .ok i := fun i => unused_ok w _ i [(11, 5)] (by decide)
    (by simp only [List.forall_mem_cons, W] <;> simp <;> omega)
  have n : decodeAlu p w = none := by simp only [decodeAlu, h1]
  simp only [decodeX, h1, h2, h3, h4, U, n]

theorem decode_vtgr (p : Pos) (d : BitVec 5) (a : BitVec 5) :
    decodeX p (encode (.vtgr p d a)) = .ok (.vtgr p d a) := by
  have e : encode (.vtgr p d a) = packR 0x2D d a 0 0 := rfl
  have W : (encode (.vtgr p d a)).toNat = 3019898880 + d.toNat * 2 ^ 21 + a.toNat * 2 ^ 16 := by
    rw [e]
    simp only [packR, append_toNat, bit_toNat, BitVec.toNat_ofNat, BitVec.ofNat_eq_ofNat, BitVec.extractLsb'_toNat,
      Nat.shiftRight_eq_div_pow, Bool.toNat_false, Bool.toNat_true] <;> omega
  clear e
  generalize encode (.vtgr p d a) = w at W ⊢
  have h1 : fMajor w = 45 := field_toNat w 26 6 _ (by rw [W] <;> omega)
  have h2 : fD w = d := field_eq w 21 d (by rw [W] <;> omega)
  have h3 : fA w = a := field_eq w 16 a (by rw [W] <;> omega)
  have U : ∀ i, unused w 0x0000FFFF i = .ok i := fun i => unused_ok w _ i [(0, 16)] (by decide)
    (by simp only [List.forall_mem_cons, W] <;> simp <;> omega)
  have n : decodeAlu p w = none := by simp only [decodeAlu, h1]
  simp only [decodeX, h1, h2, h3, U, n]

theorem decode_pcnt (p : Pos) (d : BitVec 5) (n : BitVec 8) :
    decodeX p (encode (.pcnt p d n)) = .ok (.pcnt p d n) := by
  have e : encode (.pcnt p d n) = packI 0x2E d 0 ((0 : BitVec 8) ++ n) := rfl
  have W : (encode (.pcnt p d n)).toNat = 3087007744 + d.toNat * 2 ^ 21 + n.toNat := by
    rw [e]
    simp only [packI, append_toNat, bit_toNat, BitVec.toNat_ofNat, BitVec.ofNat_eq_ofNat, BitVec.extractLsb'_toNat,
      Nat.shiftRight_eq_div_pow, Bool.toNat_false, Bool.toNat_true] <;> omega
  clear e
  generalize encode (.pcnt p d n) = w at W ⊢
  have h1 : fMajor w = 46 := field_toNat w 26 6 _ (by rw [W] <;> omega)
  have h2 : fD w = d := field_eq w 21 d (by rw [W] <;> omega)
  have h3 : w.extractLsb' 0 8 = n := field_eq w 0 n (by rw [W] <;> omega)
  have U : ∀ i, unused w 0x001FFF00 i = .ok i := fun i => unused_ok w _ i [(8, 13)] (by decide)
    (by simp only [List.forall_mem_cons, W] <;> simp <;> omega)
  have n : decodeAlu p w = none := by simp only [decodeAlu, h1]
  simp only [decodeX, h1, h2, h3, U, n]

theorem decode_vadd (p : Pos) (vd : BitVec 5) (va : BitVec 5) (vb : BitVec 5) (pred : BitVec 4) (rm : BitVec 2) (fmt : BitVec 5) :
    decodeV p (encode (.vadd p vd va vb pred rm fmt)) = .ok (.vadd p vd va vb pred rm fmt) := by
  have e : encode (.vadd p vd va vb pred rm fmt) = packV 0x01 vd va vb pred rm fmt := rfl
  have W : (encode (.vadd p vd va vb pred rm fmt)).toNat = 67108864 + vd.toNat * 2 ^ 21 + va.toNat * 2 ^ 16 + vb.toNat * 2 ^ 11 + pred.toNat * 2 ^ 7 + rm.toNat * 2 ^ 5 + fmt.toNat := by
    rw [e]
    simp only [packV, append_toNat, bit_toNat, BitVec.toNat_ofNat, BitVec.ofNat_eq_ofNat, BitVec.extractLsb'_toNat,
      Nat.shiftRight_eq_div_pow, Bool.toNat_false, Bool.toNat_true] <;> omega
  clear e
  generalize encode (.vadd p vd va vb pred rm fmt) = w at W ⊢
  have h1 : fMajor w = 1 := field_toNat w 26 6 _ (by rw [W] <;> omega)
  have h2 : fD w = vd := field_eq w 21 vd (by rw [W] <;> omega)
  have h3 : fA w = va := field_eq w 16 va (by rw [W] <;> omega)
  have h4 : fB w = vb := field_eq w 11 vb (by rw [W] <;> omega)
  have h5 : fPred w = pred := field_eq w 7 pred (by rw [W] <;> omega)
  have h6 : fRm w = rm := field_eq w 5 rm (by rw [W] <;> omega)
  have h7 : fFmt w = fmt := field_eq w 0 fmt (by rw [W] <;> omega)
  simp only [decodeV, h1, h2, h3, h4, h5, h6, h7]

theorem decode_vsub (p : Pos) (vd : BitVec 5) (va : BitVec 5) (vb : BitVec 5) (pred : BitVec 4) (rm : BitVec 2) (fmt : BitVec 5) :
    decodeV p (encode (.vsub p vd va vb pred rm fmt)) = .ok (.vsub p vd va vb pred rm fmt) := by
  have e : encode (.vsub p vd va vb pred rm fmt) = packV 0x02 vd va vb pred rm fmt := rfl
  have W : (encode (.vsub p vd va vb pred rm fmt)).toNat = 134217728 + vd.toNat * 2 ^ 21 + va.toNat * 2 ^ 16 + vb.toNat * 2 ^ 11 + pred.toNat * 2 ^ 7 + rm.toNat * 2 ^ 5 + fmt.toNat := by
    rw [e]
    simp only [packV, append_toNat, bit_toNat, BitVec.toNat_ofNat, BitVec.ofNat_eq_ofNat, BitVec.extractLsb'_toNat,
      Nat.shiftRight_eq_div_pow, Bool.toNat_false, Bool.toNat_true] <;> omega
  clear e
  generalize encode (.vsub p vd va vb pred rm fmt) = w at W ⊢
  have h1 : fMajor w = 2 := field_toNat w 26 6 _ (by rw [W] <;> omega)
  have h2 : fD w = vd := field_eq w 21 vd (by rw [W] <;> omega)
  have h3 : fA w = va := field_eq w 16 va (by rw [W] <;> omega)
  have h4 : fB w = vb := field_eq w 11 vb (by rw [W] <;> omega)
  have h5 : fPred w = pred := field_eq w 7 pred (by rw [W] <;> omega)
  have h6 : fRm w = rm := field_eq w 5 rm (by rw [W] <;> omega)
  have h7 : fFmt w = fmt := field_eq w 0 fmt (by rw [W] <;> omega)
  simp only [decodeV, h1, h2, h3, h4, h5, h6, h7]

theorem decode_vmul (p : Pos) (vd : BitVec 5) (va : BitVec 5) (vb : BitVec 5) (pred : BitVec 4) (rm : BitVec 2) (fmt : BitVec 5) :
    decodeV p (encode (.vmul p vd va vb pred rm fmt)) = .ok (.vmul p vd va vb pred rm fmt) := by
  have e : encode (.vmul p vd va vb pred rm fmt) = packV 0x03 vd va vb pred rm fmt := rfl
  have W : (encode (.vmul p vd va vb pred rm fmt)).toNat = 201326592 + vd.toNat * 2 ^ 21 + va.toNat * 2 ^ 16 + vb.toNat * 2 ^ 11 + pred.toNat * 2 ^ 7 + rm.toNat * 2 ^ 5 + fmt.toNat := by
    rw [e]
    simp only [packV, append_toNat, bit_toNat, BitVec.toNat_ofNat, BitVec.ofNat_eq_ofNat, BitVec.extractLsb'_toNat,
      Nat.shiftRight_eq_div_pow, Bool.toNat_false, Bool.toNat_true] <;> omega
  clear e
  generalize encode (.vmul p vd va vb pred rm fmt) = w at W ⊢
  have h1 : fMajor w = 3 := field_toNat w 26 6 _ (by rw [W] <;> omega)
  have h2 : fD w = vd := field_eq w 21 vd (by rw [W] <;> omega)
  have h3 : fA w = va := field_eq w 16 va (by rw [W] <;> omega)
  have h4 : fB w = vb := field_eq w 11 vb (by rw [W] <;> omega)
  have h5 : fPred w = pred := field_eq w 7 pred (by rw [W] <;> omega)
  have h6 : fRm w = rm := field_eq w 5 rm (by rw [W] <;> omega)
  have h7 : fFmt w = fmt := field_eq w 0 fmt (by rw [W] <;> omega)
  simp only [decodeV, h1, h2, h3, h4, h5, h6, h7]

theorem decode_vfma (p : Pos) (vd : BitVec 5) (va : BitVec 5) (vb : BitVec 5) (pred : BitVec 4) (rm : BitVec 2) (fmt : BitVec 5) :
    decodeV p (encode (.vfma p vd va vb pred rm fmt)) = .ok (.vfma p vd va vb pred rm fmt) := by
  have e : encode (.vfma p vd va vb pred rm fmt) = packV 0x04 vd va vb pred rm fmt := rfl
  have W : (encode (.vfma p vd va vb pred rm fmt)).toNat = 268435456 + vd.toNat * 2 ^ 21 + va.toNat * 2 ^ 16 + vb.toNat * 2 ^ 11 + pred.toNat * 2 ^ 7 + rm.toNat * 2 ^ 5 + fmt.toNat := by
    rw [e]
    simp only [packV, append_toNat, bit_toNat, BitVec.toNat_ofNat, BitVec.ofNat_eq_ofNat, BitVec.extractLsb'_toNat,
      Nat.shiftRight_eq_div_pow, Bool.toNat_false, Bool.toNat_true] <;> omega
  clear e
  generalize encode (.vfma p vd va vb pred rm fmt) = w at W ⊢
  have h1 : fMajor w = 4 := field_toNat w 26 6 _ (by rw [W] <;> omega)
  have h2 : fD w = vd := field_eq w 21 vd (by rw [W] <;> omega)
  have h3 : fA w = va := field_eq w 16 va (by rw [W] <;> omega)
  have h4 : fB w = vb := field_eq w 11 vb (by rw [W] <;> omega)
  have h5 : fPred w = pred := field_eq w 7 pred (by rw [W] <;> omega)
  have h6 : fRm w = rm := field_eq w 5 rm (by rw [W] <;> omega)
  have h7 : fFmt w = fmt := field_eq w 0 fmt (by rw [W] <;> omega)
  simp only [decodeV, h1, h2, h3, h4, h5, h6, h7]

theorem decode_vfms (p : Pos) (vd : BitVec 5) (va : BitVec 5) (vb : BitVec 5) (pred : BitVec 4) (rm : BitVec 2) (fmt : BitVec 5) :
    decodeV p (encode (.vfms p vd va vb pred rm fmt)) = .ok (.vfms p vd va vb pred rm fmt) := by
  have e : encode (.vfms p vd va vb pred rm fmt) = packV 0x05 vd va vb pred rm fmt := rfl
  have W : (encode (.vfms p vd va vb pred rm fmt)).toNat = 335544320 + vd.toNat * 2 ^ 21 + va.toNat * 2 ^ 16 + vb.toNat * 2 ^ 11 + pred.toNat * 2 ^ 7 + rm.toNat * 2 ^ 5 + fmt.toNat := by
    rw [e]
    simp only [packV, append_toNat, bit_toNat, BitVec.toNat_ofNat, BitVec.ofNat_eq_ofNat, BitVec.extractLsb'_toNat,
      Nat.shiftRight_eq_div_pow, Bool.toNat_false, Bool.toNat_true] <;> omega
  clear e
  generalize encode (.vfms p vd va vb pred rm fmt) = w at W ⊢
  have h1 : fMajor w = 5 := field_toNat w 26 6 _ (by rw [W] <;> omega)
  have h2 : fD w = vd := field_eq w 21 vd (by rw [W] <;> omega)
  have h3 : fA w = va := field_eq w 16 va (by rw [W] <;> omega)
  have h4 : fB w = vb := field_eq w 11 vb (by rw [W] <;> omega)
  have h5 : fPred w = pred := field_eq w 7 pred (by rw [W] <;> omega)
  have h6 : fRm w = rm := field_eq w 5 rm (by rw [W] <;> omega)
  have h7 : fFmt w = fmt := field_eq w 0 fmt (by rw [W] <;> omega)
  simp only [decodeV, h1, h2, h3, h4, h5, h6, h7]

theorem decode_vfnma (p : Pos) (vd : BitVec 5) (va : BitVec 5) (vb : BitVec 5) (pred : BitVec 4) (rm : BitVec 2) (fmt : BitVec 5) :
    decodeV p (encode (.vfnma p vd va vb pred rm fmt)) = .ok (.vfnma p vd va vb pred rm fmt) := by
  have e : encode (.vfnma p vd va vb pred rm fmt) = packV 0x06 vd va vb pred rm fmt := rfl
  have W : (encode (.vfnma p vd va vb pred rm fmt)).toNat = 402653184 + vd.toNat * 2 ^ 21 + va.toNat * 2 ^ 16 + vb.toNat * 2 ^ 11 + pred.toNat * 2 ^ 7 + rm.toNat * 2 ^ 5 + fmt.toNat := by
    rw [e]
    simp only [packV, append_toNat, bit_toNat, BitVec.toNat_ofNat, BitVec.ofNat_eq_ofNat, BitVec.extractLsb'_toNat,
      Nat.shiftRight_eq_div_pow, Bool.toNat_false, Bool.toNat_true] <;> omega
  clear e
  generalize encode (.vfnma p vd va vb pred rm fmt) = w at W ⊢
  have h1 : fMajor w = 6 := field_toNat w 26 6 _ (by rw [W] <;> omega)
  have h2 : fD w = vd := field_eq w 21 vd (by rw [W] <;> omega)
  have h3 : fA w = va := field_eq w 16 va (by rw [W] <;> omega)
  have h4 : fB w = vb := field_eq w 11 vb (by rw [W] <;> omega)
  have h5 : fPred w = pred := field_eq w 7 pred (by rw [W] <;> omega)
  have h6 : fRm w = rm := field_eq w 5 rm (by rw [W] <;> omega)
  have h7 : fFmt w = fmt := field_eq w 0 fmt (by rw [W] <;> omega)
  simp only [decodeV, h1, h2, h3, h4, h5, h6, h7]

theorem decode_vmin (p : Pos) (vd : BitVec 5) (va : BitVec 5) (vb : BitVec 5) (pred : BitVec 4) (fmt : BitVec 5) :
    decodeV p (encode (.vmin p vd va vb pred fmt)) = .ok (.vmin p vd va vb pred fmt) := by
  have e : encode (.vmin p vd va vb pred fmt) = packV 0x07 vd va vb pred 0 fmt := rfl
  have W : (encode (.vmin p vd va vb pred fmt)).toNat = 469762048 + vd.toNat * 2 ^ 21 + va.toNat * 2 ^ 16 + vb.toNat * 2 ^ 11 + pred.toNat * 2 ^ 7 + fmt.toNat := by
    rw [e]
    simp only [packV, append_toNat, bit_toNat, BitVec.toNat_ofNat, BitVec.ofNat_eq_ofNat, BitVec.extractLsb'_toNat,
      Nat.shiftRight_eq_div_pow, Bool.toNat_false, Bool.toNat_true] <;> omega
  clear e
  generalize encode (.vmin p vd va vb pred fmt) = w at W ⊢
  have h1 : fMajor w = 7 := field_toNat w 26 6 _ (by rw [W] <;> omega)
  have h2 : fD w = vd := field_eq w 21 vd (by rw [W] <;> omega)
  have h3 : fA w = va := field_eq w 16 va (by rw [W] <;> omega)
  have h4 : fB w = vb := field_eq w 11 vb (by rw [W] <;> omega)
  have h5 : fPred w = pred := field_eq w 7 pred (by rw [W] <;> omega)
  have h6 : fFmt w = fmt := field_eq w 0 fmt (by rw [W] <;> omega)
  have U : ∀ i, unused w 0x00000060 i = .ok i := fun i => unused_ok w _ i [(5, 2)] (by decide)
    (by simp only [List.forall_mem_cons, W] <;> simp <;> omega)
  simp only [decodeV, h1, h2, h3, h4, h5, h6, U]

theorem decode_vmax (p : Pos) (vd : BitVec 5) (va : BitVec 5) (vb : BitVec 5) (pred : BitVec 4) (fmt : BitVec 5) :
    decodeV p (encode (.vmax p vd va vb pred fmt)) = .ok (.vmax p vd va vb pred fmt) := by
  have e : encode (.vmax p vd va vb pred fmt) = packV 0x08 vd va vb pred 0 fmt := rfl
  have W : (encode (.vmax p vd va vb pred fmt)).toNat = 536870912 + vd.toNat * 2 ^ 21 + va.toNat * 2 ^ 16 + vb.toNat * 2 ^ 11 + pred.toNat * 2 ^ 7 + fmt.toNat := by
    rw [e]
    simp only [packV, append_toNat, bit_toNat, BitVec.toNat_ofNat, BitVec.ofNat_eq_ofNat, BitVec.extractLsb'_toNat,
      Nat.shiftRight_eq_div_pow, Bool.toNat_false, Bool.toNat_true] <;> omega
  clear e
  generalize encode (.vmax p vd va vb pred fmt) = w at W ⊢
  have h1 : fMajor w = 8 := field_toNat w 26 6 _ (by rw [W] <;> omega)
  have h2 : fD w = vd := field_eq w 21 vd (by rw [W] <;> omega)
  have h3 : fA w = va := field_eq w 16 va (by rw [W] <;> omega)
  have h4 : fB w = vb := field_eq w 11 vb (by rw [W] <;> omega)
  have h5 : fPred w = pred := field_eq w 7 pred (by rw [W] <;> omega)
  have h6 : fFmt w = fmt := field_eq w 0 fmt (by rw [W] <;> omega)
  have U : ∀ i, unused w 0x00000060 i = .ok i := fun i => unused_ok w _ i [(5, 2)] (by decide)
    (by simp only [List.forall_mem_cons, W] <;> simp <;> omega)
  simp only [decodeV, h1, h2, h3, h4, h5, h6, U]

theorem decode_vabs (p : Pos) (vd : BitVec 5) (va : BitVec 5) (pred : BitVec 4) (rm : BitVec 2) (fmt : BitVec 5) :
    decodeV p (encode (.vabs p vd va pred rm fmt)) = .ok (.vabs p vd va pred rm fmt) := by
  have e : encode (.vabs p vd va pred rm fmt) = packV 0x09 vd va 0 pred rm fmt := rfl
  have W : (encode (.vabs p vd va pred rm fmt)).toNat = 603979776 + vd.toNat * 2 ^ 21 + va.toNat * 2 ^ 16 + pred.toNat * 2 ^ 7 + rm.toNat * 2 ^ 5 + fmt.toNat := by
    rw [e]
    simp only [packV, append_toNat, bit_toNat, BitVec.toNat_ofNat, BitVec.ofNat_eq_ofNat, BitVec.extractLsb'_toNat,
      Nat.shiftRight_eq_div_pow, Bool.toNat_false, Bool.toNat_true] <;> omega
  clear e
  generalize encode (.vabs p vd va pred rm fmt) = w at W ⊢
  have h1 : fMajor w = 9 := field_toNat w 26 6 _ (by rw [W] <;> omega)
  have h2 : fD w = vd := field_eq w 21 vd (by rw [W] <;> omega)
  have h3 : fA w = va := field_eq w 16 va (by rw [W] <;> omega)
  have h4 : fPred w = pred := field_eq w 7 pred (by rw [W] <;> omega)
  have h5 : fRm w = rm := field_eq w 5 rm (by rw [W] <;> omega)
  have h6 : fFmt w = fmt := field_eq w 0 fmt (by rw [W] <;> omega)
  have U : ∀ i, unused w 0x0000F800 i = .ok i := fun i => unused_ok w _ i [(11, 5)] (by decide)
    (by simp only [List.forall_mem_cons, W] <;> simp <;> omega)
  simp only [decodeV, h1, h2, h3, h4, h5, h6, U]

theorem decode_vneg (p : Pos) (vd : BitVec 5) (va : BitVec 5) (pred : BitVec 4) (rm : BitVec 2) (fmt : BitVec 5) :
    decodeV p (encode (.vneg p vd va pred rm fmt)) = .ok (.vneg p vd va pred rm fmt) := by
  have e : encode (.vneg p vd va pred rm fmt) = packV 0x0A vd va 0 pred rm fmt := rfl
  have W : (encode (.vneg p vd va pred rm fmt)).toNat = 671088640 + vd.toNat * 2 ^ 21 + va.toNat * 2 ^ 16 + pred.toNat * 2 ^ 7 + rm.toNat * 2 ^ 5 + fmt.toNat := by
    rw [e]
    simp only [packV, append_toNat, bit_toNat, BitVec.toNat_ofNat, BitVec.ofNat_eq_ofNat, BitVec.extractLsb'_toNat,
      Nat.shiftRight_eq_div_pow, Bool.toNat_false, Bool.toNat_true] <;> omega
  clear e
  generalize encode (.vneg p vd va pred rm fmt) = w at W ⊢
  have h1 : fMajor w = 10 := field_toNat w 26 6 _ (by rw [W] <;> omega)
  have h2 : fD w = vd := field_eq w 21 vd (by rw [W] <;> omega)
  have h3 : fA w = va := field_eq w 16 va (by rw [W] <;> omega)
  have h4 : fPred w = pred := field_eq w 7 pred (by rw [W] <;> omega)
  have h5 : fRm w = rm := field_eq w 5 rm (by rw [W] <;> omega)
  have h6 : fFmt w = fmt := field_eq w 0 fmt (by rw [W] <;> omega)
  have U : ∀ i, unused w 0x0000F800 i = .ok i := fun i => unused_ok w _ i [(11, 5)] (by decide)
    (by simp only [List.forall_mem_cons, W] <;> simp <;> omega)
  simp only [decodeV, h1, h2, h3, h4, h5, h6, U]

theorem decode_vcmpEq (p : Pos) (pd : BitVec 4) (va : BitVec 5) (vb : BitVec 5) (pred : BitVec 4) (fmt : BitVec 5) :
    decodeV p (encode (.vcmpEq p pd va vb pred fmt)) = .ok (.vcmpEq p pd va vb pred fmt) := by
  have e : encode (.vcmpEq p pd va vb pred fmt) = packV 0x0B ((0 : BitVec 1) ++ pd) va vb pred 0 fmt := rfl
  have W : (encode (.vcmpEq p pd va vb pred fmt)).toNat = 738197504 + pd.toNat * 2 ^ 21 + va.toNat * 2 ^ 16 + vb.toNat * 2 ^ 11 + pred.toNat * 2 ^ 7 + fmt.toNat := by
    rw [e]
    simp only [packV, append_toNat, bit_toNat, BitVec.toNat_ofNat, BitVec.ofNat_eq_ofNat, BitVec.extractLsb'_toNat,
      Nat.shiftRight_eq_div_pow, Bool.toNat_false, Bool.toNat_true] <;> omega
  clear e
  generalize encode (.vcmpEq p pd va vb pred fmt) = w at W ⊢
  have h1 : fMajor w = 11 := field_toNat w 26 6 _ (by rw [W] <;> omega)
  have h2 : w.extractLsb' 21 4 = pd := field_eq w 21 pd (by rw [W] <;> omega)
  have h3 : fA w = va := field_eq w 16 va (by rw [W] <;> omega)
  have h4 : fB w = vb := field_eq w 11 vb (by rw [W] <;> omega)
  have h5 : fPred w = pred := field_eq w 7 pred (by rw [W] <;> omega)
  have h6 : fFmt w = fmt := field_eq w 0 fmt (by rw [W] <;> omega)
  have U : ∀ i, unused w 0x02000060 i = .ok i := fun i => unused_ok w _ i [(5, 2), (25, 1)] (by decide)
    (by simp only [List.forall_mem_cons, W] <;> simp <;> omega)
  simp only [decodeV, h1, h2, h3, h4, h5, h6, U]

theorem decode_vcmpNe (p : Pos) (pd : BitVec 4) (va : BitVec 5) (vb : BitVec 5) (pred : BitVec 4) (fmt : BitVec 5) :
    decodeV p (encode (.vcmpNe p pd va vb pred fmt)) = .ok (.vcmpNe p pd va vb pred fmt) := by
  have e : encode (.vcmpNe p pd va vb pred fmt) = packV 0x0C ((0 : BitVec 1) ++ pd) va vb pred 0 fmt := rfl
  have W : (encode (.vcmpNe p pd va vb pred fmt)).toNat = 805306368 + pd.toNat * 2 ^ 21 + va.toNat * 2 ^ 16 + vb.toNat * 2 ^ 11 + pred.toNat * 2 ^ 7 + fmt.toNat := by
    rw [e]
    simp only [packV, append_toNat, bit_toNat, BitVec.toNat_ofNat, BitVec.ofNat_eq_ofNat, BitVec.extractLsb'_toNat,
      Nat.shiftRight_eq_div_pow, Bool.toNat_false, Bool.toNat_true] <;> omega
  clear e
  generalize encode (.vcmpNe p pd va vb pred fmt) = w at W ⊢
  have h1 : fMajor w = 12 := field_toNat w 26 6 _ (by rw [W] <;> omega)
  have h2 : w.extractLsb' 21 4 = pd := field_eq w 21 pd (by rw [W] <;> omega)
  have h3 : fA w = va := field_eq w 16 va (by rw [W] <;> omega)
  have h4 : fB w = vb := field_eq w 11 vb (by rw [W] <;> omega)
  have h5 : fPred w = pred := field_eq w 7 pred (by rw [W] <;> omega)
  have h6 : fFmt w = fmt := field_eq w 0 fmt (by rw [W] <;> omega)
  have U : ∀ i, unused w 0x02000060 i = .ok i := fun i => unused_ok w _ i [(5, 2), (25, 1)] (by decide)
    (by simp only [List.forall_mem_cons, W] <;> simp <;> omega)
  simp only [decodeV, h1, h2, h3, h4, h5, h6, U]

theorem decode_vcmpLt (p : Pos) (pd : BitVec 4) (va : BitVec 5) (vb : BitVec 5) (pred : BitVec 4) (fmt : BitVec 5) :
    decodeV p (encode (.vcmpLt p pd va vb pred fmt)) = .ok (.vcmpLt p pd va vb pred fmt) := by
  have e : encode (.vcmpLt p pd va vb pred fmt) = packV 0x0D ((0 : BitVec 1) ++ pd) va vb pred 0 fmt := rfl
  have W : (encode (.vcmpLt p pd va vb pred fmt)).toNat = 872415232 + pd.toNat * 2 ^ 21 + va.toNat * 2 ^ 16 + vb.toNat * 2 ^ 11 + pred.toNat * 2 ^ 7 + fmt.toNat := by
    rw [e]
    simp only [packV, append_toNat, bit_toNat, BitVec.toNat_ofNat, BitVec.ofNat_eq_ofNat, BitVec.extractLsb'_toNat,
      Nat.shiftRight_eq_div_pow, Bool.toNat_false, Bool.toNat_true] <;> omega
  clear e
  generalize encode (.vcmpLt p pd va vb pred fmt) = w at W ⊢
  have h1 : fMajor w = 13 := field_toNat w 26 6 _ (by rw [W] <;> omega)
  have h2 : w.extractLsb' 21 4 = pd := field_eq w 21 pd (by rw [W] <;> omega)
  have h3 : fA w = va := field_eq w 16 va (by rw [W] <;> omega)
  have h4 : fB w = vb := field_eq w 11 vb (by rw [W] <;> omega)
  have h5 : fPred w = pred := field_eq w 7 pred (by rw [W] <;> omega)
  have h6 : fFmt w = fmt := field_eq w 0 fmt (by rw [W] <;> omega)
  have U : ∀ i, unused w 0x02000060 i = .ok i := fun i => unused_ok w _ i [(5, 2), (25, 1)] (by decide)
    (by simp only [List.forall_mem_cons, W] <;> simp <;> omega)
  simp only [decodeV, h1, h2, h3, h4, h5, h6, U]

theorem decode_vcmpGe (p : Pos) (pd : BitVec 4) (va : BitVec 5) (vb : BitVec 5) (pred : BitVec 4) (fmt : BitVec 5) :
    decodeV p (encode (.vcmpGe p pd va vb pred fmt)) = .ok (.vcmpGe p pd va vb pred fmt) := by
  have e : encode (.vcmpGe p pd va vb pred fmt) = packV 0x0E ((0 : BitVec 1) ++ pd) va vb pred 0 fmt := rfl
  have W : (encode (.vcmpGe p pd va vb pred fmt)).toNat = 939524096 + pd.toNat * 2 ^ 21 + va.toNat * 2 ^ 16 + vb.toNat * 2 ^ 11 + pred.toNat * 2 ^ 7 + fmt.toNat := by
    rw [e]
    simp only [packV, append_toNat, bit_toNat, BitVec.toNat_ofNat, BitVec.ofNat_eq_ofNat, BitVec.extractLsb'_toNat,
      Nat.shiftRight_eq_div_pow, Bool.toNat_false, Bool.toNat_true] <;> omega
  clear e
  generalize encode (.vcmpGe p pd va vb pred fmt) = w at W ⊢
  have h1 : fMajor w = 14 := field_toNat w 26 6 _ (by rw [W] <;> omega)
  have h2 : w.extractLsb' 21 4 = pd := field_eq w 21 pd (by rw [W] <;> omega)
  have h3 : fA w = va := field_eq w 16 va (by rw [W] <;> omega)
  have h4 : fB w = vb := field_eq w 11 vb (by rw [W] <;> omega)
  have h5 : fPred w = pred := field_eq w 7 pred (by rw [W] <;> omega)
  have h6 : fFmt w = fmt := field_eq w 0 fmt (by rw [W] <;> omega)
  have U : ∀ i, unused w 0x02000060 i = .ok i := fun i => unused_ok w _ i [(5, 2), (25, 1)] (by decide)
    (by simp only [List.forall_mem_cons, W] <;> simp <;> omega)
  simp only [decodeV, h1, h2, h3, h4, h5, h6, U]

theorem decode_vsel (p : Pos) (vd : BitVec 5) (va : BitVec 5) (vb : BitVec 5) (pred : BitVec 4) (fmt : BitVec 5) :
    decodeV p (encode (.vsel p vd va vb pred fmt)) = .ok (.vsel p vd va vb pred fmt) := by
  have e : encode (.vsel p vd va vb pred fmt) = packV 0x0F vd va vb pred 0 fmt := rfl
  have W : (encode (.vsel p vd va vb pred fmt)).toNat = 1006632960 + vd.toNat * 2 ^ 21 + va.toNat * 2 ^ 16 + vb.toNat * 2 ^ 11 + pred.toNat * 2 ^ 7 + fmt.toNat := by
    rw [e]
    simp only [packV, append_toNat, bit_toNat, BitVec.toNat_ofNat, BitVec.ofNat_eq_ofNat, BitVec.extractLsb'_toNat,
      Nat.shiftRight_eq_div_pow, Bool.toNat_false, Bool.toNat_true] <;> omega
  clear e
  generalize encode (.vsel p vd va vb pred fmt) = w at W ⊢
  have h1 : fMajor w = 15 := field_toNat w 26 6 _ (by rw [W] <;> omega)
  have h2 : fD w = vd := field_eq w 21 vd (by rw [W] <;> omega)
  have h3 : fA w = va := field_eq w 16 va (by rw [W] <;> omega)
  have h4 : fB w = vb := field_eq w 11 vb (by rw [W] <;> omega)
  have h5 : fPred w = pred := field_eq w 7 pred (by rw [W] <;> omega)
  have h6 : fFmt w = fmt := field_eq w 0 fmt (by rw [W] <;> omega)
  have U : ∀ i, unused w 0x00000060 i = .ok i := fun i => unused_ok w _ i [(5, 2)] (by decide)
    (by simp only [List.forall_mem_cons, W] <;> simp <;> omega)
  simp only [decodeV, h1, h2, h3, h4, h5, h6, U]

theorem decode_vand (p : Pos) (vd : BitVec 5) (va : BitVec 5) (vb : BitVec 5) (pred : BitVec 4) (fmt : BitVec 5) :
    decodeV p (encode (.vand p vd va vb pred fmt)) = .ok (.vand p vd va vb pred fmt) := by
  have e : encode (.vand p vd va vb pred fmt) = packV 0x10 vd va vb pred 0 fmt := rfl
  have W : (encode (.vand p vd va vb pred fmt)).toNat = 1073741824 + vd.toNat * 2 ^ 21 + va.toNat * 2 ^ 16 + vb.toNat * 2 ^ 11 + pred.toNat * 2 ^ 7 + fmt.toNat := by
    rw [e]
    simp only [packV, append_toNat, bit_toNat, BitVec.toNat_ofNat, BitVec.ofNat_eq_ofNat, BitVec.extractLsb'_toNat,
      Nat.shiftRight_eq_div_pow, Bool.toNat_false, Bool.toNat_true] <;> omega
  clear e
  generalize encode (.vand p vd va vb pred fmt) = w at W ⊢
  have h1 : fMajor w = 16 := field_toNat w 26 6 _ (by rw [W] <;> omega)
  have h2 : fD w = vd := field_eq w 21 vd (by rw [W] <;> omega)
  have h3 : fA w = va := field_eq w 16 va (by rw [W] <;> omega)
  have h4 : fB w = vb := field_eq w 11 vb (by rw [W] <;> omega)
  have h5 : fPred w = pred := field_eq w 7 pred (by rw [W] <;> omega)
  have h6 : fFmt w = fmt := field_eq w 0 fmt (by rw [W] <;> omega)
  have U : ∀ i, unused w 0x00000060 i = .ok i := fun i => unused_ok w _ i [(5, 2)] (by decide)
    (by simp only [List.forall_mem_cons, W] <;> simp <;> omega)
  simp only [decodeV, h1, h2, h3, h4, h5, h6, U]

theorem decode_vor (p : Pos) (vd : BitVec 5) (va : BitVec 5) (vb : BitVec 5) (pred : BitVec 4) (fmt : BitVec 5) :
    decodeV p (encode (.vor p vd va vb pred fmt)) = .ok (.vor p vd va vb pred fmt) := by
  have e : encode (.vor p vd va vb pred fmt) = packV 0x11 vd va vb pred 0 fmt := rfl
  have W : (encode (.vor p vd va vb pred fmt)).toNat = 1140850688 + vd.toNat * 2 ^ 21 + va.toNat * 2 ^ 16 + vb.toNat * 2 ^ 11 + pred.toNat * 2 ^ 7 + fmt.toNat := by
    rw [e]
    simp only [packV, append_toNat, bit_toNat, BitVec.toNat_ofNat, BitVec.ofNat_eq_ofNat, BitVec.extractLsb'_toNat,
      Nat.shiftRight_eq_div_pow, Bool.toNat_false, Bool.toNat_true] <;> omega
  clear e
  generalize encode (.vor p vd va vb pred fmt) = w at W ⊢
  have h1 : fMajor w = 17 := field_toNat w 26 6 _ (by rw [W] <;> omega)
  have h2 : fD w = vd := field_eq w 21 vd (by rw [W] <;> omega)
  have h3 : fA w = va := field_eq w 16 va (by rw [W] <;> omega)
  have h4 : fB w = vb := field_eq w 11 vb (by rw [W] <;> omega)
  have h5 : fPred w = pred := field_eq w 7 pred (by rw [W] <;> omega)
  have h6 : fFmt w = fmt := field_eq w 0 fmt (by rw [W] <;> omega)
  have U : ∀ i, unused w 0x00000060 i = .ok i := fun i => unused_ok w _ i [(5, 2)] (by decide)
    (by simp only [List.forall_mem_cons, W] <;> simp <;> omega)
  simp only [decodeV, h1, h2, h3, h4, h5, h6, U]

theorem decode_vxor (p : Pos) (vd : BitVec 5) (va : BitVec 5) (vb : BitVec 5) (pred : BitVec 4) (fmt : BitVec 5) :
    decodeV p (encode (.vxor p vd va vb pred fmt)) = .ok (.vxor p vd va vb pred fmt) := by
  have e : encode (.vxor p vd va vb pred fmt) = packV 0x12 vd va vb pred 0 fmt := rfl
  have W : (encode (.vxor p vd va vb pred fmt)).toNat = 1207959552 + vd.toNat * 2 ^ 21 + va.toNat * 2 ^ 16 + vb.toNat * 2 ^ 11 + pred.toNat * 2 ^ 7 + fmt.toNat := by
    rw [e]
    simp only [packV, append_toNat, bit_toNat, BitVec.toNat_ofNat, BitVec.ofNat_eq_ofNat, BitVec.extractLsb'_toNat,
      Nat.shiftRight_eq_div_pow, Bool.toNat_false, Bool.toNat_true] <;> omega
  clear e
  generalize encode (.vxor p vd va vb pred fmt) = w at W ⊢
  have h1 : fMajor w = 18 := field_toNat w 26 6 _ (by rw [W] <;> omega)
  have h2 : fD w = vd := field_eq w 21 vd (by rw [W] <;> omega)
  have h3 : fA w = va := field_eq w 16 va (by rw [W] <;> omega)
  have h4 : fB w = vb := field_eq w 11 vb (by rw [W] <;> omega)
  have h5 : fPred w = pred := field_eq w 7 pred (by rw [W] <;> omega)
  have h6 : fFmt w = fmt := field_eq w 0 fmt (by rw [W] <;> omega)
  have U : ∀ i, unused w 0x00000060 i = .ok i := fun i => unused_ok w _ i [(5, 2)] (by decide)
    (by simp only [List.forall_mem_cons, W] <;> simp <;> omega)
  simp only [decodeV, h1, h2, h3, h4, h5, h6, U]

theorem decode_vnot (p : Pos) (vd : BitVec 5) (va : BitVec 5) (pred : BitVec 4) (fmt : BitVec 5) :
    decodeV p (encode (.vnot p vd va pred fmt)) = .ok (.vnot p vd va pred fmt) := by
  have e : encode (.vnot p vd va pred fmt) = packV 0x13 vd va 0 pred 0 fmt := rfl
  have W : (encode (.vnot p vd va pred fmt)).toNat = 1275068416 + vd.toNat * 2 ^ 21 + va.toNat * 2 ^ 16 + pred.toNat * 2 ^ 7 + fmt.toNat := by
    rw [e]
    simp only [packV, append_toNat, bit_toNat, BitVec.toNat_ofNat, BitVec.ofNat_eq_ofNat, BitVec.extractLsb'_toNat,
      Nat.shiftRight_eq_div_pow, Bool.toNat_false, Bool.toNat_true] <;> omega
  clear e
  generalize encode (.vnot p vd va pred fmt) = w at W ⊢
  have h1 : fMajor w = 19 := field_toNat w 26 6 _ (by rw [W] <;> omega)
  have h2 : fD w = vd := field_eq w 21 vd (by rw [W] <;> omega)
  have h3 : fA w = va := field_eq w 16 va (by rw [W] <;> omega)
  have h4 : fPred w = pred := field_eq w 7 pred (by rw [W] <;> omega)
  have h5 : fFmt w = fmt := field_eq w 0 fmt (by rw [W] <;> omega)
  have U : ∀ i, unused w 0x0000F860 i = .ok i := fun i => unused_ok w _ i [(5, 2), (11, 5)] (by decide)
    (by simp only [List.forall_mem_cons, W] <;> simp <;> omega)
  simp only [decodeV, h1, h2, h3, h4, h5, U]

theorem decode_vshl (p : Pos) (vd : BitVec 5) (va : BitVec 5) (vb : BitVec 5) (pred : BitVec 4) (fmt : BitVec 5) :
    decodeV p (encode (.vshl p vd va vb pred fmt)) = .ok (.vshl p vd va vb pred fmt) := by
  have e : encode (.vshl p vd va vb pred fmt) = packV 0x14 vd va vb pred 0 fmt := rfl
  have W : (encode (.vshl p vd va vb pred fmt)).toNat = 1342177280 + vd.toNat * 2 ^ 21 + va.toNat * 2 ^ 16 + vb.toNat * 2 ^ 11 + pred.toNat * 2 ^ 7 + fmt.toNat := by
    rw [e]
    simp only [packV, append_toNat, bit_toNat, BitVec.toNat_ofNat, BitVec.ofNat_eq_ofNat, BitVec.extractLsb'_toNat,
      Nat.shiftRight_eq_div_pow, Bool.toNat_false, Bool.toNat_true] <;> omega
  clear e
  generalize encode (.vshl p vd va vb pred fmt) = w at W ⊢
  have h1 : fMajor w = 20 := field_toNat w 26 6 _ (by rw [W] <;> omega)
  have h2 : fD w = vd := field_eq w 21 vd (by rw [W] <;> omega)
  have h3 : fA w = va := field_eq w 16 va (by rw [W] <;> omega)
  have h4 : fB w = vb := field_eq w 11 vb (by rw [W] <;> omega)
  have h5 : fPred w = pred := field_eq w 7 pred (by rw [W] <;> omega)
  have h6 : fFmt w = fmt := field_eq w 0 fmt (by rw [W] <;> omega)
  have U : ∀ i, unused w 0x00000060 i = .ok i := fun i => unused_ok w _ i [(5, 2)] (by decide)
    (by simp only [List.forall_mem_cons, W] <;> simp <;> omega)
  simp only [decodeV, h1, h2, h3, h4, h5, h6, U]

theorem decode_vshr (p : Pos) (vd : BitVec 5) (va : BitVec 5) (vb : BitVec 5) (pred : BitVec 4) (fmt : BitVec 5) :
    decodeV p (encode (.vshr p vd va vb pred fmt)) = .ok (.vshr p vd va vb pred fmt) := by
  have e : encode (.vshr p vd va vb pred fmt) = packV 0x15 vd va vb pred 0 fmt := rfl
  have W : (encode (.vshr p vd va vb pred fmt)).toNat = 1409286144 + vd.toNat * 2 ^ 21 + va.toNat * 2 ^ 16 + vb.toNat * 2 ^ 11 + pred.toNat * 2 ^ 7 + fmt.toNat := by
    rw [e]
    simp only [packV, append_toNat, bit_toNat, BitVec.toNat_ofNat, BitVec.ofNat_eq_ofNat, BitVec.extractLsb'_toNat,
      Nat.shiftRight_eq_div_pow, Bool.toNat_false, Bool.toNat_true] <;> omega
  clear e
  generalize encode (.vshr p vd va vb pred fmt) = w at W ⊢
  have h1 : fMajor w = 21 := field_toNat w 26 6 _ (by rw [W] <;> omega)
  have h2 : fD w = vd := field_eq w 21 vd (by rw [W] <;> omega)
  have h3 : fA w = va := field_eq w 16 va (by rw [W] <;> omega)
  have h4 : fB w = vb := field_eq w 11 vb (by rw [W] <;> omega)
  have h5 : fPred w = pred := field_eq w 7 pred (by rw [W] <;> omega)
  have h6 : fFmt w = fmt := field_eq w 0 fmt (by rw [W] <;> omega)
  have U : ∀ i, unused w 0x00000060 i = .ok i := fun i => unused_ok w _ i [(5, 2)] (by decide)
    (by simp only [List.forall_mem_cons, W] <;> simp <;> omega)
  simp only [decodeV, h1, h2, h3, h4, h5, h6, U]

theorem decode_vsar (p : Pos) (vd : BitVec 5) (va : BitVec 5) (vb : BitVec 5) (pred : BitVec 4) (fmt : BitVec 5) :
    decodeV p (encode (.vsar p vd va vb pred fmt)) = .ok (.vsar p vd va vb pred fmt) := by
  have e : encode (.vsar p vd va vb pred fmt) = packV 0x16 vd va vb pred 0 fmt := rfl
  have W : (encode (.vsar p vd va vb pred fmt)).toNat = 1476395008 + vd.toNat * 2 ^ 21 + va.toNat * 2 ^ 16 + vb.toNat * 2 ^ 11 + pred.toNat * 2 ^ 7 + fmt.toNat := by
    rw [e]
    simp only [packV, append_toNat, bit_toNat, BitVec.toNat_ofNat, BitVec.ofNat_eq_ofNat, BitVec.extractLsb'_toNat,
      Nat.shiftRight_eq_div_pow, Bool.toNat_false, Bool.toNat_true] <;> omega
  clear e
  generalize encode (.vsar p vd va vb pred fmt) = w at W ⊢
  have h1 : fMajor w = 22 := field_toNat w 26 6 _ (by rw [W] <;> omega)
  have h2 : fD w = vd := field_eq w 21 vd (by rw [W] <;> omega)
  have h3 : fA w = va := field_eq w 16 va (by rw [W] <;> omega)
  have h4 : fB w = vb := field_eq w 11 vb (by rw [W] <;> omega)
  have h5 : fPred w = pred := field_eq w 7 pred (by rw [W] <;> omega)
  have h6 : fFmt w = fmt := field_eq w 0 fmt (by rw [W] <;> omega)
  have U : ∀ i, unused w 0x00000060 i = .ok i := fun i => unused_ok w _ i [(5, 2)] (by decide)
    (by simp only [List.forall_mem_cons, W] <;> simp <;> omega)
  simp only [decodeV, h1, h2, h3, h4, h5, h6, U]

theorem decode_vdot (p : Pos) (vd : BitVec 5) (va : BitVec 5) (vb : BitVec 5) (pred : BitVec 4) (rm : BitVec 2) :
    decodeV p (encode (.vdot p vd va vb pred rm)) = .ok (.vdot p vd va vb pred rm) := by
  have e : encode (.vdot p vd va vb pred rm) = packV 0x17 vd va vb pred rm 1 := rfl
  have W : (encode (.vdot p vd va vb pred rm)).toNat = 1543503873 + vd.toNat * 2 ^ 21 + va.toNat * 2 ^ 16 + vb.toNat * 2 ^ 11 + pred.toNat * 2 ^ 7 + rm.toNat * 2 ^ 5 := by
    rw [e]
    simp only [packV, append_toNat, bit_toNat, BitVec.toNat_ofNat, BitVec.ofNat_eq_ofNat, BitVec.extractLsb'_toNat,
      Nat.shiftRight_eq_div_pow, Bool.toNat_false, Bool.toNat_true] <;> omega
  clear e
  generalize encode (.vdot p vd va vb pred rm) = w at W ⊢
  have h1 : fMajor w = 23 := field_toNat w 26 6 _ (by rw [W] <;> omega)
  have h2 : fD w = vd := field_eq w 21 vd (by rw [W] <;> omega)
  have h3 : fA w = va := field_eq w 16 va (by rw [W] <;> omega)
  have h4 : fB w = vb := field_eq w 11 vb (by rw [W] <;> omega)
  have h5 : fPred w = pred := field_eq w 7 pred (by rw [W] <;> omega)
  have h6 : fRm w = rm := field_eq w 5 rm (by rw [W] <;> omega)
  have hx : fFmt w = 1 := field_eq w 0 1 (by rw [W] <;> simp <;> omega)
  simp only [decodeV, h1, h2, h3, h4, h5, h6, hx]
  simp

theorem decode_vli (p : Pos) (vd : BitVec 5) (fmt : BitVec 5) (pred : BitVec 4) (imm : BitVec 12) :
    decodeV p (encode (.vli p vd fmt pred imm)) = .ok (.vli p vd fmt pred imm) := by
  have e : encode (.vli p vd fmt pred imm) = packVI 0x18 vd fmt pred imm := rfl
  have W : (encode (.vli p vd fmt pred imm)).toNat = 1610612736 + vd.toNat * 2 ^ 21 + fmt.toNat * 2 ^ 16 + (imm.toNat / 2 ^ 7) * 2 ^ 11 + pred.toNat * 2 ^ 7 + (imm.toNat % 2 ^ 7) := by
    rw [e]
    simp only [packVI, append_toNat, bit_toNat, BitVec.toNat_ofNat, BitVec.ofNat_eq_ofNat, BitVec.extractLsb'_toNat,
      Nat.shiftRight_eq_div_pow, Bool.toNat_false, Bool.toNat_true] <;> omega
  clear e
  generalize encode (.vli p vd fmt pred imm) = w at W ⊢
  obtain ⟨u, hu⟩ : ∃ u, imm.toNat / 2 ^ 7 = u := ⟨_, rfl⟩
  obtain ⟨v, hv⟩ : ∃ v, imm.toNat % 2 ^ 7 = v := ⟨_, rfl⟩
  rw [hu, hv] at W
  have i1 : u < 32 := by omega
  have i2 : v < 128 := by omega
  have hi : w.extractLsb' 11 5 ++ w.extractLsb' 0 7 = imm :=
    fields_eq w imm (by rw [W, hu] <;> omega) (by rw [W, hv] <;> omega)
  clear hu hv
  have h2 : fMajor w = 24 := field_toNat w 26 6 _ (by rw [W] <;> omega)
  have h3 : fD w = vd := field_eq w 21 vd (by rw [W] <;> omega)
  have h4 : fA w = fmt := field_eq w 16 fmt (by rw [W] <;> omega)
  have h5 : fPred w = pred := field_eq w 7 pred (by rw [W] <;> omega)
  simp only [decodeV, hi, h2, h3, h4, h5]

theorem decode_vmov (p : Pos) (vd : BitVec 5) (va : BitVec 5) :
    decodeV p (encode (.vmov p vd va)) = .ok (.vmov p vd va) := by
  have e : encode (.vmov p vd va) = packV 0x19 vd va 0 0 0 0 := rfl
  have W : (encode (.vmov p vd va)).toNat = 1677721600 + vd.toNat * 2 ^ 21 + va.toNat * 2 ^ 16 := by
    rw [e]
    simp only [packV, append_toNat, bit_toNat, BitVec.toNat_ofNat, BitVec.ofNat_eq_ofNat, BitVec.extractLsb'_toNat,
      Nat.shiftRight_eq_div_pow, Bool.toNat_false, Bool.toNat_true] <;> omega
  clear e
  generalize encode (.vmov p vd va) = w at W ⊢
  have h1 : fMajor w = 25 := field_toNat w 26 6 _ (by rw [W] <;> omega)
  have h2 : fD w = vd := field_eq w 21 vd (by rw [W] <;> omega)
  have h3 : fA w = va := field_eq w 16 va (by rw [W] <;> omega)
  have U : ∀ i, unused w 0x0000FFFF i = .ok i := fun i => unused_ok w _ i [(0, 16)] (by decide)
    (by simp only [List.forall_mem_cons, W] <;> simp <;> omega)
  simp only [decodeV, h1, h2, h3, U]

theorem decode_vdiv (p : Pos) (vd : BitVec 5) (va : BitVec 5) (vb : BitVec 5) (pred : BitVec 4) (rm : BitVec 2) (fmt : BitVec 5) :
    decodeV p (encode (.vdiv p vd va vb pred rm fmt)) = .ok (.vdiv p vd va vb pred rm fmt) := by
  have e : encode (.vdiv p vd va vb pred rm fmt) = packV 0x20 vd va vb pred rm fmt := rfl
  have W : (encode (.vdiv p vd va vb pred rm fmt)).toNat = 2147483648 + vd.toNat * 2 ^ 21 + va.toNat * 2 ^ 16 + vb.toNat * 2 ^ 11 + pred.toNat * 2 ^ 7 + rm.toNat * 2 ^ 5 + fmt.toNat := by
    rw [e]
    simp only [packV, append_toNat, bit_toNat, BitVec.toNat_ofNat, BitVec.ofNat_eq_ofNat, BitVec.extractLsb'_toNat,
      Nat.shiftRight_eq_div_pow, Bool.toNat_false, Bool.toNat_true] <;> omega
  clear e
  generalize encode (.vdiv p vd va vb pred rm fmt) = w at W ⊢
  have h1 : fMajor w = 32 := field_toNat w 26 6 _ (by rw [W] <;> omega)
  have h2 : fD w = vd := field_eq w 21 vd (by rw [W] <;> omega)
  have h3 : fA w = va := field_eq w 16 va (by rw [W] <;> omega)
  have h4 : fB w = vb := field_eq w 11 vb (by rw [W] <;> omega)
  have h5 : fPred w = pred := field_eq w 7 pred (by rw [W] <;> omega)
  have h6 : fRm w = rm := field_eq w 5 rm (by rw [W] <;> omega)
  have h7 : fFmt w = fmt := field_eq w 0 fmt (by rw [W] <;> omega)
  simp only [decodeV, h1, h2, h3, h4, h5, h6, h7]

theorem decode_vsqrt (p : Pos) (vd : BitVec 5) (va : BitVec 5) (pred : BitVec 4) (rm : BitVec 2) (fmt : BitVec 5) :
    decodeV p (encode (.vsqrt p vd va pred rm fmt)) = .ok (.vsqrt p vd va pred rm fmt) := by
  have e : encode (.vsqrt p vd va pred rm fmt) = packV 0x21 vd va 0 pred rm fmt := rfl
  have W : (encode (.vsqrt p vd va pred rm fmt)).toNat = 2214592512 + vd.toNat * 2 ^ 21 + va.toNat * 2 ^ 16 + pred.toNat * 2 ^ 7 + rm.toNat * 2 ^ 5 + fmt.toNat := by
    rw [e]
    simp only [packV, append_toNat, bit_toNat, BitVec.toNat_ofNat, BitVec.ofNat_eq_ofNat, BitVec.extractLsb'_toNat,
      Nat.shiftRight_eq_div_pow, Bool.toNat_false, Bool.toNat_true] <;> omega
  clear e
  generalize encode (.vsqrt p vd va pred rm fmt) = w at W ⊢
  have h1 : fMajor w = 33 := field_toNat w 26 6 _ (by rw [W] <;> omega)
  have h2 : fD w = vd := field_eq w 21 vd (by rw [W] <;> omega)
  have h3 : fA w = va := field_eq w 16 va (by rw [W] <;> omega)
  have h4 : fPred w = pred := field_eq w 7 pred (by rw [W] <;> omega)
  have h5 : fRm w = rm := field_eq w 5 rm (by rw [W] <;> omega)
  have h6 : fFmt w = fmt := field_eq w 0 fmt (by rw [W] <;> omega)
  have U : ∀ i, unused w 0x0000F800 i = .ok i := fun i => unused_ok w _ i [(11, 5)] (by decide)
    (by simp only [List.forall_mem_cons, W] <;> simp <;> omega)
  simp only [decodeV, h1, h2, h3, h4, h5, h6, U]

theorem decode_vrcp (p : Pos) (vd : BitVec 5) (va : BitVec 5) (pred : BitVec 4) (rm : BitVec 2) (fmt : BitVec 5) :
    decodeV p (encode (.vrcp p vd va pred rm fmt)) = .ok (.vrcp p vd va pred rm fmt) := by
  have e : encode (.vrcp p vd va pred rm fmt) = packV 0x22 vd va 0 pred rm fmt := rfl
  have W : (encode (.vrcp p vd va pred rm fmt)).toNat = 2281701376 + vd.toNat * 2 ^ 21 + va.toNat * 2 ^ 16 + pred.toNat * 2 ^ 7 + rm.toNat * 2 ^ 5 + fmt.toNat := by
    rw [e]
    simp only [packV, append_toNat, bit_toNat, BitVec.toNat_ofNat, BitVec.ofNat_eq_ofNat, BitVec.extractLsb'_toNat,
      Nat.shiftRight_eq_div_pow, Bool.toNat_false, Bool.toNat_true] <;> omega
  clear e
  generalize encode (.vrcp p vd va pred rm fmt) = w at W ⊢
  have h1 : fMajor w = 34 := field_toNat w 26 6 _ (by rw [W] <;> omega)
  have h2 : fD w = vd := field_eq w 21 vd (by rw [W] <;> omega)
  have h3 : fA w = va := field_eq w 16 va (by rw [W] <;> omega)
  have h4 : fPred w = pred := field_eq w 7 pred (by rw [W] <;> omega)
  have h5 : fRm w = rm := field_eq w 5 rm (by rw [W] <;> omega)
  have h6 : fFmt w = fmt := field_eq w 0 fmt (by rw [W] <;> omega)
  have U : ∀ i, unused w 0x0000F800 i = .ok i := fun i => unused_ok w _ i [(11, 5)] (by decide)
    (by simp only [List.forall_mem_cons, W] <;> simp <;> omega)
  simp only [decodeV, h1, h2, h3, h4, h5, h6, U]

theorem decode_vrsq (p : Pos) (vd : BitVec 5) (va : BitVec 5) (pred : BitVec 4) (rm : BitVec 2) (fmt : BitVec 5) :
    decodeV p (encode (.vrsq p vd va pred rm fmt)) = .ok (.vrsq p vd va pred rm fmt) := by
  have e : encode (.vrsq p vd va pred rm fmt) = packV 0x23 vd va 0 pred rm fmt := rfl
  have W : (encode (.vrsq p vd va pred rm fmt)).toNat = 2348810240 + vd.toNat * 2 ^ 21 + va.toNat * 2 ^ 16 + pred.toNat * 2 ^ 7 + rm.toNat * 2 ^ 5 + fmt.toNat := by
    rw [e]
    simp only [packV, append_toNat, bit_toNat, BitVec.toNat_ofNat, BitVec.ofNat_eq_ofNat, BitVec.extractLsb'_toNat,
      Nat.shiftRight_eq_div_pow, Bool.toNat_false, Bool.toNat_true] <;> omega
  clear e
  generalize encode (.vrsq p vd va pred rm fmt) = w at W ⊢
  have h1 : fMajor w = 35 := field_toNat w 26 6 _ (by rw [W] <;> omega)
  have h2 : fD w = vd := field_eq w 21 vd (by rw [W] <;> omega)
  have h3 : fA w = va := field_eq w 16 va (by rw [W] <;> omega)
  have h4 : fPred w = pred := field_eq w 7 pred (by rw [W] <;> omega)
  have h5 : fRm w = rm := field_eq w 5 rm (by rw [W] <;> omega)
  have h6 : fFmt w = fmt := field_eq w 0 fmt (by rw [W] <;> omega)
  have U : ∀ i, unused w 0x0000F800 i = .ok i := fun i => unused_ok w _ i [(11, 5)] (by decide)
    (by simp only [List.forall_mem_cons, W] <;> simp <;> omega)
  simp only [decodeV, h1, h2, h3, h4, h5, h6, U]

theorem decode_vexp2 (p : Pos) (vd : BitVec 5) (va : BitVec 5) (pred : BitVec 4) (rm : BitVec 2) (fmt : BitVec 5) :
    decodeV p (encode (.vexp2 p vd va pred rm fmt)) = .ok (.vexp2 p vd va pred rm fmt) := by
  have e : encode (.vexp2 p vd va pred rm fmt) = packV 0x24 vd va 0 pred rm fmt := rfl
  have W : (encode (.vexp2 p vd va pred rm fmt)).toNat = 2415919104 + vd.toNat * 2 ^ 21 + va.toNat * 2 ^ 16 + pred.toNat * 2 ^ 7 + rm.toNat * 2 ^ 5 + fmt.toNat := by
    rw [e]
    simp only [packV, append_toNat, bit_toNat, BitVec.toNat_ofNat, BitVec.ofNat_eq_ofNat, BitVec.extractLsb'_toNat,
      Nat.shiftRight_eq_div_pow, Bool.toNat_false, Bool.toNat_true] <;> omega
  clear e
  generalize encode (.vexp2 p vd va pred rm fmt) = w at W ⊢
  have h1 : fMajor w = 36 := field_toNat w 26 6 _ (by rw [W] <;> omega)
  have h2 : fD w = vd := field_eq w 21 vd (by rw [W] <;> omega)
  have h3 : fA w = va := field_eq w 16 va (by rw [W] <;> omega)
  have h4 : fPred w = pred := field_eq w 7 pred (by rw [W] <;> omega)
  have h5 : fRm w = rm := field_eq w 5 rm (by rw [W] <;> omega)
  have h6 : fFmt w = fmt := field_eq w 0 fmt (by rw [W] <;> omega)
  have U : ∀ i, unused w 0x0000F800 i = .ok i := fun i => unused_ok w _ i [(11, 5)] (by decide)
    (by simp only [List.forall_mem_cons, W] <;> simp <;> omega)
  simp only [decodeV, h1, h2, h3, h4, h5, h6, U]

theorem decode_vlog2 (p : Pos) (vd : BitVec 5) (va : BitVec 5) (pred : BitVec 4) (rm : BitVec 2) (fmt : BitVec 5) :
    decodeV p (encode (.vlog2 p vd va pred rm fmt)) = .ok (.vlog2 p vd va pred rm fmt) := by
  have e : encode (.vlog2 p vd va pred rm fmt) = packV 0x25 vd va 0 pred rm fmt := rfl
  have W : (encode (.vlog2 p vd va pred rm fmt)).toNat = 2483027968 + vd.toNat * 2 ^ 21 + va.toNat * 2 ^ 16 + pred.toNat * 2 ^ 7 + rm.toNat * 2 ^ 5 + fmt.toNat := by
    rw [e]
    simp only [packV, append_toNat, bit_toNat, BitVec.toNat_ofNat, BitVec.ofNat_eq_ofNat, BitVec.extractLsb'_toNat,
      Nat.shiftRight_eq_div_pow, Bool.toNat_false, Bool.toNat_true] <;> omega
  clear e
  generalize encode (.vlog2 p vd va pred rm fmt) = w at W ⊢
  have h1 : fMajor w = 37 := field_toNat w 26 6 _ (by rw [W] <;> omega)
  have h2 : fD w = vd := field_eq w 21 vd (by rw [W] <;> omega)
  have h3 : fA w = va := field_eq w 16 va (by rw [W] <;> omega)
  have h4 : fPred w = pred := field_eq w 7 pred (by rw [W] <;> omega)
  have h5 : fRm w = rm := field_eq w 5 rm (by rw [W] <;> omega)
  have h6 : fFmt w = fmt := field_eq w 0 fmt (by rw [W] <;> omega)
  have U : ∀ i, unused w 0x0000F800 i = .ok i := fun i => unused_ok w _ i [(11, 5)] (by decide)
    (by simp only [List.forall_mem_cons, W] <;> simp <;> omega)
  simp only [decodeV, h1, h2, h3, h4, h5, h6, U]

theorem decode_vtanh (p : Pos) (vd : BitVec 5) (va : BitVec 5) (pred : BitVec 4) (rm : BitVec 2) (fmt : BitVec 5) :
    decodeV p (encode (.vtanh p vd va pred rm fmt)) = .ok (.vtanh p vd va pred rm fmt) := by
  have e : encode (.vtanh p vd va pred rm fmt) = packV 0x26 vd va 0 pred rm fmt := rfl
  have W : (encode (.vtanh p vd va pred rm fmt)).toNat = 2550136832 + vd.toNat * 2 ^ 21 + va.toNat * 2 ^ 16 + pred.toNat * 2 ^ 7 + rm.toNat * 2 ^ 5 + fmt.toNat := by
    rw [e]
    simp only [packV, append_toNat, bit_toNat, BitVec.toNat_ofNat, BitVec.ofNat_eq_ofNat, BitVec.extractLsb'_toNat,
      Nat.shiftRight_eq_div_pow, Bool.toNat_false, Bool.toNat_true] <;> omega
  clear e
  generalize encode (.vtanh p vd va pred rm fmt) = w at W ⊢
  have h1 : fMajor w = 38 := field_toNat w 26 6 _ (by rw [W] <;> omega)
  have h2 : fD w = vd := field_eq w 21 vd (by rw [W] <;> omega)
  have h3 : fA w = va := field_eq w 16 va (by rw [W] <;> omega)
  have h4 : fPred w = pred := field_eq w 7 pred (by rw [W] <;> omega)
  have h5 : fRm w = rm := field_eq w 5 rm (by rw [W] <;> omega)
  have h6 : fFmt w = fmt := field_eq w 0 fmt (by rw [W] <;> omega)
  have U : ∀ i, unused w 0x0000F800 i = .ok i := fun i => unused_ok w _ i [(11, 5)] (by decide)
    (by simp only [List.forall_mem_cons, W] <;> simp <;> omega)
  simp only [decodeV, h1, h2, h3, h4, h5, h6, U]

theorem decode_vsinpi (p : Pos) (vd : BitVec 5) (va : BitVec 5) (pred : BitVec 4) (rm : BitVec 2) (fmt : BitVec 5) :
    decodeV p (encode (.vsinpi p vd va pred rm fmt)) = .ok (.vsinpi p vd va pred rm fmt) := by
  have e : encode (.vsinpi p vd va pred rm fmt) = packV 0x27 vd va 0 pred rm fmt := rfl
  have W : (encode (.vsinpi p vd va pred rm fmt)).toNat = 2617245696 + vd.toNat * 2 ^ 21 + va.toNat * 2 ^ 16 + pred.toNat * 2 ^ 7 + rm.toNat * 2 ^ 5 + fmt.toNat := by
    rw [e]
    simp only [packV, append_toNat, bit_toNat, BitVec.toNat_ofNat, BitVec.ofNat_eq_ofNat, BitVec.extractLsb'_toNat,
      Nat.shiftRight_eq_div_pow, Bool.toNat_false, Bool.toNat_true] <;> omega
  clear e
  generalize encode (.vsinpi p vd va pred rm fmt) = w at W ⊢
  have h1 : fMajor w = 39 := field_toNat w 26 6 _ (by rw [W] <;> omega)
  have h2 : fD w = vd := field_eq w 21 vd (by rw [W] <;> omega)
  have h3 : fA w = va := field_eq w 16 va (by rw [W] <;> omega)
  have h4 : fPred w = pred := field_eq w 7 pred (by rw [W] <;> omega)
  have h5 : fRm w = rm := field_eq w 5 rm (by rw [W] <;> omega)
  have h6 : fFmt w = fmt := field_eq w 0 fmt (by rw [W] <;> omega)
  have U : ∀ i, unused w 0x0000F800 i = .ok i := fun i => unused_ok w _ i [(11, 5)] (by decide)
    (by simp only [List.forall_mem_cons, W] <;> simp <;> omega)
  simp only [decodeV, h1, h2, h3, h4, h5, h6, U]

theorem decode_vcospi (p : Pos) (vd : BitVec 5) (va : BitVec 5) (pred : BitVec 4) (rm : BitVec 2) (fmt : BitVec 5) :
    decodeV p (encode (.vcospi p vd va pred rm fmt)) = .ok (.vcospi p vd va pred rm fmt) := by
  have e : encode (.vcospi p vd va pred rm fmt) = packV 0x28 vd va 0 pred rm fmt := rfl
  have W : (encode (.vcospi p vd va pred rm fmt)).toNat = 2684354560 + vd.toNat * 2 ^ 21 + va.toNat * 2 ^ 16 + pred.toNat * 2 ^ 7 + rm.toNat * 2 ^ 5 + fmt.toNat := by
    rw [e]
    simp only [packV, append_toNat, bit_toNat, BitVec.toNat_ofNat, BitVec.ofNat_eq_ofNat, BitVec.extractLsb'_toNat,
      Nat.shiftRight_eq_div_pow, Bool.toNat_false, Bool.toNat_true] <;> omega
  clear e
  generalize encode (.vcospi p vd va pred rm fmt) = w at W ⊢
  have h1 : fMajor w = 40 := field_toNat w 26 6 _ (by rw [W] <;> omega)
  have h2 : fD w = vd := field_eq w 21 vd (by rw [W] <;> omega)
  have h3 : fA w = va := field_eq w 16 va (by rw [W] <;> omega)
  have h4 : fPred w = pred := field_eq w 7 pred (by rw [W] <;> omega)
  have h5 : fRm w = rm := field_eq w 5 rm (by rw [W] <;> omega)
  have h6 : fFmt w = fmt := field_eq w 0 fmt (by rw [W] <;> omega)
  have U : ∀ i, unused w 0x0000F800 i = .ok i := fun i => unused_ok w _ i [(11, 5)] (by decide)
    (by simp only [List.forall_mem_cons, W] <;> simp <;> omega)
  simp only [decodeV, h1, h2, h3, h4, h5, h6, U]

theorem decode_vredSum (p : Pos) (vd : BitVec 5) (va : BitVec 5) (pred : BitVec 4) (rm : BitVec 2) (fmt : BitVec 5) :
    decodeV p (encode (.vredSum p vd va pred rm fmt)) = .ok (.vredSum p vd va pred rm fmt) := by
  have e : encode (.vredSum p vd va pred rm fmt) = packV 0x29 vd va 0 pred rm fmt := rfl
  have W : (encode (.vredSum p vd va pred rm fmt)).toNat = 2751463424 + vd.toNat * 2 ^ 21 + va.toNat * 2 ^ 16 + pred.toNat * 2 ^ 7 + rm.toNat * 2 ^ 5 + fmt.toNat := by
    rw [e]
    simp only [packV, append_toNat, bit_toNat, BitVec.toNat_ofNat, BitVec.ofNat_eq_ofNat, BitVec.extractLsb'_toNat,
      Nat.shiftRight_eq_div_pow, Bool.toNat_false, Bool.toNat_true] <;> omega
  clear e
  generalize encode (.vredSum p vd va pred rm fmt) = w at W ⊢
  have h1 : fMajor w = 41 := field_toNat w 26 6 _ (by rw [W] <;> omega)
  have h2 : fD w = vd := field_eq w 21 vd (by rw [W] <;> omega)
  have h3 : fA w = va := field_eq w 16 va (by rw [W] <;> omega)
  have h4 : fPred w = pred := field_eq w 7 pred (by rw [W] <;> omega)
  have h5 : fRm w = rm := field_eq w 5 rm (by rw [W] <;> omega)
  have h6 : fFmt w = fmt := field_eq w 0 fmt (by rw [W] <;> omega)
  have U : ∀ i, unused w 0x0000F800 i = .ok i := fun i => unused_ok w _ i [(11, 5)] (by decide)
    (by simp only [List.forall_mem_cons, W] <;> simp <;> omega)
  simp only [decodeV, h1, h2, h3, h4, h5, h6, U]

theorem decode_vredMax (p : Pos) (vd : BitVec 5) (va : BitVec 5) (pred : BitVec 4) (fmt : BitVec 5) :
    decodeV p (encode (.vredMax p vd va pred fmt)) = .ok (.vredMax p vd va pred fmt) := by
  have e : encode (.vredMax p vd va pred fmt) = packV 0x2A vd va 0 pred 0 fmt := rfl
  have W : (encode (.vredMax p vd va pred fmt)).toNat = 2818572288 + vd.toNat * 2 ^ 21 + va.toNat * 2 ^ 16 + pred.toNat * 2 ^ 7 + fmt.toNat := by
    rw [e]
    simp only [packV, append_toNat, bit_toNat, BitVec.toNat_ofNat, BitVec.ofNat_eq_ofNat, BitVec.extractLsb'_toNat,
      Nat.shiftRight_eq_div_pow, Bool.toNat_false, Bool.toNat_true] <;> omega
  clear e
  generalize encode (.vredMax p vd va pred fmt) = w at W ⊢
  have h1 : fMajor w = 42 := field_toNat w 26 6 _ (by rw [W] <;> omega)
  have h2 : fD w = vd := field_eq w 21 vd (by rw [W] <;> omega)
  have h3 : fA w = va := field_eq w 16 va (by rw [W] <;> omega)
  have h4 : fPred w = pred := field_eq w 7 pred (by rw [W] <;> omega)
  have h5 : fFmt w = fmt := field_eq w 0 fmt (by rw [W] <;> omega)
  have U : ∀ i, unused w 0x0000F860 i = .ok i := fun i => unused_ok w _ i [(5, 2), (11, 5)] (by decide)
    (by simp only [List.forall_mem_cons, W] <;> simp <;> omega)
  simp only [decodeV, h1, h2, h3, h4, h5, U]

theorem decode_vredMin (p : Pos) (vd : BitVec 5) (va : BitVec 5) (pred : BitVec 4) (fmt : BitVec 5) :
    decodeV p (encode (.vredMin p vd va pred fmt)) = .ok (.vredMin p vd va pred fmt) := by
  have e : encode (.vredMin p vd va pred fmt) = packV 0x2B vd va 0 pred 0 fmt := rfl
  have W : (encode (.vredMin p vd va pred fmt)).toNat = 2885681152 + vd.toNat * 2 ^ 21 + va.toNat * 2 ^ 16 + pred.toNat * 2 ^ 7 + fmt.toNat := by
    rw [e]
    simp only [packV, append_toNat, bit_toNat, BitVec.toNat_ofNat, BitVec.ofNat_eq_ofNat, BitVec.extractLsb'_toNat,
      Nat.shiftRight_eq_div_pow, Bool.toNat_false, Bool.toNat_true] <;> omega
  clear e
  generalize encode (.vredMin p vd va pred fmt) = w at W ⊢
  have h1 : fMajor w = 43 := field_toNat w 26 6 _ (by rw [W] <;> omega)
  have h2 : fD w = vd := field_eq w 21 vd (by rw [W] <;> omega)
  have h3 : fA w = va := field_eq w 16 va (by rw [W] <;> omega)
  have h4 : fPred w = pred := field_eq w 7 pred (by rw [W] <;> omega)
  have h5 : fFmt w = fmt := field_eq w 0 fmt (by rw [W] <;> omega)
  have U : ∀ i, unused w 0x0000F860 i = .ok i := fun i => unused_ok w _ i [(5, 2), (11, 5)] (by decide)
    (by simp only [List.forall_mem_cons, W] <;> simp <;> omega)
  simp only [decodeV, h1, h2, h3, h4, h5, U]

theorem decode_vmaxi (p : Pos) (vd : BitVec 5) (va : BitVec 5) (pred : BitVec 4) (fmt : BitVec 5) :
    decodeV p (encode (.vmaxi p vd va pred fmt)) = .ok (.vmaxi p vd va pred fmt) := by
  have e : encode (.vmaxi p vd va pred fmt) = packV 0x2C vd va 0 pred 0 fmt := rfl
  have W : (encode (.vmaxi p vd va pred fmt)).toNat = 2952790016 + vd.toNat * 2 ^ 21 + va.toNat * 2 ^ 16 + pred.toNat * 2 ^ 7 + fmt.toNat := by
    rw [e]
    simp only [packV, append_toNat, bit_toNat, BitVec.toNat_ofNat, BitVec.ofNat_eq_ofNat, BitVec.extractLsb'_toNat,
      Nat.shiftRight_eq_div_pow, Bool.toNat_false, Bool.toNat_true] <;> omega
  clear e
  generalize encode (.vmaxi p vd va pred fmt) = w at W ⊢
  have h1 : fMajor w = 44 := field_toNat w 26 6 _ (by rw [W] <;> omega)
  have h2 : fD w = vd := field_eq w 21 vd (by rw [W] <;> omega)
  have h3 : fA w = va := field_eq w 16 va (by rw [W] <;> omega)
  have h4 : fPred w = pred := field_eq w 7 pred (by rw [W] <;> omega)
  have h5 : fFmt w = fmt := field_eq w 0 fmt (by rw [W] <;> omega)
  have U : ∀ i, unused w 0x0000F860 i = .ok i := fun i => unused_ok w _ i [(5, 2), (11, 5)] (by decide)
    (by simp only [List.forall_mem_cons, W] <;> simp <;> omega)
  simp only [decodeV, h1, h2, h3, h4, h5, U]

theorem decode_vshuf (p : Pos) (vd : BitVec 5) (va : BitVec 5) (vb : BitVec 5) (entry : BitVec 6) :
    decodeV p (encode (.vshuf p vd va vb entry)) = .ok (.vshuf p vd va vb entry) := by
  have e : encode (.vshuf p vd va vb entry) = packR 0x2D vd va vb (entry ++ (0 : BitVec 5)) := rfl
  have W : (encode (.vshuf p vd va vb entry)).toNat = 3019898880 + vd.toNat * 2 ^ 21 + va.toNat * 2 ^ 16 + vb.toNat * 2 ^ 11 + entry.toNat * 2 ^ 5 := by
    rw [e]
    simp only [packR, append_toNat, bit_toNat, BitVec.toNat_ofNat, BitVec.ofNat_eq_ofNat, BitVec.extractLsb'_toNat,
      Nat.shiftRight_eq_div_pow, Bool.toNat_false, Bool.toNat_true] <;> omega
  clear e
  generalize encode (.vshuf p vd va vb entry) = w at W ⊢
  have h1 : fMajor w = 45 := field_toNat w 26 6 _ (by rw [W] <;> omega)
  have h2 : fD w = vd := field_eq w 21 vd (by rw [W] <;> omega)
  have h3 : fA w = va := field_eq w 16 va (by rw [W] <;> omega)
  have h4 : fB w = vb := field_eq w 11 vb (by rw [W] <;> omega)
  have h5 : w.extractLsb' 5 6 = entry := field_eq w 5 entry (by rw [W] <;> omega)
  have U : ∀ i, unused w 0x0000001F i = .ok i := fun i => unused_ok w _ i [(0, 5)] (by decide)
    (by simp only [List.forall_mem_cons, W] <;> simp <;> omega)
  simp only [decodeV, h1, h2, h3, h4, h5, U]

theorem decode_vpld (p : Pos) (va : BitVec 5) (vb : BitVec 5) (entry : BitVec 6) :
    decodeV p (encode (.vpld p va vb entry)) = .ok (.vpld p va vb entry) := by
  have e : encode (.vpld p va vb entry) = packR 0x2E 0 va vb (entry ++ (0 : BitVec 5)) := rfl
  have W : (encode (.vpld p va vb entry)).toNat = 3087007744 + va.toNat * 2 ^ 16 + vb.toNat * 2 ^ 11 + entry.toNat * 2 ^ 5 := by
    rw [e]
    simp only [packR, append_toNat, bit_toNat, BitVec.toNat_ofNat, BitVec.ofNat_eq_ofNat, BitVec.extractLsb'_toNat,
      Nat.shiftRight_eq_div_pow, Bool.toNat_false, Bool.toNat_true] <;> omega
  clear e
  generalize encode (.vpld p va vb entry) = w at W ⊢
  have h1 : fMajor w = 46 := field_toNat w 26 6 _ (by rw [W] <;> omega)
  have h2 : fA w = va := field_eq w 16 va (by rw [W] <;> omega)
  have h3 : fB w = vb := field_eq w 11 vb (by rw [W] <;> omega)
  have h4 : w.extractLsb' 5 6 = entry := field_eq w 5 entry (by rw [W] <;> omega)
  have U : ∀ i, unused w 0x03E0001F i = .ok i := fun i => unused_ok w _ i [(0, 5), (21, 5)] (by decide)
    (by simp only [List.forall_mem_cons, W] <;> simp <;> omega)
  simp only [decodeV, h1, h2, h3, h4, U]

theorem decode_vpsw (p : Pos) :
    decodeV p (encode (.vpsw p)) = .ok (.vpsw p) := by
  have e : encode (.vpsw p) = packR 0x2F 0 0 0 0 := rfl
  have W : (encode (.vpsw p)).toNat = 3154116608 := by
    rw [e]
    simp only [packR, append_toNat, bit_toNat, BitVec.toNat_ofNat, BitVec.ofNat_eq_ofNat, BitVec.extractLsb'_toNat,
      Nat.shiftRight_eq_div_pow, Bool.toNat_false, Bool.toNat_true] <;> omega
  clear e
  generalize encode (.vpsw p) = w at W ⊢
  have h1 : fMajor w = 47 := field_toNat w 26 6 _ (by rw [W] <;> omega)
  have U : ∀ i, unused w 0x03FFFFFF i = .ok i := fun i => unused_ok w _ i [(0, 26)] (by decide)
    (by simp only [List.forall_mem_cons, W] <;> simp <;> omega)
  simp only [decodeV, h1, U]

theorem decode_vcvt (p : Pos) (vd : BitVec 5) (va : BitVec 5) (srcFmt : BitVec 5) (pred : BitVec 4) (rm : BitVec 2) (fmt : BitVec 5) :
    decodeV p (encode (.vcvt p vd va srcFmt pred rm fmt)) = .ok (.vcvt p vd va srcFmt pred rm fmt) := by
  have e : encode (.vcvt p vd va srcFmt pred rm fmt) = packV 0x30 vd va srcFmt pred rm fmt := rfl
  have W : (encode (.vcvt p vd va srcFmt pred rm fmt)).toNat = 3221225472 + vd.toNat * 2 ^ 21 + va.toNat * 2 ^ 16 + srcFmt.toNat * 2 ^ 11 + pred.toNat * 2 ^ 7 + rm.toNat * 2 ^ 5 + fmt.toNat := by
    rw [e]
    simp only [packV, append_toNat, bit_toNat, BitVec.toNat_ofNat, BitVec.ofNat_eq_ofNat, BitVec.extractLsb'_toNat,
      Nat.shiftRight_eq_div_pow, Bool.toNat_false, Bool.toNat_true] <;> omega
  clear e
  generalize encode (.vcvt p vd va srcFmt pred rm fmt) = w at W ⊢
  have h1 : fMajor w = 48 := field_toNat w 26 6 _ (by rw [W] <;> omega)
  have h2 : fD w = vd := field_eq w 21 vd (by rw [W] <;> omega)
  have h3 : fA w = va := field_eq w 16 va (by rw [W] <;> omega)
  have h4 : fB w = srcFmt := field_eq w 11 srcFmt (by rw [W] <;> omega)
  have h5 : fPred w = pred := field_eq w 7 pred (by rw [W] <;> omega)
  have h6 : fRm w = rm := field_eq w 5 rm (by rw [W] <;> omega)
  have h7 : fFmt w = fmt := field_eq w 0 fmt (by rw [W] <;> omega)
  simp only [decodeV, h1, h2, h3, h4, h5, h6, h7]

theorem decode_vnr (p : Pos) (vd : BitVec 5) (va : BitVec 5) (run : BitVec 2) (block : BitVec 2) (group : Bool) (rotate : Bool) (seed : BitVec 4) (fmt : BitVec 5) :
    decodeV p (encode (.vnr p vd va run block group rotate seed fmt)) = .ok (.vnr p vd va run block group rotate seed fmt) := by
  have b_group := Bool.toNat_le group
  have b_rotate := Bool.toNat_le rotate
  have e : encode (.vnr p vd va run block group rotate seed fmt) = packH 0x31 vd va run block group seed rotate fmt := rfl
  have W : (encode (.vnr p vd va run block group rotate seed fmt)).toNat = 3288334336 + vd.toNat * 2 ^ 21 + va.toNat * 2 ^ 16 + run.toNat * 2 ^ 14 + block.toNat * 2 ^ 12 + group.toNat * 2 ^ 11 + seed.toNat * 2 ^ 7 + rotate.toNat * 2 ^ 6 + fmt.toNat := by
    rw [e]
    simp only [packH, append_toNat, bit_toNat, BitVec.toNat_ofNat, BitVec.ofNat_eq_ofNat, BitVec.extractLsb'_toNat,
      Nat.shiftRight_eq_div_pow, Bool.toNat_false, Bool.toNat_true] <;> omega
  clear e
  generalize encode (.vnr p vd va run block group rotate seed fmt) = w at W ⊢
  have h1 : fMajor w = 49 := field_toNat w 26 6 _ (by rw [W] <;> omega)
  have h2 : fD w = vd := field_eq w 21 vd (by rw [W] <;> omega)
  have h3 : fA w = va := field_eq w 16 va (by rw [W] <;> omega)
  have h4 : w.extractLsb' 14 2 = run := field_eq w 14 run (by rw [W] <;> omega)
  have h5 : w.extractLsb' 12 2 = block := field_eq w 12 block (by rw [W] <;> omega)
  have h6 : w.getLsbD 11 = group := bit_eq w 11 group (by rw [W] <;> omega)
  have h7 : w.getLsbD 6 = rotate := bit_eq w 6 rotate (by rw [W] <;> omega)
  have h8 : fPred w = seed := field_eq w 7 seed (by rw [W] <;> omega)
  have h9 : fFmt w = fmt := field_eq w 0 fmt (by rw [W] <;> omega)
  have U : ∀ i, unused w 0x00000020 i = .ok i := fun i => unused_ok w _ i [(5, 1)] (by decide)
    (by simp only [List.forall_mem_cons, W] <;> simp <;> omega)
  simp only [decodeV, h1, h2, h3, h4, h5, h6, h7, h8, h9, U]

theorem decode_vwd (p : Pos) (vd : BitVec 5) (va : BitVec 5) (run : BitVec 2) (block : BitVec 2) (rotate : Bool) (seed : BitVec 4) (fmt : BitVec 5) :
    decodeV p (encode (.vwd p vd va run block rotate seed fmt)) = .ok (.vwd p vd va run block rotate seed fmt) := by
  have b_rotate := Bool.toNat_le rotate
  have e : encode (.vwd p vd va run block rotate seed fmt) = packH 0x32 vd va run block false seed rotate fmt := rfl
  have W : (encode (.vwd p vd va run block rotate seed fmt)).toNat = 3355443200 + vd.toNat * 2 ^ 21 + va.toNat * 2 ^ 16 + run.toNat * 2 ^ 14 + block.toNat * 2 ^ 12 + seed.toNat * 2 ^ 7 + rotate.toNat * 2 ^ 6 + fmt.toNat := by
    rw [e]
    simp only [packH, append_toNat, bit_toNat, BitVec.toNat_ofNat, BitVec.ofNat_eq_ofNat, BitVec.extractLsb'_toNat,
      Nat.shiftRight_eq_div_pow, Bool.toNat_false, Bool.toNat_true] <;> omega
  clear e
  generalize encode (.vwd p vd va run block rotate seed fmt) = w at W ⊢
  have h1 : fMajor w = 50 := field_toNat w 26 6 _ (by rw [W] <;> omega)
  have h2 : fD w = vd := field_eq w 21 vd (by rw [W] <;> omega)
  have h3 : fA w = va := field_eq w 16 va (by rw [W] <;> omega)
  have h4 : w.extractLsb' 14 2 = run := field_eq w 14 run (by rw [W] <;> omega)
  have h5 : w.extractLsb' 12 2 = block := field_eq w 12 block (by rw [W] <;> omega)
  have h6 : w.getLsbD 6 = rotate := bit_eq w 6 rotate (by rw [W] <;> omega)
  have h7 : fPred w = seed := field_eq w 7 seed (by rw [W] <;> omega)
  have h8 : fFmt w = fmt := field_eq w 0 fmt (by rw [W] <;> omega)
  have U : ∀ i, unused w 0x00000820 i = .ok i := fun i => unused_ok w _ i [(5, 1), (11, 1)] (by decide)
    (by simp only [List.forall_mem_cons, W] <;> simp <;> omega)
  simp only [decodeV, h1, h2, h3, h4, h5, h6, h7, h8, U]

theorem decode_vrot (p : Pos) (vd : BitVec 5) (va : BitVec 5) (block : BitVec 2) (seed : BitVec 4) (fmt : BitVec 5) :
    decodeV p (encode (.vrot p vd va block seed fmt)) = .ok (.vrot p vd va block seed fmt) := by
  have e : encode (.vrot p vd va block seed fmt) = packH 0x33 vd va 0 block false seed true fmt := rfl
  have W : (encode (.vrot p vd va block seed fmt)).toNat = 3422552128 + vd.toNat * 2 ^ 21 + va.toNat * 2 ^ 16 + block.toNat * 2 ^ 12 + seed.toNat * 2 ^ 7 + fmt.toNat := by
    rw [e]
    simp only [packH, append_toNat, bit_toNat, BitVec.toNat_ofNat, BitVec.ofNat_eq_ofNat, BitVec.extractLsb'_toNat,
      Nat.shiftRight_eq_div_pow, Bool.toNat_false, Bool.toNat_true] <;> omega
  clear e
  generalize encode (.vrot p vd va block seed fmt) = w at W ⊢
  have h1 : fMajor w = 51 := field_toNat w 26 6 _ (by rw [W] <;> omega)
  have h2 : fD w = vd := field_eq w 21 vd (by rw [W] <;> omega)
  have h3 : fA w = va := field_eq w 16 va (by rw [W] <;> omega)
  have h4 : w.extractLsb' 12 2 = block := field_eq w 12 block (by rw [W] <;> omega)
  have h5 : fPred w = seed := field_eq w 7 seed (by rw [W] <;> omega)
  have h6 : fFmt w = fmt := field_eq w 0 fmt (by rw [W] <;> omega)
  have hx : w.getLsbD 6 = true := bit_eq w 6 true (by rw [W] <;> simp <;> omega)
  have U : ∀ i, unused w 0x0000C820 i = .ok i := fun i => unused_ok w _ i [(5, 1), (11, 1), (14, 2)] (by decide)
    (by simp only [List.forall_mem_cons, W] <;> simp <;> omega)
  simp only [decodeV, h1, h2, h3, h4, h5, h6, hx, U]
  simp

theorem decode_vtag (p : Pos) (vd : BitVec 5) (va : BitVec 5) (rot : BitVec 2) (grp : BitVec 2) (seed : BitVec 4) (fmt : BitVec 5) :
    decodeV p (encode (.vtag p vd va rot grp seed fmt)) = .ok (.vtag p vd va rot grp seed fmt) := by
  have e : encode (.vtag p vd va rot grp seed fmt) = packH 0x34 vd va rot grp false seed false fmt := rfl
  have W : (encode (.vtag p vd va rot grp seed fmt)).toNat = 3489660928 + vd.toNat * 2 ^ 21 + va.toNat * 2 ^ 16 + rot.toNat * 2 ^ 14 + grp.toNat * 2 ^ 12 + seed.toNat * 2 ^ 7 + fmt.toNat := by
    rw [e]
    simp only [packH, append_toNat, bit_toNat, BitVec.toNat_ofNat, BitVec.ofNat_eq_ofNat, BitVec.extractLsb'_toNat,
      Nat.shiftRight_eq_div_pow, Bool.toNat_false, Bool.toNat_true] <;> omega
  clear e
  generalize encode (.vtag p vd va rot grp seed fmt) = w at W ⊢
  have h1 : fMajor w = 52 := field_toNat w 26 6 _ (by rw [W] <;> omega)
  have h2 : fD w = vd := field_eq w 21 vd (by rw [W] <;> omega)
  have h3 : fA w = va := field_eq w 16 va (by rw [W] <;> omega)
  have h4 : w.extractLsb' 14 2 = rot := field_eq w 14 rot (by rw [W] <;> omega)
  have h5 : w.extractLsb' 12 2 = grp := field_eq w 12 grp (by rw [W] <;> omega)
  have h6 : fPred w = seed := field_eq w 7 seed (by rw [W] <;> omega)
  have h7 : fFmt w = fmt := field_eq w 0 fmt (by rw [W] <;> omega)
  have U : ∀ i, unused w 0x00000860 i = .ok i := fun i => unused_ok w _ i [(5, 2), (11, 1)] (by decide)
    (by simp only [List.forall_mem_cons, W] <;> simp <;> omega)
  simp only [decodeV, h1, h2, h3, h4, h5, h6, h7, U]

theorem decode_pand (p : Pos) (pd : BitVec 4) (pa : BitVec 4) (pb : BitVec 4) :
    decodeV p (encode (.pand p pd pa pb)) = .ok (.pand p pd pa pb) := by
  have e : encode (.pand p pd pa pb) = packP 0x36 pd pa pb := rfl
  have W : (encode (.pand p pd pa pb)).toNat = 3623878656 + pd.toNat * 2 ^ 21 + pa.toNat * 2 ^ 16 + pb.toNat * 2 ^ 11 := by
    rw [e]
    simp only [packP, append_toNat, bit_toNat, BitVec.toNat_ofNat, BitVec.ofNat_eq_ofNat, BitVec.extractLsb'_toNat,
      Nat.shiftRight_eq_div_pow, Bool.toNat_false, Bool.toNat_true] <;> omega
  clear e
  generalize encode (.pand p pd pa pb) = w at W ⊢
  have h1 : fMajor w = 54 := field_toNat w 26 6 _ (by rw [W] <;> omega)
  have h2 : w.extractLsb' 21 4 = pd := field_eq w 21 pd (by rw [W] <;> omega)
  have h3 : w.extractLsb' 16 4 = pa := field_eq w 16 pa (by rw [W] <;> omega)
  have h4 : w.extractLsb' 11 4 = pb := field_eq w 11 pb (by rw [W] <;> omega)
  have U : ∀ i, unused w 0x021087FF i = .ok i := fun i => unused_ok w _ i [(0, 11), (15, 1), (20, 1), (25, 1)] (by decide)
    (by simp only [List.forall_mem_cons, W] <;> simp <;> omega)
  simp only [decodeV, h1, h2, h3, h4, U]

theorem decode_por (p : Pos) (pd : BitVec 4) (pa : BitVec 4) (pb : BitVec 4) :
    decodeV p (encode (.por p pd pa pb)) = .ok (.por p pd pa pb) := by
  have e : encode (.por p pd pa pb) = packP 0x37 pd pa pb := rfl
  have W : (encode (.por p pd pa pb)).toNat = 3690987520 + pd.toNat * 2 ^ 21 + pa.toNat * 2 ^ 16 + pb.toNat * 2 ^ 11 := by
    rw [e]
    simp only [packP, append_toNat, bit_toNat, BitVec.toNat_ofNat, BitVec.ofNat_eq_ofNat, BitVec.extractLsb'_toNat,
      Nat.shiftRight_eq_div_pow, Bool.toNat_false, Bool.toNat_true] <;> omega
  clear e
  generalize encode (.por p pd pa pb) = w at W ⊢
  have h1 : fMajor w = 55 := field_toNat w 26 6 _ (by rw [W] <;> omega)
  have h2 : w.extractLsb' 21 4 = pd := field_eq w 21 pd (by rw [W] <;> omega)
  have h3 : w.extractLsb' 16 4 = pa := field_eq w 16 pa (by rw [W] <;> omega)
  have h4 : w.extractLsb' 11 4 = pb := field_eq w 11 pb (by rw [W] <;> omega)
  have U : ∀ i, unused w 0x021087FF i = .ok i := fun i => unused_ok w _ i [(0, 11), (15, 1), (20, 1), (25, 1)] (by decide)
    (by simp only [List.forall_mem_cons, W] <;> simp <;> omega)
  simp only [decodeV, h1, h2, h3, h4, U]

theorem decode_pxor (p : Pos) (pd : BitVec 4) (pa : BitVec 4) (pb : BitVec 4) :
    decodeV p (encode (.pxor p pd pa pb)) = .ok (.pxor p pd pa pb) := by
  have e : encode (.pxor p pd pa pb) = packP 0x38 pd pa pb := rfl
  have W : (encode (.pxor p pd pa pb)).toNat = 3758096384 + pd.toNat * 2 ^ 21 + pa.toNat * 2 ^ 16 + pb.toNat * 2 ^ 11 := by
    rw [e]
    simp only [packP, append_toNat, bit_toNat, BitVec.toNat_ofNat, BitVec.ofNat_eq_ofNat, BitVec.extractLsb'_toNat,
      Nat.shiftRight_eq_div_pow, Bool.toNat_false, Bool.toNat_true] <;> omega
  clear e
  generalize encode (.pxor p pd pa pb) = w at W ⊢
  have h1 : fMajor w = 56 := field_toNat w 26 6 _ (by rw [W] <;> omega)
  have h2 : w.extractLsb' 21 4 = pd := field_eq w 21 pd (by rw [W] <;> omega)
  have h3 : w.extractLsb' 16 4 = pa := field_eq w 16 pa (by rw [W] <;> omega)
  have h4 : w.extractLsb' 11 4 = pb := field_eq w 11 pb (by rw [W] <;> omega)
  have U : ∀ i, unused w 0x021087FF i = .ok i := fun i => unused_ok w _ i [(0, 11), (15, 1), (20, 1), (25, 1)] (by decide)
    (by simp only [List.forall_mem_cons, W] <;> simp <;> omega)
  simp only [decodeV, h1, h2, h3, h4, U]

theorem decode_pnot (p : Pos) (pd : BitVec 4) (pa : BitVec 4) :
    decodeV p (encode (.pnot p pd pa)) = .ok (.pnot p pd pa) := by
  have e : encode (.pnot p pd pa) = packP 0x39 pd pa 0 := rfl
  have W : (encode (.pnot p pd pa)).toNat = 3825205248 + pd.toNat * 2 ^ 21 + pa.toNat * 2 ^ 16 := by
    rw [e]
    simp only [packP, append_toNat, bit_toNat, BitVec.toNat_ofNat, BitVec.ofNat_eq_ofNat, BitVec.extractLsb'_toNat,
      Nat.shiftRight_eq_div_pow, Bool.toNat_false, Bool.toNat_true] <;> omega
  clear e
  generalize encode (.pnot p pd pa) = w at W ⊢
  have h1 : fMajor w = 57 := field_toNat w 26 6 _ (by rw [W] <;> omega)
  have h2 : w.extractLsb' 21 4 = pd := field_eq w 21 pd (by rw [W] <;> omega)
  have h3 : w.extractLsb' 16 4 = pa := field_eq w 16 pa (by rw [W] <;> omega)
  have U : ∀ i, unused w 0x0210FFFF i = .ok i := fun i => unused_ok w _ i [(0, 16), (20, 1), (25, 1)] (by decide)
    (by simp only [List.forall_mem_cons, W] <;> simp <;> omega)
  simp only [decodeV, h1, h2, h3, U]

theorem decode_pfirst (p : Pos) (pd : BitVec 4) (pa : BitVec 4) :
    decodeV p (encode (.pfirst p pd pa)) = .ok (.pfirst p pd pa) := by
  have e : encode (.pfirst p pd pa) = packP 0x3A pd pa 0 := rfl
  have W : (encode (.pfirst p pd pa)).toNat = 3892314112 + pd.toNat * 2 ^ 21 + pa.toNat * 2 ^ 16 := by
    rw [e]
    simp only [packP, append_toNat, bit_toNat, BitVec.toNat_ofNat, BitVec.ofNat_eq_ofNat, BitVec.extractLsb'_toNat,
      Nat.shiftRight_eq_div_pow, Bool.toNat_false, Bool.toNat_true] <;> omega
  clear e
  generalize encode (.pfirst p pd pa) = w at W ⊢
  have h1 : fMajor w = 58 := field_toNat w 26 6 _ (by rw [W] <;> omega)
  have h2 : w.extractLsb' 21 4 = pd := field_eq w 21 pd (by rw [W] <;> omega)
  have h3 : w.extractLsb' 16 4 = pa := field_eq w 16 pa (by rw [W] <;> omega)
  have U : ∀ i, unused w 0x0210FFFF i = .ok i := fun i => unused_ok w _ i [(0, 16), (20, 1), (25, 1)] (by decide)
    (by simp only [List.forall_mem_cons, W] <;> simp <;> omega)
  simp only [decodeV, h1, h2, h3, U]

theorem decode_pset (p : Pos) (pd : BitVec 4) (imm : BitVec 12) :
    decodeV p (encode (.pset p pd imm)) = .ok (.pset p pd imm) := by
  have e : encode (.pset p pd imm) = packVI 0x3B ((0 : BitVec 1) ++ pd) 0 0 imm := rfl
  have W : (encode (.pset p pd imm)).toNat = 3959422976 + pd.toNat * 2 ^ 21 + (imm.toNat / 2 ^ 7) * 2 ^ 11 + (imm.toNat % 2 ^ 7) := by
    rw [e]
    simp only [packVI, append_toNat, bit_toNat, BitVec.toNat_ofNat, BitVec.ofNat_eq_ofNat, BitVec.extractLsb'_toNat,
      Nat.shiftRight_eq_div_pow, Bool.toNat_false, Bool.toNat_true] <;> omega
  clear e
  generalize encode (.pset p pd imm) = w at W ⊢
  obtain ⟨u, hu⟩ : ∃ u, imm.toNat / 2 ^ 7 = u := ⟨_, rfl⟩
  obtain ⟨v, hv⟩ : ∃ v, imm.toNat % 2 ^ 7 = v := ⟨_, rfl⟩
  rw [hu, hv] at W
  have i1 : u < 32 := by omega
  have i2 : v < 128 := by omega
  have hi : w.extractLsb' 11 5 ++ w.extractLsb' 0 7 = imm :=
    fields_eq w imm (by rw [W, hu] <;> omega) (by rw [W, hv] <;> omega)
  clear hu hv
  have h2 : fMajor w = 59 := field_toNat w 26 6 _ (by rw [W] <;> omega)
  have h3 : w.extractLsb' 21 4 = pd := field_eq w 21 pd (by rw [W] <;> omega)
  have U : ∀ i, unused w 0x021F0780 i = .ok i := fun i => unused_ok w _ i [(7, 4), (16, 5), (25, 1)] (by decide)
    (by simp only [List.forall_mem_cons, W] <;> simp <;> omega)
  simp only [decodeV, hi, h2, h3, U]

theorem decode_mset (p : Pos) (fa : BitVec 5) (fb : BitVec 5) (grp : BitVec 2) (zp : Bool) (reg : BitVec 5) :
    decodeM p (encode (.mset p fa fb grp zp reg)) = .ok (.mset p fa fb grp zp reg) := by
  have b_zp := Bool.toNat_le zp
  have e : encode (.mset p fa fb grp zp reg) = (0x26 : BitVec 6) ++ fa ++ fb ++ grp ++ BitVec.ofBool zp ++ reg ++ (0 : BitVec 8) := rfl
  have W : (encode (.mset p fa fb grp zp reg)).toNat = 2550136832 + fa.toNat * 2 ^ 21 + fb.toNat * 2 ^ 16 + grp.toNat * 2 ^ 14 + zp.toNat * 2 ^ 13 + reg.toNat * 2 ^ 8 := by
    rw [e]
    simp only [append_toNat, bit_toNat, BitVec.toNat_ofNat, BitVec.ofNat_eq_ofNat, BitVec.extractLsb'_toNat,
      Nat.shiftRight_eq_div_pow, Bool.toNat_false, Bool.toNat_true] <;> omega
  clear e
  generalize encode (.mset p fa fb grp zp reg) = w at W ⊢
  have h1 : fMajor w = 38 := field_toNat w 26 6 _ (by rw [W] <;> omega)
  have h2 : fD w = fa := field_eq w 21 fa (by rw [W] <;> omega)
  have h3 : fA w = fb := field_eq w 16 fb (by rw [W] <;> omega)
  have h4 : w.extractLsb' 14 2 = grp := field_eq w 14 grp (by rw [W] <;> omega)
  have h5 : w.getLsbD 13 = zp := bit_eq w 13 zp (by rw [W] <;> omega)
  have h6 : w.extractLsb' 8 5 = reg := field_eq w 8 reg (by rw [W] <;> omega)
  have U : ∀ i, unused w 0x000000FF i = .ok i := fun i => unused_ok w _ i [(0, 8)] (by decide)
    (by simp only [List.forall_mem_cons, W] <;> simp <;> omega)
  simp only [decodeM, h1, h2, h3, h4, h5, h6, U]

theorem decode_mload (p : Pos) (latch : BitVec 2) (desc : Bool) (meta_ : Bool) (row : BitVec 8) (half : Bool) (reg : BitVec 5) (fmt : BitVec 5) :
    decodeM p (encode (.mload p latch desc meta_ row half reg fmt)) = .ok (.mload p latch desc meta_ row half reg fmt) := by
  have b_desc := Bool.toNat_le desc
  have b_meta_ := Bool.toNat_le meta_
  have b_half := Bool.toNat_le half
  have e : encode (.mload p latch desc meta_ row half reg fmt) = (0x21 : BitVec 6) ++ latch ++ BitVec.ofBool desc ++ BitVec.ofBool meta_ ++ row ++ BitVec.ofBool half ++ reg ++ (0 : BitVec 3) ++ fmt := rfl
  have W : (encode (.mload p latch desc meta_ row half reg fmt)).toNat = 2214592512 + latch.toNat * 2 ^ 24 + desc.toNat * 2 ^ 23 + meta_.toNat * 2 ^ 22 + row.toNat * 2 ^ 14 + half.toNat * 2 ^ 13 + reg.toNat * 2 ^ 8 + fmt.toNat := by
    rw [e]
    simp only [append_toNat, bit_toNat, BitVec.toNat_ofNat, BitVec.ofNat_eq_ofNat, BitVec.extractLsb'_toNat,
      Nat.shiftRight_eq_div_pow, Bool.toNat_false, Bool.toNat_true] <;> omega
  clear e
  generalize encode (.mload p latch desc meta_ row half reg fmt) = w at W ⊢
  have h1 : fMajor w = 33 := field_toNat w 26 6 _ (by rw [W] <;> omega)
  have h2 : w.extractLsb' 24 2 = latch := field_eq w 24 latch (by rw [W] <;> omega)
  have h3 : w.getLsbD 23 = desc := bit_eq w 23 desc (by rw [W] <;> omega)
  have h4 : w.getLsbD 22 = meta_ := bit_eq w 22 meta_ (by rw [W] <;> omega)
  have h5 : w.extractLsb' 14 8 = row := field_eq w 14 row (by rw [W] <;> omega)
  have h6 : w.getLsbD 13 = half := bit_eq w 13 half (by rw [W] <;> omega)
  have h7 : w.extractLsb' 8 5 = reg := field_eq w 8 reg (by rw [W] <;> omega)
  have h8 : fFmt w = fmt := field_eq w 0 fmt (by rw [W] <;> omega)
  have U : ∀ i, unused w 0x000000E0 i = .ok i := fun i => unused_ok w _ i [(5, 3)] (by decide)
    (by simp only [List.forall_mem_cons, W] <;> simp <;> omega)
  simp only [decodeM, h1, h2, h3, h4, h5, h6, h7, h8, U]

theorem decode_mfeed (p : Pos) (latch : BitVec 2) (tile : BitVec 3) (row : BitVec 7) (ovw : Bool) (desc : Bool) (half : Bool) (reg : BitVec 5) :
    decodeM p (encode (.mfeed p latch tile row ovw desc half reg)) = .ok (.mfeed p latch tile row ovw desc half reg) := by
  have b_ovw := Bool.toNat_le ovw
  have b_desc := Bool.toNat_le desc
  have b_half := Bool.toNat_le half
  have e : encode (.mfeed p latch tile row ovw desc half reg) = (0x22 : BitVec 6) ++ latch ++ tile ++ row ++ BitVec.ofBool ovw ++ BitVec.ofBool desc ++ BitVec.ofBool half ++ reg ++ (0 : BitVec 6) := rfl
  have W : (encode (.mfeed p latch tile row ovw desc half reg)).toNat = 2281701376 + latch.toNat * 2 ^ 24 + tile.toNat * 2 ^ 21 + row.toNat * 2 ^ 14 + ovw.toNat * 2 ^ 13 + desc.toNat * 2 ^ 12 + half.toNat * 2 ^ 11 + reg.toNat * 2 ^ 6 := by
    rw [e]
    simp only [append_toNat, bit_toNat, BitVec.toNat_ofNat, BitVec.ofNat_eq_ofNat, BitVec.extractLsb'_toNat,
      Nat.shiftRight_eq_div_pow, Bool.toNat_false, Bool.toNat_true] <;> omega
  clear e
  generalize encode (.mfeed p latch tile row ovw desc half reg) = w at W ⊢
  have h1 : fMajor w = 34 := field_toNat w 26 6 _ (by rw [W] <;> omega)
  have h2 : w.extractLsb' 24 2 = latch := field_eq w 24 latch (by rw [W] <;> omega)
  have h3 : w.extractLsb' 21 3 = tile := field_eq w 21 tile (by rw [W] <;> omega)
  have h4 : w.extractLsb' 14 7 = row := field_eq w 14 row (by rw [W] <;> omega)
  have h5 : w.getLsbD 13 = ovw := bit_eq w 13 ovw (by rw [W] <;> omega)
  have h6 : w.getLsbD 12 = desc := bit_eq w 12 desc (by rw [W] <;> omega)
  have h7 : w.getLsbD 11 = half := bit_eq w 11 half (by rw [W] <;> omega)
  have h8 : w.extractLsb' 6 5 = reg := field_eq w 6 reg (by rw [W] <;> omega)
  have U : ∀ i, unused w 0x0000003F i = .ok i := fun i => unused_ok w _ i [(0, 6)] (by decide)
    (by simp only [List.forall_mem_cons, W] <;> simp <;> omega)
  simp only [decodeM, h1, h2, h3, h4, h5, h6, h7, h8, U]

theorem decode_mdrain (p : Pos) (vd : BitVec 5) (tile : BitVec 3) (row : BitVec 7) (seg : BitVec 2) (zero : Bool) (rm : BitVec 2) (fmt : BitVec 5) :
    decodeM p (encode (.mdrain p vd tile row seg zero rm fmt)) = .ok (.mdrain p vd tile row seg zero rm fmt) := by
  have b_zero := Bool.toNat_le zero
  have e : encode (.mdrain p vd tile row seg zero rm fmt) = (0x23 : BitVec 6) ++ vd ++ tile ++ row ++ seg ++ BitVec.ofBool zero ++ rm ++ (0 : BitVec 1) ++ fmt := rfl
  have W : (encode (.mdrain p vd tile row seg zero rm fmt)).toNat = 2348810240 + vd.toNat * 2 ^ 21 + tile.toNat * 2 ^ 18 + row.toNat * 2 ^ 11 + seg.toNat * 2 ^ 9 + zero.toNat * 2 ^ 8 + rm.toNat * 2 ^ 6 + fmt.toNat := by
    rw [e]
    simp only [append_toNat, bit_toNat, BitVec.toNat_ofNat, BitVec.ofNat_eq_ofNat, BitVec.extractLsb'_toNat,
      Nat.shiftRight_eq_div_pow, Bool.toNat_false, Bool.toNat_true] <;> omega
  clear e
  generalize encode (.mdrain p vd tile row seg zero rm fmt) = w at W ⊢
  have h1 : fMajor w = 35 := field_toNat w 26 6 _ (by rw [W] <;> omega)
  have h2 : fD w = vd := field_eq w 21 vd (by rw [W] <;> omega)
  have h3 : w.extractLsb' 18 3 = tile := field_eq w 18 tile (by rw [W] <;> omega)
  have h4 : w.extractLsb' 11 7 = row := field_eq w 11 row (by rw [W] <;> omega)
  have h5 : w.extractLsb' 9 2 = seg := field_eq w 9 seg (by rw [W] <;> omega)
  have h6 : w.getLsbD 8 = zero := bit_eq w 8 zero (by rw [W] <;> omega)
  have h7 : w.extractLsb' 6 2 = rm := field_eq w 6 rm (by rw [W] <;> omega)
  have h8 : fFmt w = fmt := field_eq w 0 fmt (by rw [W] <;> omega)
  have U : ∀ i, unused w 0x00000020 i = .ok i := fun i => unused_ok w _ i [(5, 1)] (by decide)
    (by simp only [List.forall_mem_cons, W] <;> simp <;> omega)
  simp only [decodeM, h1, h2, h3, h4, h5, h6, h7, h8, U]

theorem decode_mfill (p : Pos) (va : BitVec 5) (tile : BitVec 3) (row : BitVec 7) (seg : BitVec 2) (fmt : BitVec 5) :
    decodeM p (encode (.mfill p va tile row seg fmt)) = .ok (.mfill p va tile row seg fmt) := by
  have e : encode (.mfill p va tile row seg fmt) = (0x24 : BitVec 6) ++ va ++ tile ++ row ++ seg ++ (0 : BitVec 4) ++ fmt := rfl
  have W : (encode (.mfill p va tile row seg fmt)).toNat = 2415919104 + va.toNat * 2 ^ 21 + tile.toNat * 2 ^ 18 + row.toNat * 2 ^ 11 + seg.toNat * 2 ^ 9 + fmt.toNat := by
    rw [e]
    simp only [append_toNat, bit_toNat, BitVec.toNat_ofNat, BitVec.ofNat_eq_ofNat, BitVec.extractLsb'_toNat,
      Nat.shiftRight_eq_div_pow, Bool.toNat_false, Bool.toNat_true] <;> omega
  clear e
  generalize encode (.mfill p va tile row seg fmt) = w at W ⊢
  have h1 : fMajor w = 36 := field_toNat w 26 6 _ (by rw [W] <;> omega)
  have h2 : fD w = va := field_eq w 21 va (by rw [W] <;> omega)
  have h3 : w.extractLsb' 18 3 = tile := field_eq w 18 tile (by rw [W] <;> omega)
  have h4 : w.extractLsb' 11 7 = row := field_eq w 11 row (by rw [W] <;> omega)
  have h5 : w.extractLsb' 9 2 = seg := field_eq w 9 seg (by rw [W] <;> omega)
  have h6 : fFmt w = fmt := field_eq w 0 fmt (by rw [W] <;> omega)
  have U : ∀ i, unused w 0x000001E0 i = .ok i := fun i => unused_ok w _ i [(5, 4)] (by decide)
    (by simp only [List.forall_mem_cons, W] <;> simp <;> omega)
  simp only [decodeM, h1, h2, h3, h4, h5, h6, U]

theorem decode_mzero (p : Pos) (tile : BitVec 3) (row : BitVec 7) (cnt : BitVec 8) (clear : Bool) :
    decodeM p (encode (.mzero p tile row cnt clear)) = .ok (.mzero p tile row cnt clear) := by
  have b_clear := Bool.toNat_le clear
  have e : encode (.mzero p tile row cnt clear) = (0x25 : BitVec 6) ++ tile ++ row ++ cnt ++ BitVec.ofBool clear ++ (0 : BitVec 7) := rfl
  have W : (encode (.mzero p tile row cnt clear)).toNat = 2483027968 + tile.toNat * 2 ^ 23 + row.toNat * 2 ^ 16 + cnt.toNat * 2 ^ 8 + clear.toNat * 2 ^ 7 := by
    rw [e]
    simp only [append_toNat, bit_toNat, BitVec.toNat_ofNat, BitVec.ofNat_eq_ofNat, BitVec.extractLsb'_toNat,
      Nat.shiftRight_eq_div_pow, Bool.toNat_false, Bool.toNat_true] <;> omega
  clear e
  generalize encode (.mzero p tile row cnt clear) = w at W ⊢
  have h1 : fMajor w = 37 := field_toNat w 26 6 _ (by rw [W] <;> omega)
  have h2 : w.extractLsb' 23 3 = tile := field_eq w 23 tile (by rw [W] <;> omega)
  have h3 : w.extractLsb' 16 7 = row := field_eq w 16 row (by rw [W] <;> omega)
  have h4 : w.extractLsb' 8 8 = cnt := field_eq w 8 cnt (by rw [W] <;> omega)
  have h5 : w.getLsbD 7 = clear := bit_eq w 7 clear (by rw [W] <;> omega)
  have U : ∀ i, unused w 0x0000007F i = .ok i := fun i => unused_ok w _ i [(0, 7)] (by decide)
    (by simp only [List.forall_mem_cons, W] <;> simp <;> omega)
  simp only [decodeM, h1, h2, h3, h4, h5, U]

end Sys2Proof.Laws
end

