-- ==== Sys2Proof/Laws/Memory.lean ====
section
/-! SUPPORT. Byte memories: read after write, and that every write keeps the canonical form; the homes and the scratchpads
change their memory by `memPutN` alone. -/

namespace Sys2Proof.Machine

/-! ## One byte -/

/-- The lowest address of a memory in canonical form is below every bound that is below all of them. -/
def Below (a : Nat) : List Host.Cell → Prop
  | [] => True
  | (k, _) :: _ => a < k

/-- The canonical form, head and tail. -/
theorem wf_cons {k : Nat} {c : Byte} {t : List Host.Cell} :
    Memory.wf ((k, c) :: t) = true ↔ c ≠ 0 ∧ Below k t ∧ Memory.wf t = true := by
  cases t with
  | nil => simp [Memory.wf, Below]
  | cons e t => obtain ⟨j, d⟩ := e; simp [Memory.wf, Below, and_assoc]

/-- Everything in a canonical memory lies above what its head lies above. -/
theorem Below.trans {a k : Nat} {c : Byte} {t : List Host.Cell} (h : Below k t) (hk : a < k) : Below a ((k, c) :: t) ∧ Below a t := by
  refine ⟨hk, ?_⟩
  cases t with
  | nil => trivial
  | cons e t => obtain ⟨j, d⟩ := e; exact Nat.lt_trans hk h

/-- Writing above a bound keeps the memory above it. -/
theorem below_memPut {m : List Host.Cell} {n a : Nat} {b : Byte} (hm : Below n m) (ht : ∀ k c t, m = (k, c) :: t → Below k t)
    (hn : n < a) : Below n (memPut m a b) := by
  cases m with
  | nil => unfold memPut; split <;> simp [Below, hn]
  | cons e t =>
    obtain ⟨k, c⟩ := e
    have hk : n < k := hm
    unfold memPut
    split
    · split
      · exact hk
      · exact hn
    · split
      · split
        · exact (Below.trans (c := c) (ht k c t rfl) hk).2
        · exact hn
      · exact hk

/-- Writing a byte keeps the canonical form. -/
theorem wf_memPut {m : List Host.Cell} (h : Memory.wf m = true) (a : Nat) (b : Byte) : Memory.wf (memPut m a b) = true := by
  induction m with
  | nil =>
    unfold memPut
    split
    · rfl
    · rename_i hb; simpa [Memory.wf] using hb
  | cons e t ih =>
    obtain ⟨k, c⟩ := e
    obtain ⟨hc, hb, ht⟩ := wf_cons.1 h
    unfold memPut
    split
    · split
      · exact h
      · rename_i hlt hb0
        exact wf_cons.2 ⟨hb0, hlt, h⟩
    · split
      · split
        · exact ht
        · rename_i hk hb0
          subst hk
          exact wf_cons.2 ⟨hb0, hb, ht⟩
      · rename_i hlt hne
        refine wf_cons.2 ⟨hc, below_memPut hb ?_ (by omega), ih ht⟩
        intro k' c' t' he
        subst he
        exact (wf_cons.1 ht).2.1

/-- An address below everything listed reads as an unlisted one. -/
theorem memGet_below {m : List Host.Cell} (h : Memory.wf m = true) {a : Nat} (ha : Below a m) : memGet m a = 0 := by
  induction m with
  | nil => rfl
  | cons e t ih =>
    obtain ⟨k, c⟩ := e
    obtain ⟨_, hb, ht⟩ := wf_cons.1 h
    have hk : a < k := ha
    unfold memGet
    rw [if_neg (by omega)]
    exact ih ht (Below.trans (c := c) hb hk).2

/-- The byte written is read back. -/
theorem memGet_memPut_same {m : List Host.Cell} (h : Memory.wf m = true) (a : Nat) (b : Byte) :
    memGet (memPut m a b) a = b := by
  induction m with
  | nil =>
    unfold memPut
    split
    · rename_i hb; subst hb; rfl
    · simp [memGet]
  | cons e t ih =>
    obtain ⟨k, c⟩ := e
    obtain ⟨hc, hb, ht⟩ := wf_cons.1 h
    unfold memPut
    split
    · rename_i hlt
      split
      · rename_i hb0; subst hb0; exact memGet_below h hlt
      · simp [memGet]
    · split
      · rename_i hk
        subst hk
        split
        · rename_i hb0; subst hb0; exact memGet_below ht hb
        · simp [memGet]
      · rename_i hlt hne
        unfold memGet
        rw [if_neg (by omega)]
        exact ih ht

/-- Every other byte is left alone. -/
theorem memGet_memPut_other {m : List Host.Cell} {a x : Nat} {b : Byte} (hx : x ≠ a) :
    memGet (memPut m a b) x = memGet m x := by
  induction m with
  | nil =>
    unfold memPut
    split
    · rfl
    · simp [memGet, Ne.symm hx]
  | cons e t ih =>
    obtain ⟨k, c⟩ := e
    unfold memPut
    split
    · split
      · rfl
      · simp [memGet, Ne.symm hx]
    · split
      · rename_i hk
        subst hk
        split <;> simp [memGet, Ne.symm hx]
      · unfold memGet
        split
        · rfl
        · exact ih

/-! ## Bytes in a row -/

/-- Writing bytes keeps the canonical form. -/
theorem wf_memPutN {bs : List Byte} : ∀ {m : List Host.Cell}, Memory.wf m = true → ∀ a, Memory.wf (memPutN m a bs) = true := by
  induction bs with
  | nil => intro m h a; exact h
  | cons b t ih => intro m h a; exact ih (wf_memPut h a b) (a + 1)

/-- Bytes outside those written are left alone. -/
theorem memGet_memPutN_other {bs : List Byte} : ∀ {m : List Host.Cell} {a x : Nat}, (x < a ∨ a + bs.length ≤ x) →
    memGet (memPutN m a bs) x = memGet m x := by
  induction bs with
  | nil => intro m a x _; rfl
  | cons b t ih =>
    intro m a x hx
    simp only [List.length_cons] at hx
    unfold memPutN
    rw [ih (by omega), memGet_memPut_other (by omega)]

/-- The bytes written are read back. -/
theorem memGet_memPutN_same {bs : List Byte} : ∀ {m : List Host.Cell} {a : Nat}, Memory.wf m = true →
    ∀ i (hi : i < bs.length), memGet (memPutN m a bs) (a + i) = bs[i] := by
  induction bs with
  | nil => intro m a _ i hi; simp at hi
  | cons b t ih =>
    intro m a h i hi
    unfold memPutN
    cases i with
    | zero =>
      show memGet (memPutN (memPut m a b) (a + 1) t) a = b
      rw [memGet_memPutN_other (by omega), memGet_memPut_same h]
    | succ j =>
      have := ih (m := memPut m a b) (a := a + 1) (wf_memPut h a b) j (by simpa using hi)
      rw [show a + (j + 1) = a + 1 + j by omega, this]
      rfl

/-- Reading n bytes gives n bytes. -/
@[simp] theorem memGetN_length (m : List Host.Cell) (a n : Nat) : (memGetN m a n).length = n := by
  induction n generalizing a with
  | zero => rfl
  | succ n ih => simp [memGetN, ih]

/-- Byte i of n bytes read. -/
theorem memGetN_get (m : List Host.Cell) (a n i : Nat) (h : i < (memGetN m a n).length) :
    (memGetN m a n)[i] = memGet m (a + i) := by
  induction n generalizing a i with
  | zero => simp at h
  | succ n ih =>
    cases i with
    | zero => rfl
    | succ j =>
      have hj : j < (memGetN m (a + 1) n).length := by simpa [memGetN] using h
      simp only [memGetN, List.getElem_cons_succ]
      rw [ih (a + 1) j hj, show a + 1 + j = a + (j + 1) by omega]

/-- What was written is read back whole. -/
theorem memGetN_memPutN {bs : List Byte} {m : List Host.Cell} {a : Nat} (h : Memory.wf m = true) :
    memGetN (memPutN m a bs) a bs.length = bs := by
  apply List.ext_getElem
  · simp
  · intro i h1 h2
    rw [memGetN_get, memGet_memPutN_same h i h2]

end Sys2Proof.Machine
end

