-- ==== Sys2Proof/Laws/Homes.lean ====
section
/-! SUPPORT. What line presence, monitors, reports and the notify area leave alone: no byte memory changes but by a write's own
bytes (spec/12 R226 to R229). -/

namespace Sys2Proof.Machine

/-- Two states hold the same byte memories. -/
def SameMem (s t : State) : Prop := t.mem = s.mem ∧ t.scr = s.scr ∧ t.loc = s.loc ∧ t.imem = s.imem

theorem SameMem.refl (s : State) : SameMem s s := ⟨rfl, rfl, rfl, rfl⟩

theorem SameMem.trans {s t u : State} (h : SameMem s t) (g : SameMem t u) : SameMem s u :=
  ⟨g.1.trans h.1, g.2.1.trans h.2.1, g.2.2.1.trans h.2.2.1, g.2.2.2.trans h.2.2.2⟩

/-- The canonical form is a matter of the byte memories alone. -/
theorem SameMem.wf {s t : State} (h : SameMem s t) (hs : s.MemWf) : t.MemWf := by
  obtain ⟨h1, h2, h3, h4⟩ := h
  unfold State.MemWf
  rw [h1, h2, h3, h4]
  exact hs

/-- A fold of steps that keep the byte memories keeps them. -/
theorem SameMem.foldl {α : Type} {f : State → α → State} (h : ∀ s x, SameMem s (f s x)) (l : List α) (s : State) :
    SameMem s (l.foldl f s) := by
  induction l generalizing s with
  | nil => exact SameMem.refl s
  | cons x t ih => exact (h s x).trans (ih (f s x))

theorem account_same (s : State) (g i n : Nat) : SameMem s (s.account g i n) := ⟨rfl, rfl, rfl, rfl⟩
theorem report_same (s : State) (k : Nat) (w : Word) : SameMem s (s.report k w) := ⟨rfl, rfl, rfl, rfl⟩
theorem setFilter_same (s : State) (f : SumpFilter) : SameMem s (s.setFilter f) := ⟨rfl, rfl, rfl, rfl⟩
theorem wakeSector_same (s : State) (k : Nat) : SameMem s (s.wakeSector k) := ⟨rfl, rfl, rfl, rfl⟩
theorem withL2_same (s : State) (l : List HomeLine) : SameMem s { s with l2 := l } := ⟨rfl, rfl, rfl, rfl⟩

/-- A choice between two states that hold the same byte memories. -/
theorem SameMem.ite {s t u : State} {c : Prop} [Decidable c] (ht : SameMem s t) (hu : SameMem s u) :
    SameMem s (if c then t else u) := by split <;> assumption

theorem logError_same (s : State) (kind pa who : Nat) : SameMem s (s.logError kind pa who) := by
  unfold State.logError
  simp only []
  split
  · split <;> exact ⟨rfl, rfl, rfl, rfl⟩
  · exact ⟨rfl, rfl, rfl, rfl⟩

/-- A choice that keeps the byte memories whichever way it goes. -/
theorem SameMem.cond {s t u : State} {b : Bool} (ht : SameMem s t) (hu : SameMem s u) :
    SameMem s (if b = true then t else u) := SameMem.ite ht hu

theorem withSump_same (s : State) (l : List HomeLine) : SameMem s { s with sump := l } := ⟨rfl, rfl, rfl, rfl⟩
theorem putHbm_same (s : State) (k : Nat) (b : Bool) : SameMem s (s.putHbm k b) := ⟨rfl, rfl, rfl, rfl⟩
theorem putBelow_same (s : State) (k : Nat) (b : Bool) : SameMem s (s.putBelow k b) :=
  SameMem.cond (withSump_same s _) (putHbm_same s k b)
theorem putBad_same (s : State) (k : Nat) (b : Bool) : SameMem s (s.putBad k b) :=
  SameMem.cond (withL2_same s _) (putBelow_same s k b)
theorem addPoison_same (s : State) (l : List Nat) : SameMem s (s.addPoison l) :=
  SameMem.foldl (fun _ _ => putBad_same ..) _ _

theorem found_same (s : State) (p : UpsetAt) (k : Nat) : SameMem s (s.found p k) := by
  unfold State.found
  split
  · exact SameMem.refl s
  · rename_i u _
    refine SameMem.trans (t := { s with upsets := s.upsets.erase u }) ⟨rfl, rfl, rfl, rfl⟩ ?_
    cases p
    · exact SameMem.cond ((logError_same ..).trans (putHbm_same ..)) (logError_same ..)
    · exact SameMem.cond ((logError_same ..).trans (withSump_same ..)) (logError_same ..)
    · exact logError_same ..
    · exact SameMem.cond ⟨rfl, rfl, rfl, rfl⟩ (SameMem.refl _)

theorem foundBelow_same (s : State) (k : Nat) : SameMem s (s.foundBelow k) := found_same ..
theorem toHbm_same (s : State) (v : HomeLine) (g : Nat) : SameMem s (s.toHbm v g) :=
  (SameMem.foldl (fun _ _ => putHbm_same ..) _ _).trans (account_same ..)

theorem sumpLookup_same (s : State) (line : Nat) (sectors fill : BitVec 4) (write str : Bool) (g : Nat) :
    SameMem s (s.sumpLookup line sectors fill write str g) := by
  unfold State.sumpLookup
  have h : SameMem s ((maskSectors line sectors).foldl State.foundBelow s) :=
    SameMem.foldl (fun _ _ => foundBelow_same ..) _ _
  generalize (maskSectors line sectors).foldl State.foundBelow s = t at h
  simp only []
  refine h.trans ?_
  split
  · exact ⟨rfl, rfl, rfl, rfl⟩
  · refine SameMem.cond ⟨rfl, rfl, rfl, rfl⟩ (SameMem.cond ?_ ⟨rfl, rfl, rfl, rfl⟩)
    split
    · exact SameMem.trans (t := { t.setFilter _ with sump := _ }) ⟨rfl, rfl, rfl, rfl⟩
        ((toHbm_same ..).trans (account_same ..))
    · exact ⟨rfl, rfl, rfl, rfl⟩

theorem l2WriteBack_same (s : State) (v : HomeLine) (m : BitVec 4) (g : Nat) : SameMem s (s.l2WriteBack v m g) :=
  SameMem.ite (SameMem.refl s) ((sumpLookup_same ..).trans (SameMem.foldl (fun _ _ => putBelow_same ..) _ _))

theorem l2Evicted_same (s : State) (v : HomeLine) (g : Nat) : SameMem s (s.l2Evicted v g) :=
  (l2WriteBack_same ..).trans (SameMem.foldl (fun _ _ => wakeSector_same ..) _ _)

/-- A fill that is not needed, or a sump lookup. -/
theorem fill_same (s : State) (line : Nat) (m sectors fill : BitVec 4) (write str : Bool) (g : Nat) :
    SameMem s (if m = 0 then s else s.sumpLookup line sectors fill write str g) :=
  SameMem.ite (SameMem.refl s) (sumpLookup_same ..)

theorem l2Access_same (s : State) (line : Nat) (sectors whole : BitVec 4) (write str : Bool) (g : Nat) :
    SameMem s (s.l2Access line sectors whole write str g) := by
  unfold State.l2Access
  simp only []
  refine (found_same s .tag line).trans ?_
  generalize s.found .tag line = t
  split
  · exact SameMem.cond ((fill_same ..).trans (withL2_same ..)) ((fill_same ..).trans (withL2_same ..))
  · refine SameMem.cond (sumpLookup_same ..) ?_
    split
    · exact (fill_same ..).trans ((withL2_same ..).trans (l2Evicted_same ..))
    · exact (fill_same ..).trans (withL2_same ..)

theorem l2Drop_same (s : State) (sec g : Nat) : SameMem s (s.l2Drop sec g) := by
  unfold State.l2Drop
  simp only []
  split
  · exact SameMem.refl s
  · exact ((SameMem.ite (SameMem.refl _) (wakeSector_same ..)).trans (withL2_same _ _)).trans (l2WriteBack_same ..)

theorem touch_same (s : State) (pa n : Nat) (lv : Level) (wr : Bool) (g : Nat) : SameMem s (s.touch pa n lv wr g) := by
  unfold State.touch
  refine SameMem.foldl (fun t e => ?_) _ _
  cases lv
  · exact l2Access_same ..
  · exact l2Access_same ..
  · exact (SameMem.foldl (fun _ _ => l2Drop_same ..) _ _).trans (sumpLookup_same ..)

theorem notify_same (s : State) (k : Nat) : SameMem s (s.notify k) := by
  unfold State.notify
  split
  · exact ⟨rfl, rfl, rfl, rfl⟩
  · split <;> exact ⟨rfl, rfl, rfl, rfl⟩

theorem written_same (s : State) (pa n : Nat) (own : Bool) : SameMem s (s.written pa n own) := by
  unfold State.written
  refine SameMem.foldl (fun t k => ?_) _ _
  have h : SameMem t (if coversSector pa n k = true then (t.wakeSector k).putBad k false else t.wakeSector k) :=
    SameMem.cond ((wakeSector_same ..).trans (putBad_same ..)) (wakeSector_same ..)
  simp only []
  refine SameMem.cond h ?_
  split
  · exact h.trans (notify_same ..)
  · exact h

/-- A read at a home gives the bytes of memory and changes none. -/
theorem homeRead_spec (s : State) (pa n : Nat) (lv : Level) (g : Nat) :
    (s.homeRead pa n lv g).1 = memGetN s.mem pa n ∧ SameMem s (s.homeRead pa n lv g).2 :=
  ⟨rfl, touch_same ..⟩

/-- A write at a home writes its bytes to memory and changes no other byte memory. -/
theorem homeWrite_spec (s : State) (pa : Nat) (bs : List Byte) (lv : Level) (g : Nat) (own : Bool) :
    (s.homeWrite pa bs lv g own).mem = memPutN s.mem pa bs ∧ (s.homeWrite pa bs lv g own).scr = s.scr
    ∧ (s.homeWrite pa bs lv g own).loc = s.loc ∧ (s.homeWrite pa bs lv g own).imem = s.imem := by
  unfold State.homeWrite
  have ht := touch_same s pa bs.length lv true g
  have hw := written_same { s.touch pa bs.length lv true g with
    mem := memPutN (s.touch pa bs.length lv true g).mem pa bs } pa bs.length own
  obtain ⟨t1, t2, t3, t4⟩ := ht
  obtain ⟨w1, w2, w3, w4⟩ := hw
  exact ⟨by rw [w1, t1], w2.trans t2, w3.trans t3, w4.trans t4⟩

/-- A write at a home keeps the canonical form. -/
theorem homeWrite_wf {s : State} (h : s.MemWf) (pa : Nat) (bs : List Byte) (lv : Level) (g : Nat) (own : Bool) :
    (s.homeWrite pa bs lv g own).MemWf := by
  obtain ⟨e1, e2, e3, e4⟩ := homeWrite_spec s pa bs lv g own
  unfold State.MemWf
  rw [e1, e2, e3, e4]
  exact ⟨wf_memPutN h.1 pa, h.2⟩

/-- A write to a scratchpad writes its bytes and changes no other byte memory. -/
theorem scrWrite_spec (s : State) (core off : Nat) (bs : List Byte) (bad : Bool) :
    (s.scrWrite core off bs bad).mem = s.mem ∧ (s.scrWrite core off bs bad).scr = memPutN s.scr (scrKey core off) bs
    ∧ (s.scrWrite core off bs bad).loc = s.loc ∧ (s.scrWrite core off bs bad).imem = s.imem :=
  ⟨rfl, rfl, rfl, rfl⟩

/-- A write to a scratchpad keeps the canonical form. -/
theorem scrWrite_wf {s : State} (h : s.MemWf) (core off : Nat) (bs : List Byte) (bad : Bool) :
    (s.scrWrite core off bs bad).MemWf :=
  ⟨h.1, wf_memPutN h.2.1 _, h.2.2⟩

end Sys2Proof.Machine
end

