-- ==== Sys2Proof/Laws/State.lean ====
section
/-! SUPPORT. What each small update of the state leaves in each field, so that no proof unfolds a record update. -/

namespace Sys2Proof.Machine

section push
variable (s : State) (p : Pos) (lat : Nat) (dest : Dest) (val : ResVal) (flags : BitVec 5) (wb latch : Bool)

@[simp] theorem push_now : (s.push p lat dest val flags wb latch).now = s.now := rfl
@[simp] theorem push_part : (s.push p lat dest val flags wb latch).part = s.part := rfl
@[simp] theorem push_core : (s.push p lat dest val flags wb latch).core = s.core := rfl
@[simp] theorem push_ctxs : (s.push p lat dest val flags wb latch).ctxs = s.ctxs := rfl
@[simp] theorem push_cores : (s.push p lat dest val flags wb latch).cores = s.cores := rfl
@[simp] theorem push_mem : (s.push p lat dest val flags wb latch).mem = s.mem := rfl
@[simp] theorem push_poison : (s.push p lat dest val flags wb latch).poison = s.poison := rfl
@[simp] theorem push_scr : (s.push p lat dest val flags wb latch).scr = s.scr := rfl
@[simp] theorem push_scrBad : (s.push p lat dest val flags wb latch).scrBad = s.scrBad := rfl
@[simp] theorem push_loc : (s.push p lat dest val flags wb latch).loc = s.loc := rfl
@[simp] theorem push_imem : (s.push p lat dest val flags wb latch).imem = s.imem := rfl
@[simp] theorem push_ctl : (s.push p lat dest val flags wb latch).ctl = s.ctl := rfl
@[simp] theorem push_l2 : (s.push p lat dest val flags wb latch).l2 = s.l2 := rfl
@[simp] theorem push_sump : (s.push p lat dest val flags wb latch).sump = s.sump := rfl
@[simp] theorem push_filt : (s.push p lat dest val flags wb latch).filt = s.filt := rfl
@[simp] theorem push_far : (s.push p lat dest val flags wb latch).far = s.far := rfl
@[simp] theorem push_ro : (s.push p lat dest val flags wb latch).ro = s.ro := rfl
@[simp] theorem push_ctlb : (s.push p lat dest val flags wb latch).ctlb = s.ctlb := rfl
@[simp] theorem push_cq : (s.push p lat dest val flags wb latch).cq = s.cq := rfl
@[simp] theorem push_groups : (s.push p lat dest val flags wb latch).groups = s.groups := rfl
@[simp] theorem push_launches : (s.push p lat dest val flags wb latch).launches = s.launches := rfl
@[simp] theorem push_saved : (s.push p lat dest val flags wb latch).saved = s.saved := rfl
@[simp] theorem push_fe : (s.push p lat dest val flags wb latch).fe = s.fe := rfl
@[simp] theorem push_fab : (s.push p lat dest val flags wb latch).fab = s.fab := rfl
@[simp] theorem push_flows : (s.push p lat dest val flags wb latch).flows = s.flows := rfl
@[simp] theorem push_rim : (s.push p lat dest val flags wb latch).rim = s.rim := rfl
@[simp] theorem push_rimOpens : (s.push p lat dest val flags wb latch).rimOpens = s.rimOpens := rfl
@[simp] theorem push_rimEvents : (s.push p lat dest val flags wb latch).rimEvents = s.rimEvents := rfl
@[simp] theorem push_plat : (s.push p lat dest val flags wb latch).plat = s.plat := rfl
@[simp] theorem push_answers : (s.push p lat dest val flags wb latch).answers = s.answers := rfl
@[simp] theorem push_reports : (s.push p lat dest val flags wb latch).reports = s.reports := rfl
@[simp] theorem push_upsets : (s.push p lat dest val flags wb latch).upsets = s.upsets := rfl
@[simp] theorem push_inputs : (s.push p lat dest val flags wb latch).inputs = s.inputs := rfl
@[simp] theorem push_draw : (s.push p lat dest val flags wb latch).draw = s.draw := rfl
@[simp] theorem push_sig : (s.push p lat dest val flags wb latch).sig = s.sig := rfl
@[simp] theorem push_mask : (s.push p lat dest val flags wb latch).mask = s.mask := rfl

/-- The result stands last among those in flight. -/
@[simp] theorem push_ctx_infl : (s.push p lat dest val flags wb latch).ctx.infl = s.ctx.infl ++
    [⟨s.ctx.clk + lat, s.ctx.seq, p.slot.toNat, dest, wb, val, flags, latch⟩] := rfl
@[simp] theorem push_ctx_core : (s.push p lat dest val flags wb latch).ctx.core = s.ctx.core := rfl
@[simp] theorem push_ctx_slot : (s.push p lat dest val flags wb latch).ctx.slot = s.ctx.slot := rfl
@[simp] theorem push_ctx_status : (s.push p lat dest val flags wb latch).ctx.status = s.ctx.status := rfl
@[simp] theorem push_ctx_handlerAt : (s.push p lat dest val flags wb latch).ctx.handlerAt = s.ctx.handlerAt := rfl
@[simp] theorem push_ctx_pushes : (s.push p lat dest val flags wb latch).ctx.pushes = s.ctx.pushes := rfl
@[simp] theorem push_ctx_slTold : (s.push p lat dest val flags wb latch).ctx.slTold = s.ctx.slTold := rfl
@[simp] theorem push_ctx_slwaitAt : (s.push p lat dest val flags wb latch).ctx.slwaitAt = s.ctx.slwaitAt := rfl
@[simp] theorem push_ctx_launch : (s.push p lat dest val flags wb latch).ctx.launch = s.ctx.launch := rfl
@[simp] theorem push_ctx_agency : (s.push p lat dest val flags wb latch).ctx.agency = s.ctx.agency := rfl
@[simp] theorem push_ctx_lock : (s.push p lat dest val flags wb latch).ctx.lock = s.ctx.lock := rfl
@[simp] theorem push_ctx_prio : (s.push p lat dest val flags wb latch).ctx.prio = s.ctx.prio := rfl
@[simp] theorem push_ctx_s : (s.push p lat dest val flags wb latch).ctx.s = s.ctx.s := rfl
@[simp] theorem push_ctx_s31 : (s.push p lat dest val flags wb latch).ctx.s31 = s.ctx.s31 := rfl
@[simp] theorem push_ctx_sup : (s.push p lat dest val flags wb latch).ctx.sup = s.ctx.sup := rfl
@[simp] theorem push_ctx_win : (s.push p lat dest val flags wb latch).ctx.win = s.ctx.win := rfl
@[simp] theorem push_ctx_v : (s.push p lat dest val flags wb latch).ctx.v = s.ctx.v := rfl
@[simp] theorem push_ctx_p : (s.push p lat dest val flags wb latch).ctx.p = s.ctx.p := rfl
@[simp] theorem push_ctx_f : (s.push p lat dest val flags wb latch).ctx.f = s.ctx.f := rfl
@[simp] theorem push_ctx_sg : (s.push p lat dest val flags wb latch).ctx.sg = s.ctx.sg := rfl
@[simp] theorem push_ctx_lat : (s.push p lat dest val flags wb latch).ctx.lat = s.ctx.lat := rfl
@[simp] theorem push_ctx_latSeq : (s.push p lat dest val flags wb latch).ctx.latSeq = s.ctx.latSeq := rfl
@[simp] theorem push_ctx_pat : (s.push p lat dest val flags wb latch).ctx.pat = s.ctx.pat := rfl
@[simp] theorem push_ctx_patBank : (s.push p lat dest val flags wb latch).ctx.patBank = s.ctx.patBank := rfl
@[simp] theorem push_ctx_ie : (s.push p lat dest val flags wb latch).ctx.ie = s.ctx.ie := rfl
@[simp] theorem push_ctx_sv : (s.push p lat dest val flags wb latch).ctx.sv = s.ctx.sv := rfl
@[simp] theorem push_ctx_il : (s.push p lat dest val flags wb latch).ctx.il = s.ctx.il := rfl
@[simp] theorem push_ctx_fpflags : (s.push p lat dest val flags wb latch).ctx.fpflags = s.ctx.fpflags := rfl
@[simp] theorem push_ctx_fptrap : (s.push p lat dest val flags wb latch).ctx.fptrap = s.ctx.fptrap := rfl
@[simp] theorem push_ctx_lc : (s.push p lat dest val flags wb latch).ctx.lc = s.ctx.lc := rfl
@[simp] theorem push_ctx_ec : (s.push p lat dest val flags wb latch).ctx.ec = s.ctx.ec := rfl
@[simp] theorem push_ctx_vrb : (s.push p lat dest val flags wb latch).ctx.vrb = s.ctx.vrb := rfl
@[simp] theorem push_ctx_wsp : (s.push p lat dest val flags wb latch).ctx.wsp = s.ctx.wsp := rfl
@[simp] theorem push_ctx_wbase : (s.push p lat dest val flags wb latch).ctx.wbase = s.ctx.wbase := rfl
@[simp] theorem push_ctx_tileX : (s.push p lat dest val flags wb latch).ctx.tileX = s.ctx.tileX := rfl
@[simp] theorem push_ctx_tileY : (s.push p lat dest val flags wb latch).ctx.tileY = s.ctx.tileY := rfl
@[simp] theorem push_ctx_tileZ : (s.push p lat dest val flags wb latch).ctx.tileZ = s.ctx.tileZ := rfl
@[simp] theorem push_ctx_alloc : (s.push p lat dest val flags wb latch).ctx.alloc = s.ctx.alloc := rfl
@[simp] theorem push_ctx_dbase : (s.push p lat dest val flags wb latch).ctx.dbase = s.ctx.dbase := rfl
@[simp] theorem push_ctx_budget : (s.push p lat dest val flags wb latch).ctx.budget = s.ctx.budget := rfl
@[simp] theorem push_ctx_bleft : (s.push p lat dest val flags wb latch).ctx.bleft = s.ctx.bleft := rfl
@[simp] theorem push_ctx_epcq0 : (s.push p lat dest val flags wb latch).ctx.epcq0 = s.ctx.epcq0 := rfl
@[simp] theorem push_ctx_epcq1 : (s.push p lat dest val flags wb latch).ctx.epcq1 = s.ctx.epcq1 := rfl
@[simp] theorem push_ctx_epcq2 : (s.push p lat dest val flags wb latch).ctx.epcq2 = s.ctx.epcq2 := rfl
@[simp] theorem push_ctx_tcause : (s.push p lat dest val flags wb latch).ctx.tcause = s.ctx.tcause := rfl
@[simp] theorem push_ctx_tmask : (s.push p lat dest val flags wb latch).ctx.tmask = s.ctx.tmask := rfl
@[simp] theorem push_ctx_taddr : (s.push p lat dest val flags wb latch).ctx.taddr = s.ctx.taddr := rfl
@[simp] theorem push_ctx_tdetail : (s.push p lat dest val flags wb latch).ctx.tdetail = s.ctx.tdetail := rfl
@[simp] theorem push_ctx_tvec : (s.push p lat dest val flags wb latch).ctx.tvec = s.ctx.tvec := rfl
@[simp] theorem push_ctx_ssave : (s.push p lat dest val flags wb latch).ctx.ssave = s.ctx.ssave := rfl
@[simp] theorem push_ctx_bkpt0 : (s.push p lat dest val flags wb latch).ctx.bkpt0 = s.ctx.bkpt0 := rfl
@[simp] theorem push_ctx_bkpt1 : (s.push p lat dest val flags wb latch).ctx.bkpt1 = s.ctx.bkpt1 := rfl
@[simp] theorem push_ctx_ienable : (s.push p lat dest val flags wb latch).ctx.ienable = s.ctx.ienable := rfl
@[simp] theorem push_ctx_ipend : (s.push p lat dest val flags wb latch).ctx.ipend = s.ctx.ipend := rfl
@[simp] theorem push_ctx_cqsrc : (s.push p lat dest val flags wb latch).ctx.cqsrc = s.ctx.cqsrc := rfl
@[simp] theorem push_ctx_rkey : (s.push p lat dest val flags wb latch).ctx.rkey = s.ctx.rkey := rfl
@[simp] theorem push_ctx_rctr : (s.push p lat dest val flags wb latch).ctx.rctr = s.ctx.rctr := rfl
@[simp] theorem push_ctx_q0 : (s.push p lat dest val flags wb latch).ctx.q0 = s.ctx.q0 := rfl
@[simp] theorem push_ctx_q1 : (s.push p lat dest val flags wb latch).ctx.q1 = s.ctx.q1 := rfl
@[simp] theorem push_ctx_q2 : (s.push p lat dest val flags wb latch).ctx.q2 = s.ctx.q2 := rfl
@[simp] theorem push_ctx_clk : (s.push p lat dest val flags wb latch).ctx.clk = s.ctx.clk := rfl
@[simp] theorem push_ctx_seq : (s.push p lat dest val flags wb latch).ctx.seq = s.ctx.seq := rfl
@[simp] theorem push_ctx_late : (s.push p lat dest val flags wb latch).ctx.late = s.ctx.late := rfl
@[simp] theorem push_ctx_snap : (s.push p lat dest val flags wb latch).ctx.snap = s.ctx.snap := rfl
@[simp] theorem push_ctx_replayU : (s.push p lat dest val flags wb latch).ctx.replayU = s.ctx.replayU := rfl
@[simp] theorem push_ctx_vpld : (s.push p lat dest val flags wb latch).ctx.vpld = s.ctx.vpld := rfl
@[simp] theorem push_ctx_wnext : (s.push p lat dest val flags wb latch).ctx.wnext = s.ctx.wnext := rfl
@[simp] theorem push_ctx_cursor : (s.push p lat dest val flags wb latch).ctx.cursor = s.ctx.cursor := rfl
@[simp] theorem push_ctx_bpskip : (s.push p lat dest val flags wb latch).ctx.bpskip = s.ctx.bpskip := rfl
@[simp] theorem push_ctx_overPend : (s.push p lat dest val flags wb latch).ctx.overPend = s.ctx.overPend := rfl
@[simp] theorem push_ctx_steer : (s.push p lat dest val flags wb latch).ctx.steer = s.ctx.steer := rfl
@[simp] theorem push_ctx_stallAt : (s.push p lat dest val flags wb latch).ctx.stallAt = s.ctx.stallAt := rfl
@[simp] theorem push_ctx_heldAt : (s.push p lat dest val flags wb latch).ctx.heldAt = s.ctx.heldAt := rfl
@[simp] theorem push_ctx_pfault : (s.push p lat dest val flags wb latch).ctx.pfault = s.ctx.pfault := rfl
@[simp] theorem push_ctx_posts : (s.push p lat dest val flags wb latch).ctx.posts = s.ctx.posts := rfl
@[simp] theorem push_ctx_mon : (s.push p lat dest val flags wb latch).ctx.mon = s.ctx.mon := rfl
@[simp] theorem push_ctx_mwaitAt : (s.push p lat dest val flags wb latch).ctx.mwaitAt = s.ctx.mwaitAt := rfl
@[simp] theorem push_ctx_stepping : (s.push p lat dest val flags wb latch).ctx.stepping = s.ctx.stepping := rfl
@[simp] theorem push_ctx_sigAt : (s.push p lat dest val flags wb latch).ctx.sigAt = s.ctx.sigAt := rfl
@[simp] theorem push_ctx_lclk : (s.push p lat dest val flags wb latch).ctx.lclk = s.ctx.lclk := rfl
@[simp] theorem push_ctx_mcOut : (s.push p lat dest val flags wb latch).ctx.mcOut = s.ctx.mcOut := rfl
@[simp] theorem push_ctx_ack : (s.push p lat dest val flags wb latch).ctx.ack = s.ctx.ack := rfl
@[simp] theorem push_ctx_ackOrd : (s.push p lat dest val flags wb latch).ctx.ackOrd = s.ctx.ackOrd := rfl
@[simp] theorem push_ctx_bind : (s.push p lat dest val flags wb latch).ctx.bind = s.ctx.bind := rfl
@[simp] theorem push_ctx_run : (s.push p lat dest val flags wb latch).ctx.run = s.ctx.run := rfl
@[simp] theorem push_ctx_lastIssue : (s.push p lat dest val flags wb latch).ctx.lastIssue = s.ctx.lastIssue := rfl
@[simp] theorem push_ctx_issuedQ : (s.push p lat dest val flags wb latch).ctx.issuedQ = s.ctx.issuedQ := rfl
@[simp] theorem push_ctx_held : (s.push p lat dest val flags wb latch).ctx.held = s.ctx.held := rfl
@[simp] theorem push_ctx_perf : (s.push p lat dest val flags wb latch).ctx.perf = s.ctx.perf := rfl
@[simp] theorem push_ctx_imBase : (s.push p lat dest val flags wb latch).ctx.imBase = s.ctx.imBase := rfl
@[simp] theorem push_ctx_imSize : (s.push p lat dest val flags wb latch).ctx.imSize = s.ctx.imSize := rfl
@[simp] theorem push_ctx_scrBase : (s.push p lat dest val flags wb latch).ctx.scrBase = s.ctx.scrBase := rfl
@[simp] theorem push_ctx_scrSize : (s.push p lat dest val flags wb latch).ctx.scrSize = s.ctx.scrSize := rfl
@[simp] theorem push_ctx_tiles : (s.push p lat dest val flags wb latch).ctx.tiles = s.ctx.tiles := rfl
@[simp] theorem push_ctx_ports : (s.push p lat dest val flags wb latch).ctx.ports = s.ctx.ports := rfl
@[simp] theorem push_ctx_shadow : (s.push p lat dest val flags wb latch).ctx.shadow = s.ctx.shadow := rfl

end push

@[simp] theorem ran_now (s : State) : s.ran.now = s.now := rfl
@[simp] theorem ran_part (s : State) : s.ran.part = s.part := rfl
@[simp] theorem ran_reports (s : State) : s.ran.reports = s.reports := rfl
@[simp] theorem ran_ctx (s : State) : s.ran.ctx = s.ctx := rfl
@[simp] theorem ran_core (s : State) : s.ran.core = s.core := rfl
@[simp] theorem ran_ctxs (s : State) : s.ran.ctxs = s.ctxs := rfl
@[simp] theorem ran_cores (s : State) : s.ran.cores = s.cores := rfl
@[simp] theorem ran_mem (s : State) : s.ran.mem = s.mem := rfl
@[simp] theorem ran_poison (s : State) : s.ran.poison = s.poison := rfl
@[simp] theorem ran_scr (s : State) : s.ran.scr = s.scr := rfl
@[simp] theorem ran_scrBad (s : State) : s.ran.scrBad = s.scrBad := rfl
@[simp] theorem ran_loc (s : State) : s.ran.loc = s.loc := rfl
@[simp] theorem ran_imem (s : State) : s.ran.imem = s.imem := rfl
@[simp] theorem ran_ctl (s : State) : s.ran.ctl = s.ctl := rfl
@[simp] theorem ran_l2 (s : State) : s.ran.l2 = s.l2 := rfl
@[simp] theorem ran_sump (s : State) : s.ran.sump = s.sump := rfl
@[simp] theorem ran_filt (s : State) : s.ran.filt = s.filt := rfl
@[simp] theorem ran_far (s : State) : s.ran.far = s.far := rfl
@[simp] theorem ran_ro (s : State) : s.ran.ro = s.ro := rfl
@[simp] theorem ran_ctlb (s : State) : s.ran.ctlb = s.ctlb := rfl
@[simp] theorem ran_cq (s : State) : s.ran.cq = s.cq := rfl
@[simp] theorem ran_groups (s : State) : s.ran.groups = s.groups := rfl
@[simp] theorem ran_launches (s : State) : s.ran.launches = s.launches := rfl
@[simp] theorem ran_saved (s : State) : s.ran.saved = s.saved := rfl
@[simp] theorem ran_fe (s : State) : s.ran.fe = s.fe := rfl
@[simp] theorem ran_fab (s : State) : s.ran.fab = s.fab := rfl
@[simp] theorem ran_flows (s : State) : s.ran.flows = s.flows := rfl
@[simp] theorem ran_rim (s : State) : s.ran.rim = s.rim := rfl
@[simp] theorem ran_rimOpens (s : State) : s.ran.rimOpens = s.rimOpens := rfl
@[simp] theorem ran_rimEvents (s : State) : s.ran.rimEvents = s.rimEvents := rfl
@[simp] theorem ran_plat (s : State) : s.ran.plat = s.plat := rfl
@[simp] theorem ran_answers (s : State) : s.ran.answers = s.answers := rfl
@[simp] theorem ran_inputs (s : State) : s.ran.inputs = s.inputs := rfl
@[simp] theorem ran_upsets (s : State) : s.ran.upsets = s.upsets := rfl
@[simp] theorem ran_draw (s : State) : s.ran.draw = s.draw := rfl
@[simp] theorem ran_sig (s : State) : s.ran.sig = .ran := rfl
@[simp] theorem ran_mask (s : State) : s.ran.mask = s.mask := rfl

@[simp] theorem waits_now (s : State) (k : WaitKind) : (s.waits k).now = s.now := rfl
@[simp] theorem waits_part (s : State) (k : WaitKind) : (s.waits k).part = s.part := rfl
@[simp] theorem waits_reports (s : State) (k : WaitKind) : (s.waits k).reports = s.reports := rfl
@[simp] theorem waits_ctx (s : State) (k : WaitKind) : (s.waits k).ctx = s.ctx := rfl
@[simp] theorem waits_core (s : State) (k : WaitKind) : (s.waits k).core = s.core := rfl
@[simp] theorem waits_ctxs (s : State) (k : WaitKind) : (s.waits k).ctxs = s.ctxs := rfl
@[simp] theorem waits_cores (s : State) (k : WaitKind) : (s.waits k).cores = s.cores := rfl
@[simp] theorem waits_mem (s : State) (k : WaitKind) : (s.waits k).mem = s.mem := rfl
@[simp] theorem waits_poison (s : State) (k : WaitKind) : (s.waits k).poison = s.poison := rfl
@[simp] theorem waits_scr (s : State) (k : WaitKind) : (s.waits k).scr = s.scr := rfl
@[simp] theorem waits_scrBad (s : State) (k : WaitKind) : (s.waits k).scrBad = s.scrBad := rfl
@[simp] theorem waits_loc (s : State) (k : WaitKind) : (s.waits k).loc = s.loc := rfl
@[simp] theorem waits_imem (s : State) (k : WaitKind) : (s.waits k).imem = s.imem := rfl
@[simp] theorem waits_ctl (s : State) (k : WaitKind) : (s.waits k).ctl = s.ctl := rfl
@[simp] theorem waits_l2 (s : State) (k : WaitKind) : (s.waits k).l2 = s.l2 := rfl
@[simp] theorem waits_sump (s : State) (k : WaitKind) : (s.waits k).sump = s.sump := rfl
@[simp] theorem waits_filt (s : State) (k : WaitKind) : (s.waits k).filt = s.filt := rfl
@[simp] theorem waits_far (s : State) (k : WaitKind) : (s.waits k).far = s.far := rfl
@[simp] theorem waits_ro (s : State) (k : WaitKind) : (s.waits k).ro = s.ro := rfl
@[simp] theorem waits_ctlb (s : State) (k : WaitKind) : (s.waits k).ctlb = s.ctlb := rfl
@[simp] theorem waits_cq (s : State) (k : WaitKind) : (s.waits k).cq = s.cq := rfl
@[simp] theorem waits_groups (s : State) (k : WaitKind) : (s.waits k).groups = s.groups := rfl
@[simp] theorem waits_launches (s : State) (k : WaitKind) : (s.waits k).launches = s.launches := rfl
@[simp] theorem waits_saved (s : State) (k : WaitKind) : (s.waits k).saved = s.saved := rfl
@[simp] theorem waits_fe (s : State) (k : WaitKind) : (s.waits k).fe = s.fe := rfl
@[simp] theorem waits_fab (s : State) (k : WaitKind) : (s.waits k).fab = s.fab := rfl
@[simp] theorem waits_flows (s : State) (k : WaitKind) : (s.waits k).flows = s.flows := rfl
@[simp] theorem waits_rim (s : State) (k : WaitKind) : (s.waits k).rim = s.rim := rfl
@[simp] theorem waits_rimOpens (s : State) (k : WaitKind) : (s.waits k).rimOpens = s.rimOpens := rfl
@[simp] theorem waits_rimEvents (s : State) (k : WaitKind) : (s.waits k).rimEvents = s.rimEvents := rfl
@[simp] theorem waits_plat (s : State) (k : WaitKind) : (s.waits k).plat = s.plat := rfl
@[simp] theorem waits_answers (s : State) (k : WaitKind) : (s.waits k).answers = s.answers := rfl
@[simp] theorem waits_inputs (s : State) (k : WaitKind) : (s.waits k).inputs = s.inputs := rfl
@[simp] theorem waits_upsets (s : State) (k : WaitKind) : (s.waits k).upsets = s.upsets := rfl
@[simp] theorem waits_draw (s : State) (k : WaitKind) : (s.waits k).draw = s.draw := rfl
@[simp] theorem waits_sig (s : State) (k : WaitKind) : (s.waits k).sig = .waits k := rfl
@[simp] theorem waits_mask (s : State) (k : WaitKind) : (s.waits k).mask = s.mask := rfl

/-! ## Names read through a push -/

section names
variable (s : State) (p : Pos) (lat : Nat) (dest : Dest) (val : ResVal) (flags : BitVec 5) (wb latch : Bool)

@[simp] theorem push_scalar (n : Nat) : (s.push p lat dest val flags wb latch).ctx.scalar n = s.ctx.scalar n := rfl
@[simp] theorem push_phys (n : Nat) : (s.push p lat dest val flags wb latch).ctx.phys n = s.ctx.phys n := rfl
@[simp] theorem push_vphys (n : Nat) : (s.push p lat dest val flags wb latch).ctx.vphys n = s.ctx.vphys n := rfl
@[simp] theorem push_vec (n : Nat) : (s.push p lat dest val flags wb latch).ctx.vec n = s.ctx.vec n := rfl
@[simp] theorem push_pred (n : Nat) : (s.push p lat dest val flags wb latch).ctx.pred n = s.ctx.pred n := rfl

end names

/-- At reset every byte memory lists nothing. -/
theorem reset_mem : State.reset.mem = [] ∧ State.reset.scr = [] ∧ State.reset.loc = [] ∧ State.reset.imem = [] :=
  ⟨rfl, rfl, rfl, rfl⟩

end Sys2Proof.Machine
end

