-- ==== Sys2Proof/Laws/Ops.lean ====
section
/-! SUPPORT. What the shared operations can do, once for each: sequencing and stopping, sources and destinations, taking a trap
(spec/02 R27 to R30, spec/05 R93 to R100, spec/07 R134, R135). -/

namespace Sys2Proof.Machine

/-! ## Sequencing -/

theorem bind_ok {α β : Type} {m : M α} {f : α → M β} {s t : State} {a : α} (h : m s = .ok (a, t)) :
    (m >>= f) s = f a t := by
  show (Except.bind (m s) fun x => f x.1 x.2) = _
  rw [h]; rfl

theorem bind_stop {α β : Type} {m : M α} {f : α → M β} {s : State} {e : Stop} (h : m s = .error e) :
    (m >>= f) s = .error e := by
  show (Except.bind (m s) fun x => f x.1 x.2) = _
  rw [h]; rfl

/-- A sequence that answers went through its first part. -/
theorem bind_inv {α β : Type} {m : M α} {f : α → M β} {s : State} {r : β × State} (h : (m >>= f) s = .ok r) :
    ∃ a t, m s = .ok (a, t) ∧ f a t = .ok r := by
  change (Except.bind (m s) fun x => f x.1 x.2) = _ at h
  cases hm : m s with
  | error e => rw [hm] at h; cases h
  | ok x => rw [hm] at h; exact ⟨x.1, x.2, rfl, h⟩

@[simp] theorem pure_run {α : Type} (a : α) (s : State) : (pure a : M α) s = .ok (a, s) := rfl
@[simp] theorem getCtx_run (s : State) : getCtx s = .ok (s.ctx, s) := rfl
@[simp] theorem modCtx_run (f : Ctx → Ctx) (s : State) : modCtx f s = .ok ((), { s with ctx := f s.ctx }) := rfl
@[simp] theorem modCore_run (f : Core → Core) (s : State) : modCore f s = .ok ((), { s with core := f s.core }) := rfl
@[simp] theorem trapM_run {α : Type} (c : BitVec 8) (a d : Word) (s : State) :
    (trapM c a d : M α) s = .error (.trap ⟨c, a, d⟩) := rfl
@[simp] theorem waitM_run {α : Type} (k : WaitKind) (s : State) : (waitM k : M α) s = .error (.wait k) := rfl
@[simp] theorem trapIf_false (c : BitVec 8) (a d : Word) : trapIf false c a d = pure () := rfl
@[simp] theorem trapIf_true (c : BitVec 8) (a d : Word) : trapIf true c a d = trapM c a d := rfl
@[simp] theorem waitIf_false (k : WaitKind) : waitIf false k = pure () := rfl
@[simp] theorem waitIf_true (k : WaitKind) : waitIf true k = waitM k := rfl
@[simp] theorem readV_run (b : Bool) (n : BitVec 5) (s : State) : readV b n s = .ok (s.vsource b n, s) := rfl
@[simp] theorem readPred_run (n : BitVec 4) (s : State) : readPred n s = .ok (s.ctx.pred n.toNat, s) := rfl
@[simp] theorem pushState_run (p : Pos) (lat : Nat) (d : Dest) (v : ResVal) (s : State) :
    pushState p lat d v s = .ok ((), s.push p lat d v 0 true false) := rfl
@[simp] theorem writeV_run (p : Pos) (lat : Nat) (d : BitVec 5) (v : VVal) (m : BitVec 256) (fl : BitVec 5) (s : State) :
    writeV p lat d v m fl s = .ok ((), s.sentV p lat d v m fl) := rfl
@[simp] theorem writeP_run (p : Pos) (lat : Nat) (d : BitVec 4) (v m : BitVec 256) (fl : BitVec 5) (s : State) :
    writeP p lat d v m fl s = .ok ((), s.sentP p lat d v m fl) := rfl

/-! ## How a slot operation ends -/

theorem finish_ok {p : Pos} {m : M Unit} {s t : State} (h : m s = .ok ((), t)) : finish p m s = .next t.ran := by
  unfold finish; rw [h]; rfl

theorem finish_trap {p : Pos} {m : M Unit} {s : State} {r : TrapReq} (h : m s = .error (.trap r)) :
    finish p m s = .next (s.traps p r) := by
  unfold finish; rw [h]; rfl

theorem finish_trapLog {p : Pos} {m : M Unit} {s : State} {r : TrapReq} {f : State → State}
    (h : m s = .error (.trapLog r f)) :
    finish p m s = .next { ((f s).takeTrap r (s.mask ||| maskBit p)) with sig := .trapped r, mask := 0 } := by
  unfold finish; rw [h]

theorem finish_trapIn {p : Pos} {m : M Unit} {s t : State} {r : TrapReq} (h : m s = .error (.trapIn r t)) :
    finish p m s = .next { ((t.unpopped s).takeTrap r (s.mask ||| maskBit p)) with sig := .trapped r, mask := 0 } := by
  unfold finish; rw [h]

theorem finish_wait {p : Pos} {m : M Unit} {s : State} {k : WaitKind} (h : m s = .error (.wait k)) :
    finish p m s = .next (s.waits k) := by
  unfold finish; rw [h]

theorem finish_send {p : Pos} {m : M Unit} {s : State} {k : WaitKind} {f : State → State}
    (h : m s = .error (.send k f)) : finish p m s = .next ((f s).waits k) := by
  unfold finish; rw [h]

/-- Everything a slot operation can do: it runs, it traps, it waits; it is never a fault or a refusal. -/
theorem finish_cases (p : Pos) (m : M Unit) (s : State) :
    (∃ t, m s = .ok ((), t) ∧ finish p m s = .next t.ran)
    ∨ (∃ (r : TrapReq) (t : State), finish p m s = .next { (t.takeTrap r (s.mask ||| maskBit p)) with sig := .trapped r, mask := 0 })
    ∨ (∃ (k : WaitKind) (t : State), finish p m s = .next (t.waits k)) := by
  cases h : m s with
  | ok x => exact .inl ⟨x.2, rfl, finish_ok h⟩
  | error e =>
    cases e with
    | trap r => exact .inr (.inl ⟨r, s, finish_trap h⟩)
    | trapLog r f => exact .inr (.inl ⟨r, f s, finish_trapLog h⟩)
    | trapIn r t => exact .inr (.inl ⟨r, t.unpopped s, finish_trapIn h⟩)
    | wait k => exact .inr (.inr ⟨k, s, finish_wait h⟩)
    | send k f => exact .inr (.inr ⟨k, f s, finish_send h⟩)

/-! ## Sources -/

/-- A source that is a latch or no port reads its value and changes nothing. -/
theorem readS_plain {p : Pos} {lat : Nat} {byp : Bool} {n : BitVec 5} {s : State} (h : byp = true ∨ PlainReg n) :
    readS p lat byp n s = .ok (s.source byp n, s) := by
  unfold readS State.source
  cases byp with
  | true => rfl
  | false =>
    have hn : ¬ (24 ≤ n.toNat ∧ n.toNat ≤ 30) := by
      have := h.resolve_left (by simp)
      unfold PlainReg at this
      omega
    simp [hn]

/-- A port out of its place, or of a task without ports, traps (R135, R383). -/
theorem popLink_trap {k : Nat} {s : State} (h : s.ctx.ports = false) :
    popLink k s = .error (.trap ⟨cProtect, 0, 0x40⟩) := by
  unfold popLink; simp [h]

theorem popLink_same {k : Nat} {s t : State} {w : Word} (h : popLink k s = .ok (w, t)) :
    ∃ q, t = { s with core := { s.core with inq := q } } := by
  unfold popLink at h
  split at h
  · cases h
  · split at h
    · cases h; exact ⟨_, rfl⟩
    · cases h

/-! ## Destinations -/

/-- A destination that is no port sends its result and changes nothing else. -/
theorem writeS_plain {p : Pos} {lat : Nat} {d : BitVec 5} {w : Word} {s : State} (h : PlainReg d) :
    writeS p lat d w 0 s = .ok ((), s.sent p lat d w) := by
  have hn : ¬ (24 ≤ d.toNat ∧ d.toNat ≤ 30) := by unfold PlainReg at h; omega
  unfold writeS State.sent
  simp only [hn, if_false]
  split <;> rfl

/-! ## What stopping for a trap leaves alone -/

theorem unpopped_same (t s : State) : SameMem t (t.unpopped s) := ⟨rfl, rfl, rfl, rfl⟩
theorem settleArray_same (s : State) : SameMem s s.settleArray := ⟨rfl, rfl, rfl, rfl⟩
theorem capture_same (s : State) : SameMem s s.capture := ⟨rfl, rfl, rfl, rfl⟩
theorem mapCtx_same (s : State) (p : Ctx → Bool) (f : Ctx → Ctx) : SameMem s (s.mapCtx p f) := ⟨rfl, rfl, rfl, rfl⟩
theorem setHorizon_same (s : State) (z : Horizon) : SameMem s (s.setHorizon z) := ⟨rfl, rfl, rfl, rfl⟩

theorem postWord_same (s : State) (l : Nat) (w : Word) : SameMem s (s.postWord l w) := by
  unfold State.postWord State.postFlag
  split
  · exact mapCtx_same ..
  · split
    · exact ⟨rfl, rfl, rfl, rfl⟩
    · exact report_same ..

theorem eligibility_same (s : State) (h : Nat) : SameMem s (s.eligibility h) := by
  unfold State.eligibility
  split
  · exact SameMem.refl s
  · rename_i z _
    refine SameMem.foldl (fun t c => ?_) _ _
    dsimp only []
    have h1 := SameMem.ite (c := (c.fineOk && decide (z.winLo ≤ c.slice) && !c.postedF) = true)
      (postWord_same t z.launch (z.dw 5)) (SameMem.refl t)
    generalize (if (c.fineOk && decide (z.winLo ≤ c.slice) && !c.postedF) = true then t.postWord z.launch (z.dw 5)
      else t) = u at h1 ⊢
    have h2 := h1.trans (SameMem.ite (c := (c.coarseOk z.count && decide (z.winLo ≤ c.slice) && !c.postedG) = true)
      (postWord_same u z.launch (z.dw 6)) (SameMem.refl u))
    generalize (if (c.coarseOk z.count && decide (z.winLo ≤ c.slice) && !c.postedG) = true then u.postWord z.launch (z.dw 6)
      else u) = v at h2 ⊢
    refine h2.trans ?_
    cases v.horizon h with
    | none => exact SameMem.refl v
    | some z' => exact setHorizon_same ..

theorem freeSlice_same (s : State) (b : Binding) : SameMem s (s.freeSlice b) := by
  unfold State.freeSlice
  split
  · exact SameMem.refl s
  · split
    · exact SameMem.refl s
    · exact (setHorizon_same ..).trans (eligibility_same ..)

theorem unbindWhere_same (s : State) (p : Ctx → Bool) : SameMem s (s.unbindWhere p) := by
  unfold State.unbindWhere
  exact SameMem.trans (t := { s.mapCtx p (fun c => { c with bind := none }) with saved := _ }) ⟨rfl, rfl, rfl, rfl⟩
    (SameMem.foldl freeSlice_same _ _)

theorem leaveAll_same (s : State) (n k : Nat) : SameMem s (s.leaveAll n k) := ⟨rfl, rfl, rfl, rfl⟩
theorem launchGone_same (s : State) (n : Nat) : SameMem s (s.launchGone n) := ⟨rfl, rfl, rfl, rfl⟩

theorem savedEnd_same (s : State) (n : Nat) : SameMem s (s.savedEnd n) := by
  unfold State.savedEnd
  dsimp only
  have h := SameMem.foldl (fun (t : State) k => leaveAll_same t n k)
    ((s.saved.filter (fun v => v.ctx.launch == n)).map (fun v => v.ctx.core)) s
  generalize ((s.saved.filter (fun v => v.ctx.launch == n)).map (fun v => v.ctx.core)).foldl
    (fun (t : State) k => t.leaveAll n k) s = u at h ⊢
  refine h.trans ?_
  split
  · exact ⟨rfl, rfl, rfl, rfl⟩
  · exact ⟨rfl, rfl, rfl, rfl⟩

theorem endLaunch_same (s : State) (n : Nat) : SameMem s (s.endLaunch n) :=
  ((unbindWhere_same s _).trans (mapCtx_same ..)).trans (savedEnd_same ..)

/-- Taking a trap changes no byte of memory. -/
theorem takeTrap_same (s : State) (r : TrapReq) (m : BitVec 4) : SameMem s (s.takeTrap r m) := by
  unfold State.takeTrap
  split
  · unfold State.parkFault
    simp only []
    split <;> exact ⟨rfl, rfl, rfl, rfl⟩
  · split
    · unfold State.deferFault
      split
      · exact SameMem.refl s
      · simp only []
        split
        · exact ⟨rfl, rfl, rfl, rfl⟩
        · split
          · exact ⟨rfl, rfl, rfl, rfl⟩
          · exact SameMem.trans (t := State.setHorizon { s with ctx := _ } _) ⟨rfl, rfl, rfl, rfl⟩ (eligibility_same ..)
    · unfold State.deliver
      split
      · unfold State.doubleFault
        exact SameMem.trans ⟨rfl, rfl, rfl, rfl⟩ ((settleArray_same _).trans (endLaunch_same ..))
      · exact ⟨rfl, rfl, rfl, rfl⟩

end Sys2Proof.Machine
end

