-- ==== Sys2Proof/Laws/PerInstr.lean ====
section
/-! SUPPORT. The family RoundTrip: for each instruction, the decoder of its slot position reads its own word back, with what
the header lends it (spec/02 R20, R25, R27; spec/03). -/

namespace Sys2Proof.Laws.RoundTrip

/-- Every well-formed instruction is decoded from the word and the lent byte that encode it. -/
def Statement (i : Instr) : Prop :=
  ∀ p s, i.shape = some (p, s) → i.wellFormed = true →
    decodeSlot p.slot p.hdr (encodeLend p) (encode i) = .ok i

/-- The position that a lent byte describes is the one it was made from. -/
theorem lent_encodeLend (p : Pos) : Pos.lent p.slot p.hdr (encodeLend p) = p := by
  obtain ⟨k, h, w, a, b, e⟩ := p
  have he : (encodeLend ⟨k, h, w, a, b, e⟩).extractLsb' 0 5 = e := by
    show (BitVec.ofBool w ++ BitVec.ofBool a ++ BitVec.ofBool b ++ e).extractLsb' 0 5 = e
    rw [BitVec.extractLsb'_append_eq_of_add_le (by omega)]
    simp
  simp only [Pos.lent, he]
  simp only [encodeLend, BitVec.getLsbD_append]
  simp

/-- A well-formed instruction stands in a slot that its place allows, and its fields are in range. -/
theorem wellFormed_split {i : Instr} {p : Pos} {s : Shape} (hs : i.shape = some (p, s)) (h : i.wellFormed = true) :
    s.place.allows p.slot = true ∧ i.fieldsOk = true := by
  unfold Instr.wellFormed at h
  rw [hs] at h
  simp only [Shape.lends, Bool.and_eq_true] at h
  exact ⟨h.1.1.1.1.1.1.1, h.2⟩

/-- The decoder of slot 0 is that of class C. -/
theorem slot_c {i : Instr} {p : Pos} (hk : p.slot = 0) (hd : decodeC p (encode i) = .ok i) (h : i.wellFormed = true) :
    decodeSlot p.slot p.hdr (encodeLend p) (encode i) = .ok i := by
  simp only [decodeSlot, lent_encodeLend]
  simp [hk, hd, h]

/-- The decoder of slot 1 is that of class X. -/
theorem slot_x {i : Instr} {p : Pos} (hk : p.slot = 1) (hd : decodeX p (encode i) = .ok i) (h : i.wellFormed = true) :
    decodeSlot p.slot p.hdr (encodeLend p) (encode i) = .ok i := by
  simp only [decodeSlot, lent_encodeLend]
  simp [hk, hd, h]

/-- The decoder of slot 2 is that of class V. -/
theorem slot_v2 {i : Instr} {p : Pos} (hk : p.slot = 2) (hd : decodeV p (encode i) = .ok i) (h : i.wellFormed = true) :
    decodeSlot p.slot p.hdr (encodeLend p) (encode i) = .ok i := by
  simp only [decodeSlot, lent_encodeLend]
  simp [hk, hd, h]

/-- The decoder of slot 3 is that of class V when bit 31 is clear. -/
theorem slot_v3 {i : Instr} {p : Pos} (hk : p.slot = 3) (hb : (encode i).getLsbD 31 = false)
    (hd : decodeV p (encode i) = .ok i) (h : i.wellFormed = true) :
    decodeSlot p.slot p.hdr (encodeLend p) (encode i) = .ok i := by
  simp only [decodeSlot, lent_encodeLend, hb]
  simp [hk, hd, h]

/-- The decoder of slot 3 is that of class M when bit 31 is set. -/
theorem slot_m {i : Instr} {p : Pos} (hk : p.slot = 3) (hb : (encode i).getLsbD 31 = true)
    (hd : decodeM p (encode i) = .ok i) (h : i.wellFormed = true) :
    decodeSlot p.slot p.hdr (encodeLend p) (encode i) = .ok i := by
  simp only [decodeSlot, lent_encodeLend, hb]
  simp [hk, hd, h]

/-- An operation of the scalar ALU, in slot 0 or 1. -/
theorem of_alu {i : Instr} {p₀ : Pos} {s₀ : Shape} (hs : i.shape = some (p₀, s₀)) (hp : s₀.place = .cx)
    (hd : i.fieldsOk = true → decodeAlu p₀ (encode i) = some (.ok i)) : Statement i := by
  intro p s hs' h
  rw [hs] at hs'
  obtain ⟨rfl, rfl⟩ : p₀ = p ∧ s₀ = s := by simpa using hs'
  obtain ⟨ha, hf⟩ := wellFormed_split hs h
  have hd := hd hf
  rw [hp] at ha
  have hk : p₀.slot = 0 ∨ p₀.slot = 1 := by simpa [Place.allows] using ha
  rcases hk with hk | hk
  · exact slot_c hk (by simp only [decodeC, hd]) h
  · exact slot_x hk (by simp only [decodeX, hd]) h

/-- An operation of slot 0. -/
theorem of_c {i : Instr} {p₀ : Pos} {s₀ : Shape} (hs : i.shape = some (p₀, s₀)) (hp : s₀.place = .c)
    (hd : decodeC p₀ (encode i) = .ok i) : Statement i := by
  intro p s hs' h
  rw [hs] at hs'
  obtain ⟨rfl, rfl⟩ : p₀ = p ∧ s₀ = s := by simpa using hs'
  have ha := (wellFormed_split hs h).1
  rw [hp] at ha
  exact slot_c (by simpa [Place.allows] using ha) hd h

/-- An operation of slot 1. -/
theorem of_x {i : Instr} {p₀ : Pos} {s₀ : Shape} (hs : i.shape = some (p₀, s₀)) (hp : s₀.place = .x)
    (hd : decodeX p₀ (encode i) = .ok i) : Statement i := by
  intro p s hs' h
  rw [hs] at hs'
  obtain ⟨rfl, rfl⟩ : p₀ = p ∧ s₀ = s := by simpa using hs'
  have ha := (wellFormed_split hs h).1
  rw [hp] at ha
  exact slot_x (by simpa [Place.allows] using ha) hd h

/-- A vector operation of slots 2 and 3: its major opcode is below 0x20. -/
theorem of_v {i : Instr} {p₀ : Pos} {s₀ : Shape} (hs : i.shape = some (p₀, s₀)) (hp : s₀.place = .v)
    (hb : (encode i).toNat < 2 ^ 31) (hd : decodeV p₀ (encode i) = .ok i) : Statement i := by
  intro p s hs' h
  rw [hs] at hs'
  obtain ⟨rfl, rfl⟩ : p₀ = p ∧ s₀ = s := by simpa using hs'
  have ha := (wellFormed_split hs h).1
  rw [hp] at ha
  have hk : p₀.slot = 2 ∨ p₀.slot = 3 := by simpa [Place.allows] using ha
  rcases hk with hk | hk
  · exact slot_v2 hk hd h
  · exact slot_v3 hk (bit_eq _ 31 false (by rw [Nat.div_eq_of_lt hb]; rfl)) hd h

/-- A vector operation of slot 2 alone. -/
theorem of_v2 {i : Instr} {p₀ : Pos} {s₀ : Shape} (hs : i.shape = some (p₀, s₀)) (hp : s₀.place = .v2)
    (hd : decodeV p₀ (encode i) = .ok i) : Statement i := by
  intro p s hs' h
  rw [hs] at hs'
  obtain ⟨rfl, rfl⟩ : p₀ = p ∧ s₀ = s := by simpa using hs'
  have ha := (wellFormed_split hs h).1
  rw [hp] at ha
  exact slot_v2 (by simpa [Place.allows] using ha) hd h

/-- A beat of slot 3: its major opcode is above 0x20. -/
theorem of_m {i : Instr} {p₀ : Pos} {s₀ : Shape} (hs : i.shape = some (p₀, s₀)) (hp : s₀.place = .m)
    (hb : 2 ^ 31 ≤ (encode i).toNat) (hd : decodeM p₀ (encode i) = .ok i) : Statement i := by
  intro p s hs' h
  rw [hs] at hs'
  obtain ⟨rfl, rfl⟩ : p₀ = p ∧ s₀ = s := by simpa using hs'
  have ha := (wellFormed_split hs h).1
  rw [hp] at ha
  have hk : p₀.slot = 3 := by simpa [Place.allows] using ha
  have hlt := (encode i).isLt
  exact slot_m hk (bit_eq _ 31 true (by rw [show (encode i).toNat / 2 ^ 31 = 1 by omega]; rfl)) hd h

/-- An event has no encoding. -/
theorem of_event {i : Instr} (hs : i.shape = none) : Statement i := by
  intro p s hs' _
  rw [hs] at hs'
  cases hs'

/-- A word of the V form with a major opcode below 0x20. -/
theorem packV_lt {m : BitVec 6} {vd va vb : BitVec 5} {pr : BitVec 4} {rm : BitVec 2} {f : BitVec 5} (h : m.toNat < 32) :
    (packV m vd va vb pr rm f).toNat < 2 ^ 31 := by
  simp only [packV, append_toNat]
  omega

/-- A word of the VI form with a major opcode below 0x20. -/
theorem packVI_lt {m : BitVec 6} {vd va : BitVec 5} {pr : BitVec 4} {imm : BitVec 12} (h : m.toNat < 32) :
    (packVI m vd va pr imm).toNat < 2 ^ 31 := by
  simp only [packVI, append_toNat]
  omega

theorem add (p : Pos) (d a b : BitVec 5) : Statement (.add p d a b) :=
  of_alu rfl rfl (fun _ => decode_add p d a b)

theorem sub (p : Pos) (d a b : BitVec 5) : Statement (.sub p d a b) :=
  of_alu rfl rfl (fun _ => decode_sub p d a b)

theorem and (p : Pos) (d a b : BitVec 5) : Statement (.and p d a b) :=
  of_alu rfl rfl (fun _ => decode_and p d a b)

theorem or (p : Pos) (d a b : BitVec 5) : Statement (.or p d a b) :=
  of_alu rfl rfl (fun _ => decode_or p d a b)

theorem xor (p : Pos) (d a b : BitVec 5) : Statement (.xor p d a b) :=
  of_alu rfl rfl (fun _ => decode_xor p d a b)

theorem andn (p : Pos) (d a b : BitVec 5) : Statement (.andn p d a b) :=
  of_alu rfl rfl (fun _ => decode_andn p d a b)

theorem shl (p : Pos) (d a b : BitVec 5) : Statement (.shl p d a b) :=
  of_alu rfl rfl (fun _ => decode_shl p d a b)

theorem shr (p : Pos) (d a b : BitVec 5) : Statement (.shr p d a b) :=
  of_alu rfl rfl (fun _ => decode_shr p d a b)

theorem sar (p : Pos) (d a b : BitVec 5) : Statement (.sar p d a b) :=
  of_alu rfl rfl (fun _ => decode_sar p d a b)

theorem min (p : Pos) (d a b : BitVec 5) : Statement (.min p d a b) :=
  of_alu rfl rfl (fun _ => decode_min p d a b)

theorem max (p : Pos) (d a b : BitVec 5) : Statement (.max p d a b) :=
  of_alu rfl rfl (fun _ => decode_max p d a b)

theorem minn (p : Pos) (d a b : BitVec 5) : Statement (.minn p d a b) :=
  of_alu rfl rfl (fun _ => decode_minn p d a b)

theorem maxn (p : Pos) (d a b : BitVec 5) : Statement (.maxn p d a b) :=
  of_alu rfl rfl (fun _ => decode_maxn p d a b)

theorem sel (p : Pos) (d a b : BitVec 5) : Statement (.sel p d a b) :=
  of_alu rfl rfl (fun _ => decode_sel p d a b)

theorem slt (p : Pos) (cc : BitVec 3) (d a b : BitVec 5) : Statement (.slt p cc d a b) :=
  of_alu rfl rfl (fun hf => decode_slt p cc d a b (of_decide_eq_true hf))

theorem mul (p : Pos) (d a b : BitVec 5) : Statement (.mul p d a b) :=
  of_alu rfl rfl (fun _ => decode_mul p d a b)

theorem mulh (p : Pos) (d a b : BitVec 5) : Statement (.mulh p d a b) :=
  of_alu rfl rfl (fun _ => decode_mulh p d a b)

theorem mulhn (p : Pos) (d a b : BitVec 5) : Statement (.mulhn p d a b) :=
  of_alu rfl rfl (fun _ => decode_mulhn p d a b)

theorem div (p : Pos) (d a b : BitVec 5) : Statement (.div p d a b) :=
  of_alu rfl rfl (fun _ => decode_div p d a b)

theorem divn (p : Pos) (d a b : BitVec 5) : Statement (.divn p d a b) :=
  of_alu rfl rfl (fun _ => decode_divn p d a b)

theorem rem (p : Pos) (d a b : BitVec 5) : Statement (.rem p d a b) :=
  of_alu rfl rfl (fun _ => decode_rem p d a b)

theorem remn (p : Pos) (d a b : BitVec 5) : Statement (.remn p d a b) :=
  of_alu rfl rfl (fun _ => decode_remn p d a b)

theorem clz (p : Pos) (d a : BitVec 5) : Statement (.clz p d a) :=
  of_alu rfl rfl (fun _ => decode_clz p d a)

theorem ctz (p : Pos) (d a : BitVec 5) : Statement (.ctz p d a) :=
  of_alu rfl rfl (fun _ => decode_ctz p d a)

theorem popc (p : Pos) (d a : BitVec 5) : Statement (.popc p d a) :=
  of_alu rfl rfl (fun _ => decode_popc p d a)

theorem addSat (p : Pos) (d a b : BitVec 5) : Statement (.addSat p d a b) :=
  of_alu rfl rfl (fun _ => decode_addSat p d a b)

theorem subSat (p : Pos) (d a b : BitVec 5) : Statement (.subSat p d a b) :=
  of_alu rfl rfl (fun _ => decode_subSat p d a b)

theorem addI (p : Pos) (d a : BitVec 5) (imm : BitVec 16) : Statement (.addI p d a imm) :=
  of_alu rfl rfl (fun _ => decode_addI p d a imm)

theorem andI (p : Pos) (d a : BitVec 5) (imm : BitVec 16) : Statement (.andI p d a imm) :=
  of_alu rfl rfl (fun _ => decode_andI p d a imm)

theorem orI (p : Pos) (d a : BitVec 5) (imm : BitVec 16) : Statement (.orI p d a imm) :=
  of_alu rfl rfl (fun _ => decode_orI p d a imm)

theorem xorI (p : Pos) (d a : BitVec 5) (imm : BitVec 16) : Statement (.xorI p d a imm) :=
  of_alu rfl rfl (fun _ => decode_xorI p d a imm)

theorem shlI (p : Pos) (d a : BitVec 5) (sh : BitVec 6) : Statement (.shlI p d a sh) :=
  of_alu rfl rfl (fun _ => decode_shlI p d a sh)

theorem shrI (p : Pos) (d a : BitVec 5) (sh : BitVec 6) : Statement (.shrI p d a sh) :=
  of_alu rfl rfl (fun _ => decode_shrI p d a sh)

theorem sarI (p : Pos) (d a : BitVec 5) (sh : BitVec 6) : Statement (.sarI p d a sh) :=
  of_alu rfl rfl (fun _ => decode_sarI p d a sh)

theorem minI (p : Pos) (d a : BitVec 5) (imm : BitVec 16) : Statement (.minI p d a imm) :=
  of_alu rfl rfl (fun _ => decode_minI p d a imm)

theorem maxI (p : Pos) (d a : BitVec 5) (imm : BitVec 16) : Statement (.maxI p d a imm) :=
  of_alu rfl rfl (fun _ => decode_maxI p d a imm)

theorem mulI (p : Pos) (d a : BitVec 5) (imm : BitVec 16) : Statement (.mulI p d a imm) :=
  of_alu rfl rfl (fun _ => decode_mulI p d a imm)

theorem lih (p : Pos) (d a : BitVec 5) (imm : BitVec 16) : Statement (.lih p d a imm) :=
  of_alu rfl rfl (fun _ => decode_lih p d a imm)

theorem bfx (p : Pos) (d a : BitVec 5) (len pos : BitVec 6) : Statement (.bfx p d a len pos) :=
  of_alu rfl rfl (fun _ => decode_bfx p d a len pos)

theorem bfi (p : Pos) (d a : BitVec 5) (len pos : BitVec 6) : Statement (.bfi p d a len pos) :=
  of_alu rfl rfl (fun _ => decode_bfi p d a len pos)

theorem br (p : Pos) (a b : BitVec 5) (cc : BitVec 3) (annul : BitVec 2) (disp : BitVec 11) : Statement (.br p a b cc annul disp) :=
  of_c rfl rfl (decode_br p a b cc annul disp)

theorem brp (p : Pos) (pr : BitVec 5) (cc : BitVec 3) (annul : BitVec 2) (disp : BitVec 11) : Statement (.brp p pr cc annul disp) :=
  of_c rfl rfl (decode_brp p pr cc annul disp)

theorem brl (p : Pos) (annul : BitVec 2) (disp : BitVec 11) : Statement (.brl p annul disp) :=
  of_c rfl rfl (decode_brl p annul disp)

theorem loop (p : Pos) (a b : BitVec 5) : Statement (.loop p a b) :=
  of_c rfl rfl (decode_loop p a b)

theorem j (p : Pos) (disp : BitVec 26) : Statement (.j p disp) :=
  of_c rfl rfl (decode_j p disp)

theorem call (p : Pos) (frame : BitVec 5) (disp : BitVec 21) : Statement (.call p frame disp) :=
  of_c rfl rfl (decode_call p frame disp)

theorem callr (p : Pos) (a frame : BitVec 5) : Statement (.callr p a frame) :=
  of_c rfl rfl (decode_callr p a frame)

theorem jr (p : Pos) (a : BitVec 5) : Statement (.jr p a) :=
  of_c rfl rfl (decode_jr p a)

theorem ret (p : Pos) (frame : BitVec 5) : Statement (.ret p frame) :=
  of_c rfl rfl (decode_ret p frame)

theorem yield (p : Pos) (n : BitVec 16) : Statement (.yield p n) :=
  of_c rfl rfl (decode_yield p n)

theorem endTask (p : Pos) : Statement (.endTask p) :=
  of_c rfl rfl (decode_endTask p)

theorem trap (p : Pos) (code : BitVec 16) : Statement (.trap p code) :=
  of_c rfl rfl (decode_trap p code)

theorem eret (p : Pos) : Statement (.eret p) :=
  of_c rfl rfl (decode_eret p)

theorem modeI (p : Pos) : Statement (.modeI p) :=
  of_c rfl rfl (decode_modeI p)

theorem modeE (p : Pos) : Statement (.modeE p) :=
  of_c rfl rfl (decode_modeE p)

theorem srr (p : Pos) (d : BitVec 5) (r : BitVec 12) : Statement (.srr p d r) :=
  of_c rfl rfl (decode_srr p d r)

theorem srw (p : Pos) (a : BitVec 5) (r : BitVec 12) : Statement (.srw p a r) :=
  of_c rfl rfl (decode_srw p a r)

theorem srs (p : Pos) (a : BitVec 5) (r : BitVec 12) : Statement (.srs p a r) :=
  of_c rfl rfl (decode_srs p a r)

theorem src (p : Pos) (a : BitVec 5) (r : BitVec 12) : Statement (.src p a r) :=
  of_c rfl rfl (decode_src p a r)

theorem waitf (p : Pos) (f : BitVec 5) (n : BitVec 16) : Statement (.waitf p f n) :=
  of_c rfl rfl (decode_waitf p f n)

theorem postf (p : Pos) (f : BitVec 5) (n : BitVec 16) : Statement (.postf p f n) :=
  of_c rfl rfl (decode_postf p f n)

theorem postr (p : Pos) (f a : BitVec 5) (n : BitVec 16) : Statement (.postr p f a n) :=
  of_c rfl rfl (decode_postr p f a n)

theorem ftest (p : Pos) (d f : BitVec 5) (n : BitVec 16) : Statement (.ftest p d f n) :=
  of_c rfl rfl (decode_ftest p d f n)

theorem gnew (p : Pos) (d a : BitVec 5) : Statement (.gnew p d a) :=
  of_c rfl rfl (decode_gnew p d a)

theorem join (p : Pos) (a : BitVec 5) : Statement (.join p a) :=
  of_c rfl rfl (decode_join p a)

theorem leave (p : Pos) (a : BitVec 5) : Statement (.leave p a) :=
  of_c rfl rfl (decode_leave p a)

theorem barw (p : Pos) (a : BitVec 5) : Statement (.barw p a) :=
  of_c rfl rfl (decode_barw p a)

theorem bara (p : Pos) (a : BitVec 5) : Statement (.bara p a) :=
  of_c rfl rfl (decode_bara p a)

theorem barg (p : Pos) (d a : BitVec 5) : Statement (.barg p d a) :=
  of_c rfl rfl (decode_barg p d a)

theorem step (p : Pos) (a : BitVec 5) : Statement (.step p a) :=
  of_c rfl rfl (decode_step p a)

theorem monitor (p : Pos) (a : BitVec 5) : Statement (.monitor p a) :=
  of_c rfl rfl (decode_monitor p a)

theorem mwait (p : Pos) (a : BitVec 5) : Statement (.mwait p a) :=
  of_c rfl rfl (decode_mwait p a)

theorem ldB (p : Pos) (d base : BitVec 5) (pol : BitVec 3) (off : BitVec 13) : Statement (.ldB p d base pol off) :=
  of_x rfl rfl (decode_ldB p d base pol off)

theorem ldH (p : Pos) (d base : BitVec 5) (pol : BitVec 3) (off : BitVec 13) : Statement (.ldH p d base pol off) :=
  of_x rfl rfl (decode_ldH p d base pol off)

theorem ldW (p : Pos) (d base : BitVec 5) (pol : BitVec 3) (off : BitVec 13) : Statement (.ldW p d base pol off) :=
  of_x rfl rfl (decode_ldW p d base pol off)

theorem ldD (p : Pos) (d base : BitVec 5) (pol : BitVec 3) (off : BitVec 13) : Statement (.ldD p d base pol off) :=
  of_x rfl rfl (decode_ldD p d base pol off)

theorem ldBN (p : Pos) (d base : BitVec 5) (pol : BitVec 3) (off : BitVec 13) : Statement (.ldBN p d base pol off) :=
  of_x rfl rfl (decode_ldBN p d base pol off)

theorem ldHN (p : Pos) (d base : BitVec 5) (pol : BitVec 3) (off : BitVec 13) : Statement (.ldHN p d base pol off) :=
  of_x rfl rfl (decode_ldHN p d base pol off)

theorem ldWN (p : Pos) (d base : BitVec 5) (pol : BitVec 3) (off : BitVec 13) : Statement (.ldWN p d base pol off) :=
  of_x rfl rfl (decode_ldWN p d base pol off)

theorem stB (p : Pos) (d base : BitVec 5) (pol : BitVec 3) (off : BitVec 13) : Statement (.stB p d base pol off) :=
  of_x rfl rfl (decode_stB p d base pol off)

theorem stH (p : Pos) (d base : BitVec 5) (pol : BitVec 3) (off : BitVec 13) : Statement (.stH p d base pol off) :=
  of_x rfl rfl (decode_stH p d base pol off)

theorem stW (p : Pos) (d base : BitVec 5) (pol : BitVec 3) (off : BitVec 13) : Statement (.stW p d base pol off) :=
  of_x rfl rfl (decode_stW p d base pol off)

theorem stD (p : Pos) (d base : BitVec 5) (pol : BitVec 3) (off : BitVec 13) : Statement (.stD p d base pol off) :=
  of_x rfl rfl (decode_stD p d base pol off)

theorem ldv (p : Pos) (d base : BitVec 5) (pol : BitVec 3) (off : BitVec 13) : Statement (.ldv p d base pol off) :=
  of_x rfl rfl (decode_ldv p d base pol off)

theorem stv (p : Pos) (d base : BitVec 5) (pol : BitVec 3) (off : BitVec 13) : Statement (.stv p d base pol off) :=
  of_x rfl rfl (decode_stv p d base pol off)

theorem ldq (p : Pos) (d a b : BitVec 5) (pol : BitVec 3) : Statement (.ldq p d a b pol) :=
  of_x rfl rfl (decode_ldq p d a b pol)

theorem stq (p : Pos) (d a b : BitVec 5) (pol : BitVec 3) : Statement (.stq p d a b pol) :=
  of_x rfl rfl (decode_stq p d a b pol)

theorem vgth (p : Pos) (d a b : BitVec 5) (pol : BitVec 3) (pred : BitVec 4) (size : BitVec 2) : Statement (.vgth p d a b pol pred size) :=
  of_x rfl rfl (decode_vgth p d a b pol pred size)

theorem vsct (p : Pos) (d a b : BitVec 5) (pol : BitVec 3) (pred : BitVec 4) (size : BitVec 2) : Statement (.vsct p d a b pol pred size) :=
  of_x rfl rfl (decode_vsct p d a b pol pred size)

theorem amo (p : Pos) (d a b : BitVec 5) (op : BitVec 4) (dword far : Bool) : Statement (.amo p d a b op dword far) :=
  of_x rfl rfl (decode_amo p d a b op dword far)

theorem acqX (p : Pos) (a : BitVec 5) : Statement (.acqX p a) :=
  of_x rfl rfl (decode_acqX p a)

theorem acqS (p : Pos) (a : BitVec 5) : Statement (.acqS p a) :=
  of_x rfl rfl (decode_acqS p a)

theorem rel (p : Pos) (a : BitVec 5) : Statement (.rel p a) :=
  of_x rfl rfl (decode_rel p a)

theorem fenceCore (p : Pos) : Statement (.fenceCore p) :=
  of_x rfl rfl (decode_fenceCore p)

theorem fenceDev (p : Pos) : Statement (.fenceDev p) :=
  of_x rfl rfl (decode_fenceDev p)

theorem fenceFab (p : Pos) : Statement (.fenceFab p) :=
  of_x rfl rfl (decode_fenceFab p)

theorem invro (p : Pos) (a b : BitVec 5) : Statement (.invro p a b) :=
  of_x rfl rfl (decode_invro p a b)

theorem flushr (p : Pos) (a b : BitVec 5) : Statement (.flushr p a b) :=
  of_x rfl rfl (decode_flushr p a b)

theorem phase (p : Pos) (a : BitVec 5) : Statement (.phase p a) :=
  of_x rfl rfl (decode_phase p a)

theorem pref (p : Pos) (base : BitVec 5) (pol : BitVec 3) (off : BitVec 13) : Statement (.pref p base pol off) :=
  of_x rfl rfl (decode_pref p base pol off)

theorem xferSv (p : Pos) (d a lane : BitVec 5) : Statement (.xferSv p d a lane) :=
  of_x rfl rfl (decode_xferSv p d a lane)

theorem xferVs (p : Pos) (d a lane : BitVec 5) : Statement (.xferVs p d a lane) :=
  of_x rfl rfl (decode_xferVs p d a lane)

theorem vext (p : Pos) (d a b fmt : BitVec 5) : Statement (.vext p d a b fmt) :=
  of_x rfl rfl (decode_vext p d a b fmt)

theorem ewr (p : Pos) (a : BitVec 5) (r : BitVec 16) : Statement (.ewr p a r) :=
  of_x rfl rfl (decode_ewr p a r)

theorem erd (p : Pos) (d : BitVec 5) (r : BitVec 16) : Statement (.erd p d r) :=
  of_x rfl rfl (decode_erd p d r)

theorem ego (p : Pos) (d : BitVec 5) (ch : BitVec 2) : Statement (.ego p d ch) :=
  of_x rfl rfl (decode_ego p d ch)

theorem egoP (p : Pos) (d a : BitVec 5) (ch : BitVec 2) : Statement (.egoP p d a ch) :=
  of_x rfl rfl (decode_egoP p d a ch)

theorem ecan (p : Pos) (ch : BitVec 2) : Statement (.ecan p ch) :=
  of_x rfl rfl (decode_ecan p ch)

theorem twait (p : Pos) (a : BitVec 5) (ch : BitVec 2) : Statement (.twait p a ch) :=
  of_x rfl rfl (decode_twait p a ch)

theorem twaitn (p : Pos) (a : BitVec 5) (ch : BitVec 2) : Statement (.twaitn p a ch) :=
  of_x rfl rfl (decode_twaitn p a ch)

theorem qfence (p : Pos) (mask : BitVec 4) : Statement (.qfence p mask) :=
  of_x rfl rfl (decode_qfence p mask)

theorem pbinv (p : Pos) (a : BitVec 5) : Statement (.pbinv p a) :=
  of_x rfl rfl (decode_pbinv p a)

theorem bcast (p : Pos) (a b : BitVec 5) : Statement (.bcast p a b) :=
  of_x rfl rfl (decode_bcast p a b)

theorem blatch (p : Pos) (a : BitVec 5) : Statement (.blatch p a) :=
  of_x rfl rfl (decode_blatch p a)

theorem rsgo (p : Pos) (d a b : BitVec 5) : Statement (.rsgo p d a b) :=
  of_x rfl rfl (decode_rsgo p d a b)

theorem rsstat (p : Pos) (d a : BitVec 5) : Statement (.rsstat p d a) :=
  of_x rfl rfl (decode_rsstat p d a)

theorem rsstop (p : Pos) (a : BitVec 5) : Statement (.rsstop p a) :=
  of_x rfl rfl (decode_rsstop p a)

theorem ckpt (p : Pos) (a b : BitVec 5) : Statement (.ckpt p a b) :=
  of_x rfl rfl (decode_ckpt p a b)

theorem slopen (p : Pos) (h : BitVec 3) (d a : BitVec 5) : Statement (.slopen p h d a) :=
  of_x rfl rfl (decode_slopen p h d a)

theorem slbind (p : Pos) (h : BitVec 3) (d a b : BitVec 5) : Statement (.slbind p h d a b) :=
  of_x rfl rfl (decode_slbind p h d a b)

theorem sldone (p : Pos) (h : BitVec 3) : Statement (.sldone p h) :=
  of_x rfl rfl (decode_sldone p h)

theorem slgdone (p : Pos) (h : BitVec 3) : Statement (.slgdone p h) :=
  of_x rfl rfl (decode_slgdone p h)

theorem slstat (p : Pos) (h : BitVec 3) (d a : BitVec 5) : Statement (.slstat p h d a) :=
  of_x rfl rfl (decode_slstat p h d a)

theorem sljump (p : Pos) (h : BitVec 3) (d a : BitVec 5) : Statement (.sljump p h d a) :=
  of_x rfl rfl (decode_sljump p h d a)

theorem slpfx (p : Pos) (h : BitVec 3) (d : BitVec 5) : Statement (.slpfx p h d) :=
  of_x rfl rfl (decode_slpfx p h d)

theorem slinfo (p : Pos) (h : BitVec 3) (d a b : BitVec 5) : Statement (.slinfo p h d a b) :=
  of_x rfl rfl (decode_slinfo p h d a b)

theorem slwait (p : Pos) (h : BitVec 3) (a : BitVec 5) : Statement (.slwait p h a) :=
  of_x rfl rfl (decode_slwait p h a)

theorem slretire (p : Pos) (h : BitVec 3) (d : BitVec 5) : Statement (.slretire p h d) :=
  of_x rfl rfl (decode_slretire p h d)

theorem slrecycle (p : Pos) (h : BitVec 3) (d : BitVec 5) : Statement (.slrecycle p h d) :=
  of_x rfl rfl (decode_slrecycle p h d)

theorem slrefresh (p : Pos) (h : BitVec 3) (a : BitVec 5) : Statement (.slrefresh p h a) :=
  of_x rfl rfl (decode_slrefresh p h a)

theorem slclose (p : Pos) (h : BitVec 3) : Statement (.slclose p h) :=
  of_x rfl rfl (decode_slclose p h)

theorem seedw (p : Pos) (k a : BitVec 5) : Statement (.seedw p k a) :=
  of_x rfl rfl (decode_seedw p k a)

theorem seedr (p : Pos) (d k : BitVec 5) : Statement (.seedr p d k) :=
  of_x rfl rfl (decode_seedr p d k)

theorem vtgr (p : Pos) (d a : BitVec 5) : Statement (.vtgr p d a) :=
  of_x rfl rfl (decode_vtgr p d a)

theorem pcnt (p : Pos) (d : BitVec 5) (n : BitVec 8) : Statement (.pcnt p d n) :=
  of_x rfl rfl (decode_pcnt p d n)

theorem vadd (p : Pos) (vd va vb : BitVec 5) (pred : BitVec 4) (rm : BitVec 2) (fmt : BitVec 5) : Statement (.vadd p vd va vb pred rm fmt) :=
  of_v rfl rfl (packV_lt (by decide)) (decode_vadd p vd va vb pred rm fmt)

theorem vsub (p : Pos) (vd va vb : BitVec 5) (pred : BitVec 4) (rm : BitVec 2) (fmt : BitVec 5) : Statement (.vsub p vd va vb pred rm fmt) :=
  of_v rfl rfl (packV_lt (by decide)) (decode_vsub p vd va vb pred rm fmt)

theorem vmul (p : Pos) (vd va vb : BitVec 5) (pred : BitVec 4) (rm : BitVec 2) (fmt : BitVec 5) : Statement (.vmul p vd va vb pred rm fmt) :=
  of_v rfl rfl (packV_lt (by decide)) (decode_vmul p vd va vb pred rm fmt)

theorem vfma (p : Pos) (vd va vb : BitVec 5) (pred : BitVec 4) (rm : BitVec 2) (fmt : BitVec 5) : Statement (.vfma p vd va vb pred rm fmt) :=
  of_v rfl rfl (packV_lt (by decide)) (decode_vfma p vd va vb pred rm fmt)

theorem vfms (p : Pos) (vd va vb : BitVec 5) (pred : BitVec 4) (rm : BitVec 2) (fmt : BitVec 5) : Statement (.vfms p vd va vb pred rm fmt) :=
  of_v rfl rfl (packV_lt (by decide)) (decode_vfms p vd va vb pred rm fmt)

theorem vfnma (p : Pos) (vd va vb : BitVec 5) (pred : BitVec 4) (rm : BitVec 2) (fmt : BitVec 5) : Statement (.vfnma p vd va vb pred rm fmt) :=
  of_v rfl rfl (packV_lt (by decide)) (decode_vfnma p vd va vb pred rm fmt)

theorem vmin (p : Pos) (vd va vb : BitVec 5) (pred : BitVec 4) (fmt : BitVec 5) : Statement (.vmin p vd va vb pred fmt) :=
  of_v rfl rfl (packV_lt (by decide)) (decode_vmin p vd va vb pred fmt)

theorem vmax (p : Pos) (vd va vb : BitVec 5) (pred : BitVec 4) (fmt : BitVec 5) : Statement (.vmax p vd va vb pred fmt) :=
  of_v rfl rfl (packV_lt (by decide)) (decode_vmax p vd va vb pred fmt)

theorem vabs (p : Pos) (vd va : BitVec 5) (pred : BitVec 4) (rm : BitVec 2) (fmt : BitVec 5) : Statement (.vabs p vd va pred rm fmt) :=
  of_v rfl rfl (packV_lt (by decide)) (decode_vabs p vd va pred rm fmt)

theorem vneg (p : Pos) (vd va : BitVec 5) (pred : BitVec 4) (rm : BitVec 2) (fmt : BitVec 5) : Statement (.vneg p vd va pred rm fmt) :=
  of_v rfl rfl (packV_lt (by decide)) (decode_vneg p vd va pred rm fmt)

theorem vcmpEq (p : Pos) (pd : BitVec 4) (va vb : BitVec 5) (pred : BitVec 4) (fmt : BitVec 5) : Statement (.vcmpEq p pd va vb pred fmt) :=
  of_v rfl rfl (packV_lt (by decide)) (decode_vcmpEq p pd va vb pred fmt)

theorem vcmpNe (p : Pos) (pd : BitVec 4) (va vb : BitVec 5) (pred : BitVec 4) (fmt : BitVec 5) : Statement (.vcmpNe p pd va vb pred fmt) :=
  of_v rfl rfl (packV_lt (by decide)) (decode_vcmpNe p pd va vb pred fmt)

theorem vcmpLt (p : Pos) (pd : BitVec 4) (va vb : BitVec 5) (pred : BitVec 4) (fmt : BitVec 5) : Statement (.vcmpLt p pd va vb pred fmt) :=
  of_v rfl rfl (packV_lt (by decide)) (decode_vcmpLt p pd va vb pred fmt)

theorem vcmpGe (p : Pos) (pd : BitVec 4) (va vb : BitVec 5) (pred : BitVec 4) (fmt : BitVec 5) : Statement (.vcmpGe p pd va vb pred fmt) :=
  of_v rfl rfl (packV_lt (by decide)) (decode_vcmpGe p pd va vb pred fmt)

theorem vsel (p : Pos) (vd va vb : BitVec 5) (pred : BitVec 4) (fmt : BitVec 5) : Statement (.vsel p vd va vb pred fmt) :=
  of_v rfl rfl (packV_lt (by decide)) (decode_vsel p vd va vb pred fmt)

theorem vand (p : Pos) (vd va vb : BitVec 5) (pred : BitVec 4) (fmt : BitVec 5) : Statement (.vand p vd va vb pred fmt) :=
  of_v rfl rfl (packV_lt (by decide)) (decode_vand p vd va vb pred fmt)

theorem vor (p : Pos) (vd va vb : BitVec 5) (pred : BitVec 4) (fmt : BitVec 5) : Statement (.vor p vd va vb pred fmt) :=
  of_v rfl rfl (packV_lt (by decide)) (decode_vor p vd va vb pred fmt)

theorem vxor (p : Pos) (vd va vb : BitVec 5) (pred : BitVec 4) (fmt : BitVec 5) : Statement (.vxor p vd va vb pred fmt) :=
  of_v rfl rfl (packV_lt (by decide)) (decode_vxor p vd va vb pred fmt)

theorem vnot (p : Pos) (vd va : BitVec 5) (pred : BitVec 4) (fmt : BitVec 5) : Statement (.vnot p vd va pred fmt) :=
  of_v rfl rfl (packV_lt (by decide)) (decode_vnot p vd va pred fmt)

theorem vshl (p : Pos) (vd va vb : BitVec 5) (pred : BitVec 4) (fmt : BitVec 5) : Statement (.vshl p vd va vb pred fmt) :=
  of_v rfl rfl (packV_lt (by decide)) (decode_vshl p vd va vb pred fmt)

theorem vshr (p : Pos) (vd va vb : BitVec 5) (pred : BitVec 4) (fmt : BitVec 5) : Statement (.vshr p vd va vb pred fmt) :=
  of_v rfl rfl (packV_lt (by decide)) (decode_vshr p vd va vb pred fmt)

theorem vsar (p : Pos) (vd va vb : BitVec 5) (pred : BitVec 4) (fmt : BitVec 5) : Statement (.vsar p vd va vb pred fmt) :=
  of_v rfl rfl (packV_lt (by decide)) (decode_vsar p vd va vb pred fmt)

theorem vdot (p : Pos) (vd va vb : BitVec 5) (pred : BitVec 4) (rm : BitVec 2) : Statement (.vdot p vd va vb pred rm) :=
  of_v rfl rfl (packV_lt (by decide)) (decode_vdot p vd va vb pred rm)

theorem vli (p : Pos) (vd fmt : BitVec 5) (pred : BitVec 4) (imm : BitVec 12) : Statement (.vli p vd fmt pred imm) :=
  of_v rfl rfl (packVI_lt (by decide)) (decode_vli p vd fmt pred imm)

theorem vmov (p : Pos) (vd va : BitVec 5) : Statement (.vmov p vd va) :=
  of_v rfl rfl (packV_lt (by decide)) (decode_vmov p vd va)

theorem vdiv (p : Pos) (vd va vb : BitVec 5) (pred : BitVec 4) (rm : BitVec 2) (fmt : BitVec 5) : Statement (.vdiv p vd va vb pred rm fmt) :=
  of_v2 rfl rfl (decode_vdiv p vd va vb pred rm fmt)

theorem vsqrt (p : Pos) (vd va : BitVec 5) (pred : BitVec 4) (rm : BitVec 2) (fmt : BitVec 5) : Statement (.vsqrt p vd va pred rm fmt) :=
  of_v2 rfl rfl (decode_vsqrt p vd va pred rm fmt)

theorem vrcp (p : Pos) (vd va : BitVec 5) (pred : BitVec 4) (rm : BitVec 2) (fmt : BitVec 5) : Statement (.vrcp p vd va pred rm fmt) :=
  of_v2 rfl rfl (decode_vrcp p vd va pred rm fmt)

theorem vrsq (p : Pos) (vd va : BitVec 5) (pred : BitVec 4) (rm : BitVec 2) (fmt : BitVec 5) : Statement (.vrsq p vd va pred rm fmt) :=
  of_v2 rfl rfl (decode_vrsq p vd va pred rm fmt)

theorem vexp2 (p : Pos) (vd va : BitVec 5) (pred : BitVec 4) (rm : BitVec 2) (fmt : BitVec 5) : Statement (.vexp2 p vd va pred rm fmt) :=
  of_v2 rfl rfl (decode_vexp2 p vd va pred rm fmt)

theorem vlog2 (p : Pos) (vd va : BitVec 5) (pred : BitVec 4) (rm : BitVec 2) (fmt : BitVec 5) : Statement (.vlog2 p vd va pred rm fmt) :=
  of_v2 rfl rfl (decode_vlog2 p vd va pred rm fmt)

theorem vtanh (p : Pos) (vd va : BitVec 5) (pred : BitVec 4) (rm : BitVec 2) (fmt : BitVec 5) : Statement (.vtanh p vd va pred rm fmt) :=
  of_v2 rfl rfl (decode_vtanh p vd va pred rm fmt)

theorem vsinpi (p : Pos) (vd va : BitVec 5) (pred : BitVec 4) (rm : BitVec 2) (fmt : BitVec 5) : Statement (.vsinpi p vd va pred rm fmt) :=
  of_v2 rfl rfl (decode_vsinpi p vd va pred rm fmt)

theorem vcospi (p : Pos) (vd va : BitVec 5) (pred : BitVec 4) (rm : BitVec 2) (fmt : BitVec 5) : Statement (.vcospi p vd va pred rm fmt) :=
  of_v2 rfl rfl (decode_vcospi p vd va pred rm fmt)

theorem vredSum (p : Pos) (vd va : BitVec 5) (pred : BitVec 4) (rm : BitVec 2) (fmt : BitVec 5) : Statement (.vredSum p vd va pred rm fmt) :=
  of_v2 rfl rfl (decode_vredSum p vd va pred rm fmt)

theorem vredMax (p : Pos) (vd va : BitVec 5) (pred : BitVec 4) (fmt : BitVec 5) : Statement (.vredMax p vd va pred fmt) :=
  of_v2 rfl rfl (decode_vredMax p vd va pred fmt)

theorem vredMin (p : Pos) (vd va : BitVec 5) (pred : BitVec 4) (fmt : BitVec 5) : Statement (.vredMin p vd va pred fmt) :=
  of_v2 rfl rfl (decode_vredMin p vd va pred fmt)

theorem vmaxi (p : Pos) (vd va : BitVec 5) (pred : BitVec 4) (fmt : BitVec 5) : Statement (.vmaxi p vd va pred fmt) :=
  of_v2 rfl rfl (decode_vmaxi p vd va pred fmt)

theorem vshuf (p : Pos) (vd va vb : BitVec 5) (entry : BitVec 6) : Statement (.vshuf p vd va vb entry) :=
  of_v2 rfl rfl (decode_vshuf p vd va vb entry)

theorem vpld (p : Pos) (va vb : BitVec 5) (entry : BitVec 6) : Statement (.vpld p va vb entry) :=
  of_v2 rfl rfl (decode_vpld p va vb entry)

theorem vpsw (p : Pos) : Statement (.vpsw p) :=
  of_v2 rfl rfl (decode_vpsw p)

theorem vcvt (p : Pos) (vd va srcFmt : BitVec 5) (pred : BitVec 4) (rm : BitVec 2) (fmt : BitVec 5) : Statement (.vcvt p vd va srcFmt pred rm fmt) :=
  of_v2 rfl rfl (decode_vcvt p vd va srcFmt pred rm fmt)

theorem vnr (p : Pos) (vd va : BitVec 5) (run block : BitVec 2) (group rotate : Bool) (seed : BitVec 4) (fmt : BitVec 5) : Statement (.vnr p vd va run block group rotate seed fmt) :=
  of_v2 rfl rfl (decode_vnr p vd va run block group rotate seed fmt)

theorem vwd (p : Pos) (vd va : BitVec 5) (run block : BitVec 2) (rotate : Bool) (seed : BitVec 4) (fmt : BitVec 5) : Statement (.vwd p vd va run block rotate seed fmt) :=
  of_v2 rfl rfl (decode_vwd p vd va run block rotate seed fmt)

theorem vrot (p : Pos) (vd va : BitVec 5) (block : BitVec 2) (seed : BitVec 4) (fmt : BitVec 5) : Statement (.vrot p vd va block seed fmt) :=
  of_v2 rfl rfl (decode_vrot p vd va block seed fmt)

theorem vtag (p : Pos) (vd va : BitVec 5) (rot grp : BitVec 2) (seed : BitVec 4) (fmt : BitVec 5) : Statement (.vtag p vd va rot grp seed fmt) :=
  of_v2 rfl rfl (decode_vtag p vd va rot grp seed fmt)

theorem pand (p : Pos) (pd pa pb : BitVec 4) : Statement (.pand p pd pa pb) :=
  of_v2 rfl rfl (decode_pand p pd pa pb)

theorem por (p : Pos) (pd pa pb : BitVec 4) : Statement (.por p pd pa pb) :=
  of_v2 rfl rfl (decode_por p pd pa pb)

theorem pxor (p : Pos) (pd pa pb : BitVec 4) : Statement (.pxor p pd pa pb) :=
  of_v2 rfl rfl (decode_pxor p pd pa pb)

theorem pnot (p : Pos) (pd pa : BitVec 4) : Statement (.pnot p pd pa) :=
  of_v2 rfl rfl (decode_pnot p pd pa)

theorem pfirst (p : Pos) (pd pa : BitVec 4) : Statement (.pfirst p pd pa) :=
  of_v2 rfl rfl (decode_pfirst p pd pa)

theorem pset (p : Pos) (pd : BitVec 4) (imm : BitVec 12) : Statement (.pset p pd imm) :=
  of_v2 rfl rfl (decode_pset p pd imm)

theorem mset (p : Pos) (fa fb : BitVec 5) (grp : BitVec 2) (zp : Bool) (reg : BitVec 5) : Statement (.mset p fa fb grp zp reg) :=
  of_m rfl rfl (by
    show 2 ^ 31 ≤ ((0x26 : BitVec 6) ++ fa ++ fb ++ grp ++ BitVec.ofBool zp ++ reg ++ (0 : BitVec 8)).toNat
    simp only [append_toNat, BitVec.toNat_ofNat, BitVec.ofNat_eq_ofNat]
    omega) (decode_mset p fa fb grp zp reg)

theorem mload (p : Pos) (latch : BitVec 2) (desc meta_ : Bool) (row : BitVec 8) (half : Bool) (reg fmt : BitVec 5) : Statement (.mload p latch desc meta_ row half reg fmt) :=
  of_m rfl rfl (by
    show 2 ^ 31 ≤ ((0x21 : BitVec 6) ++ latch ++ BitVec.ofBool desc ++ BitVec.ofBool meta_ ++ row ++ BitVec.ofBool half ++ reg ++ (0 : BitVec 3) ++ fmt).toNat
    simp only [append_toNat, BitVec.toNat_ofNat, BitVec.ofNat_eq_ofNat]
    omega) (decode_mload p latch desc meta_ row half reg fmt)

theorem mfeed (p : Pos) (latch : BitVec 2) (tile : BitVec 3) (row : BitVec 7) (ovw desc half : Bool) (reg : BitVec 5) : Statement (.mfeed p latch tile row ovw desc half reg) :=
  of_m rfl rfl (by
    show 2 ^ 31 ≤ ((0x22 : BitVec 6) ++ latch ++ tile ++ row ++ BitVec.ofBool ovw ++ BitVec.ofBool desc ++ BitVec.ofBool half ++ reg ++ (0 : BitVec 6)).toNat
    simp only [append_toNat, BitVec.toNat_ofNat, BitVec.ofNat_eq_ofNat]
    omega) (decode_mfeed p latch tile row ovw desc half reg)

theorem mdrain (p : Pos) (vd : BitVec 5) (tile : BitVec 3) (row : BitVec 7) (seg : BitVec 2) (zero : Bool) (rm : BitVec 2) (fmt : BitVec 5) : Statement (.mdrain p vd tile row seg zero rm fmt) :=
  of_m rfl rfl (by
    show 2 ^ 31 ≤ ((0x23 : BitVec 6) ++ vd ++ tile ++ row ++ seg ++ BitVec.ofBool zero ++ rm ++ (0 : BitVec 1) ++ fmt).toNat
    simp only [append_toNat, BitVec.toNat_ofNat, BitVec.ofNat_eq_ofNat]
    omega) (decode_mdrain p vd tile row seg zero rm fmt)

theorem mfill (p : Pos) (va : BitVec 5) (tile : BitVec 3) (row : BitVec 7) (seg : BitVec 2) (fmt : BitVec 5) : Statement (.mfill p va tile row seg fmt) :=
  of_m rfl rfl (by
    show 2 ^ 31 ≤ ((0x24 : BitVec 6) ++ va ++ tile ++ row ++ seg ++ (0 : BitVec 4) ++ fmt).toNat
    simp only [append_toNat, BitVec.toNat_ofNat, BitVec.ofNat_eq_ofNat]
    omega) (decode_mfill p va tile row seg fmt)

theorem mzero (p : Pos) (tile : BitVec 3) (row : BitVec 7) (cnt : BitVec 8) (clear : Bool) : Statement (.mzero p tile row cnt clear) :=
  of_m rfl rfl (by
    show 2 ^ 31 ≤ ((0x25 : BitVec 6) ++ tile ++ row ++ cnt ++ BitVec.ofBool clear ++ (0 : BitVec 7)).toNat
    simp only [append_toNat, BitVec.toNat_ofNat, BitVec.ofNat_eq_ofNat]
    omega) (decode_mzero p tile row cnt clear)

theorem rndRead (d : BitVec 5) : Statement (.rndRead d) :=
  of_event rfl

theorem postDelivery : Statement .postDelivery :=
  of_event rfl

theorem taggedSendLanded (g inc : Nat) : Statement (.taggedSendLanded g inc) :=
  of_event rfl

theorem monitorWake (core slot : Nat) : Statement (.monitorWake core slot) :=
  of_event rfl

theorem mwaitTimeout : Statement .mwaitTimeout :=
  of_event rfl

theorem farAccessAck (sector : Nat) : Statement (.farAccessAck sector) :=
  of_event rfl

theorem acqRetry : Statement .acqRetry :=
  of_event rfl

theorem phaseWindowEnd : Statement .phaseWindowEnd :=
  of_event rfl

theorem channelFaultWrite (ch : BitVec 2) : Statement (.channelFaultWrite ch) :=
  of_event rfl

theorem copyCommandStart (ch : BitVec 2) : Statement (.copyCommandStart ch) :=
  of_event rfl

theorem copyCommandComplete (ch : BitVec 2) : Statement (.copyCommandComplete ch) :=
  of_event rfl

theorem copyChannelFault (ch : BitVec 2) : Statement (.copyChannelFault ch) :=
  of_event rfl

theorem calendarRotationStart : Statement .calendarRotationStart :=
  of_event rfl

theorem calendarLineIssue (ch : BitVec 2) : Statement (.calendarLineIssue ch) :=
  of_event rfl

theorem calendarLineRead (k : Nat) : Statement (.calendarLineRead k) :=
  of_event rfl

theorem calendarLineLanding (k : Nat) : Statement (.calendarLineLanding k) :=
  of_event rfl

theorem calendarHold (k delay : Nat) : Statement (.calendarHold k delay) :=
  of_event rfl

theorem busArrival : Statement .busArrival :=
  of_event rfl

theorem flowstoneSoGranted (r : Nat) : Statement (.flowstoneSoGranted r) :=
  of_event rfl

theorem flowstoneRowSend (r : Nat) : Statement (.flowstoneRowSend r) :=
  of_event rfl

theorem flowstoneRowReceive (k : Pkt) : Statement (.flowstoneRowReceive k) :=
  of_event rfl

theorem flowstoneRowAck (r : Nat) (k : Pkt) : Statement (.flowstoneRowAck r k) :=
  of_event rfl

theorem flowstoneCommit (r : Nat) : Statement (.flowstoneCommit r) :=
  of_event rfl

theorem flowstoneRunDone (r : Nat) : Statement (.flowstoneRunDone r) :=
  of_event rfl

theorem flowstoneFault (r : Nat) (cause detail : Nat) : Statement (.flowstoneFault r cause detail) :=
  of_event rfl

theorem ckptChunkSend (r : Nat) : Statement (.ckptChunkSend r) :=
  of_event rfl

theorem sweepSignal (k : Pkt) : Statement (.sweepSignal k) :=
  of_event rfl

theorem patternEntryWrite : Statement .patternEntryWrite :=
  of_event rfl

theorem latchRowWrite : Statement .latchRowWrite :=
  of_event rfl

theorem tileRowLanding : Statement .tileRowLanding :=
  of_event rfl

theorem resultLands : Statement .resultLands :=
  of_event rfl

theorem freezeEnd : Statement .freezeEnd :=
  of_event rfl

theorem trapEntry (cause : BitVec 8) (mask : BitVec 4) (taddr detail : Word) : Statement (.trapEntry cause mask taddr detail) :=
  of_event rfl

theorem interruptTaken : Statement .interruptTaken :=
  of_event rfl

theorem breakpoint : Statement .breakpoint :=
  of_event rfl

theorem budgetOverrun : Statement .budgetOverrun :=
  of_event rfl

theorem forcedPreemption : Statement .forcedPreemption :=
  of_event rfl

theorem contextRestore (k : Nat) : Statement (.contextRestore k) :=
  of_event rfl

theorem snapshotReplay : Statement .snapshotReplay :=
  of_event rfl

theorem pageFaultAnswer (who : Faulted) (mapped : Bool) : Statement (.pageFaultAnswer who mapped) :=
  of_event rfl

theorem waitStallYield : Statement .waitStallYield :=
  of_event rfl

theorem parkedContextReady (slot : Nat) : Statement (.parkedContextReady slot) :=
  of_event rfl

theorem idleSwitchIn : Statement .idleSwitchIn :=
  of_event rfl

theorem taskEndReport : Statement .taskEndReport :=
  of_event rfl

theorem quantumBoundary : Statement .quantumBoundary :=
  of_event rfl

theorem sumpFilterClear (stack : Nat) : Statement (.sumpFilterClear stack) :=
  of_event rfl

theorem scrubPass (pa : Nat) (inSump : Bool) (found : Nat) : Statement (.scrubPass pa inSump found) :=
  of_event rfl

theorem flitReceive (l : Nat) (passed oldKey : Bool) (f : FlitIn) : Statement (.flitReceive l passed oldKey f) :=
  of_event rfl

theorem transitForward (k : Pkt) : Statement (.transitForward k) :=
  of_event rfl

theorem routeTableLoad (table : List (Nat × Nat)) : Statement (.routeTableLoad table) :=
  of_event rfl

theorem requestResendTimer (dst stream num : Nat) : Statement (.requestResendTimer dst stream num) :=
  of_event rfl

theorem mappedRequestSend (k : Pkt) : Statement (.mappedRequestSend k) :=
  of_event rfl

theorem fabricRequestArrival (k : Pkt) : Statement (.fabricRequestArrival k) :=
  of_event rfl

theorem fabricResponseArrival (k : Pkt) : Statement (.fabricResponseArrival k) :=
  of_event rfl

theorem portPacketArrival (k : Pkt) : Statement (.portPacketArrival k) :=
  of_event rfl

theorem multicastMemberArrival (l : Nat) (k : Pkt) : Statement (.multicastMemberArrival l k) :=
  of_event rfl

theorem multicastMerge (l src stream num : Nat) (word : Word) (ord : Option Nat) : Statement (.multicastMerge l src stream num word ord) :=
  of_event rfl

theorem ackWordMerge (core launch : Nat) (word : Word) (ord : Option Nat) : Statement (.ackWordMerge core launch word ord) :=
  of_event rfl

theorem ackWordRead (d : BitVec 5) : Statement (.ackWordRead d) :=
  of_event rfl

theorem collectiveCombine (group op low : Nat) (k : Pkt) : Statement (.collectiveCombine group op low k) :=
  of_event rfl

theorem collectiveResult (group op : Nat) (k : Pkt) : Statement (.collectiveResult group op k) :=
  of_event rfl

theorem linkModeWrite (l : Nat) (w : Word) : Statement (.linkModeWrite l w) :=
  of_event rfl

theorem linkKeyInstall (l : Nat) (key : BitVec 256) (salt : BitVec 16) : Statement (.linkKeyInstall l key salt) :=
  of_event rfl

theorem queueService : Statement .queueService :=
  of_event rfl

theorem notifyReport (sector : Nat) : Statement (.notifyReport sector) :=
  of_event rfl

theorem nbaseWrite (w : Word) : Statement (.nbaseWrite w) :=
  of_event rfl

theorem signalAck (core slot : Nat) : Statement (.signalAck core slot) :=
  of_event rfl

theorem launch (uid : Nat) : Statement (.launch uid) :=
  of_event rfl

theorem launchRelease (uid : Nat) : Statement (.launchRelease uid) :=
  of_event rfl

theorem bufs (uid : Nat) : Statement (.bufs uid) :=
  of_event rfl

theorem signal (uid : Nat) : Statement (.signal uid) :=
  of_event rfl

theorem waitso (uid : Nat) : Statement (.waitso uid) :=
  of_event rfl

theorem graph (uid : Nat) : Statement (.graph uid) :=
  of_event rfl

theorem graphNodeDispatch (uid node : Nat) : Statement (.graphNodeDispatch uid node) :=
  of_event rfl

theorem patch (uid : Nat) : Statement (.patch uid) :=
  of_event rfl

theorem reshard (uid : Nat) : Statement (.reshard uid) :=
  of_event rfl

theorem horizon (uid : Nat) : Statement (.horizon uid) :=
  of_event rfl

theorem pkCkpt (uid : Nat) : Statement (.pkCkpt uid) :=
  of_event rfl

theorem packetComplete (uid : Nat) : Statement (.packetComplete uid) :=
  of_event rfl

theorem hostControlRead (addr : Nat) : Statement (.hostControlRead addr) :=
  of_event rfl

theorem hostControlWrite (addr : Nat) (w : Word) : Statement (.hostControlWrite addr w) :=
  of_event rfl

theorem tlbInvalidate (launch : Nat) (range : Option (Nat × Nat)) : Statement (.tlbInvalidate launch range) :=
  of_event rfl

theorem mrExt (i : Nat) (digest : List Byte) : Statement (.mrExt i digest) :=
  of_event rfl

theorem powerOnBoot (steps : List BootStep) : Statement (.powerOnBoot steps) :=
  of_event rfl

theorem getVersion (peer : Nat) : Statement (.getVersion peer) :=
  of_event rfl

theorem getCapabilities (peer : Nat) : Statement (.getCapabilities peer) :=
  of_event rfl

theorem negotiateAlgorithms (peer : Nat) (accepted : Bool) : Statement (.negotiateAlgorithms peer accepted) :=
  of_event rfl

theorem getDigests (peer cslot : Nat) : Statement (.getDigests peer cslot) :=
  of_event rfl

theorem getCertificate (peer cslot : Nat) : Statement (.getCertificate peer cslot) :=
  of_event rfl

theorem challenge (peer cslot summary : Nat) (nonce : List Byte) : Statement (.challenge peer cslot summary nonce) :=
  of_event rfl

theorem getMeasurements (peer index : Nat) (signed : Bool) (nonce : List Byte) : Statement (.getMeasurements peer index signed nonce) :=
  of_event rfl

theorem keyExchange (peer : Nat) (both : Bool) (share : List Byte) : Statement (.keyExchange peer both share) :=
  of_event rfl

theorem finish (peer : Nat) (verified : Bool) : Statement (.finish peer verified) :=
  of_event rfl

theorem spdmUnsupported (peer : Nat) (version : Bool) : Statement (.spdmUnsupported peer version) :=
  of_event rfl

theorem energyInterval (dies : List Nat) (hub hbm : Nat) : Statement (.energyInterval dies hub hbm) :=
  of_event rfl

theorem thermalThrottle (cores : List Nat) (quanta : Nat) : Statement (.thermalThrottle cores quanta) :=
  of_event rfl

theorem thermalShutdown : Statement .thermalShutdown :=
  of_event rfl

theorem linkTrainingDone (l : Nat) : Statement (.linkTrainingDone l) :=
  of_event rfl

theorem linkStopGo (l vc : Nat) (stop : Bool) : Statement (.linkStopGo l vc stop) :=
  of_event rfl

theorem replayRequest (l first : Nat) : Statement (.replayRequest l first) :=
  of_event rfl

theorem powerLoss : Statement .powerLoss :=
  of_event rfl

end Sys2Proof.Laws.RoundTrip
end

