-- ==== Sys2Proof/Laws/Scratch.lean ====
section
/-! SUPPORT. Bytes on their way into a scratchpad (spec/10 R188, R192): every operation on them keeps the canonical form. -/

namespace Sys2Proof.Machine

/-- Writes to a scratchpad one after another keep the canonical form. -/
theorem scrWrites_wf {f : State → ScrWrite → State} (hf : ∀ s w, s.MemWf → (f s w).MemWf) (l : List ScrWrite) {s : State}
    (h : s.MemWf) : (l.foldl f s).MemWf := by
  induction l generalizing s with
  | nil => exact h
  | cons w t ih => exact ih (hf s w h)

theorem setCore_same (s : State) (k : Core) : SameMem s (s.setCore k) := by
  unfold State.setCore
  exact SameMem.ite ⟨rfl, rfl, rfl, rfl⟩ ⟨rfl, rfl, rfl, rfl⟩

/-- What is due lands. -/
theorem scrLand_wf {s : State} (h : s.MemWf) : s.scrLand.MemWf := scrWrites_wf (fun _ _ h => scrWrite_wf h ..) _ h

/-- An atomic on the own scratchpad waits for the stores on their way to its bytes, and does nothing else before them (log 105, DEDUCED). -/
theorem settleScr_spec (off n : Nat) (s : State) :
    settleScr off n s = if s.core.ownOver off n then .error (.wait .access) else .ok ((), s) := rfl

/-- A write into a scratchpad, held or not. -/
theorem scrDeliver_wf {s : State} (h : s.MemWf) (a : Agent) (core off : Nat) (bs : List Byte) (bad : Bool) :
    (s.scrDeliver a core off bs bad).MemWf := by
  unfold State.scrDeliver
  dsimp only
  repeat' split
  · exact (setCore_same s _).wf h
  · exact scrWrite_wf h ..
  · exact scrWrite_wf h ..

/-- A store to the own scratchpad changes no byte memory in its cycle: it is on its way for two. -/
theorem storeOwn_spec (off : Nat) (bs : List Byte) (s : State) :
    ∃ t, storeOwn off bs s = .ok ((), t) ∧ SameMem s t
      ∧ t.core.later = s.core.later ++ [⟨s.now + 2, off, bs, false, s.ctx.agent⟩] :=
  ⟨_, rfl, ⟨rfl, rfl, rfl, rfl⟩, rfl⟩

end Sys2Proof.Machine
end

