-- ==== Sys2Proof/Laws/Vector.lean ====
section
/-! SUPPORT. What the shared operations of the vector unit do when they answer a next state: reads, tag checks, the
floating-point trap, and the elementwise form. -/

namespace Sys2Proof.Machine

/-- The tag of a format names that format. -/
theorem tagFmt_fmtTag (f : BitVec 5) : tagFmt (fmtTag f) = f.toNat := by
  have := f.isLt
  simp only [tagFmt, fmtTag, mkTag, BitVec.toNat_ofNat]
  omega

/-- A source that passes the check of a format: raw, or exactly that format with neither group nor rotation. -/
theorem checkTag_ok {f : BitVec 5} {r : Bool} {t : BitVec 24} {s : State}
    (h : t = 0 ∨ (tagOk t = true ∧ tagFmt t = f.toNat ∧ tagGrp t = 0 ∧ tagRot t = 0)) :
    checkTag (fmtTag f) r t s = .ok ((), s) := by
  rcases h with rfl | ⟨a, b, c, d⟩
  · rfl
  · unfold checkTag
    by_cases z : t = 0
    · simp [z]
    · simp [a, b, c, d, tagFmt_fmtTag]

/-- A source without a rotation. -/
theorem tagRot_of_fits {f : BitVec 5} {t : BitVec 24}
    (h : t = 0 ∨ (tagOk t = true ∧ tagFmt t = f.toNat ∧ tagGrp t = 0 ∧ tagRot t = 0)) : tagRot t = 0 := by
  rcases h with rfl | ⟨_, _, _, d⟩
  · rfl
  · exact d

/-- Every source passes. -/
theorem checkTags_ok {f : BitVec 5} {r : Bool} {l : List VVal} {s : State}
    (h : ∀ v ∈ l, v.tag = 0 ∨ (tagOk v.tag = true ∧ tagFmt v.tag = f.toNat ∧ tagGrp v.tag = 0 ∧ tagRot v.tag = 0)) :
    checkTags f r l s = .ok ((), s) := by
  induction l with
  | nil => rfl
  | cons v t ih =>
    unfold checkTags
    rw [bind_ok (checkTag_ok (h v (by simp)))]
    exact ih (fun u hu => h u (by simp [hu]))

/-- Without a rotated source the result carries the format's tag. -/
theorem commonTag_plain {f : BitVec 5} {l : List (BitVec 24)} {s : State} (h : ∀ t ∈ l, tagRot t = 0) :
    commonTag f l s = .ok (fmtTag f, s) := by
  have : l.filter (fun t => tagRot t != 0) = [] := by
    rw [List.filter_eq_nil_iff]; intro t ht; simp [h t ht]
  unfold commonTag
  rw [this]; rfl

/-- With no flag enabled no operation raises the floating-point trap. -/
theorem fpTrap_off {p : Pos} {l : List (BitVec 5)} {s : State} (h : s.ctx.fptrap = 0) : fpTrap p l s = .ok ((), s) := by
  have : firstRaised s.ctx.fptrap l = none := by
    unfold firstRaised; rw [h]; simp [List.findIdx?_eq_none_iff]
  unfold fpTrap
  rw [this]

/-- The elementwise form, when no source is rotated and no flag traps. -/
theorem elementwise_ok {p : Pos} {lat : Nat} {d f : BitVec 5} {pred : BitVec 4} {r : Bool} {l : List VVal}
    {fn : List Nat → Nat × BitVec 5} {s : State} (hf : s.ctx.fptrap = 0)
    (h : ∀ v ∈ l, v.tag = 0 ∨ (tagOk v.tag = true ∧ tagFmt v.tag = f.toNat ∧ tagGrp v.tag = 0 ∧ tagRot v.tag = 0)) :
    elementwise p lat d f pred r l fn s = .ok ((), s.sentV p lat d
      (VVal.mk' (dataOfLanes (fmtWidth f) ((mapLanes (s.ctx.pred pred.toNat) (fmtWidth f) l fn).map (·.1))) (fmtTag f))
      (elemMask (s.ctx.pred pred.toNat) (fmtWidth f))
      (orFlags ((mapLanes (s.ctx.pred pred.toNat) (fmtWidth f) l fn).map (·.2)))) := by
  unfold elementwise
  rw [bind_ok (checkTags_ok h), bind_ok (commonTag_plain (s := s) (l := l.map (·.tag)) (f := f) (by
      intro t ht; simp only [List.mem_map] at ht; obtain ⟨v, hv, rfl⟩ := ht; exact tagRot_of_fits (h v hv))),
    bind_ok (readPred_run pred s), bind_ok (fpTrap_off hf)]
  rfl

end Sys2Proof.Machine
end

