-- ==== Sys2Proof/Tests/Slice0.lean ====
section
/-! SUPPORT. Tests: words written out from the spec's tables, terms each well-formedness check refuses, single steps with results
worked by hand from the rules, and for every statement with hypotheses a state and operands that meet them. -/

namespace Sys2Proof.Tests

open Sys2Proof Sys2Proof.Machine

set_option Elab.async false

/-! ## A small state -/

/-- Slot 0, nothing lent. -/
def p0 : Pos := Pos.plain 0
/-- Slot 1. -/
def p1 : Pos := Pos.plain 1
/-- Slot 2. -/
def p2 : Pos := Pos.plain 2
/-- Slot 3. -/
def p3 : Pos := Pos.plain 3

/-- A context of launch 1 on core 0: s1 all ones, s2 = 5, s4 = 2^63, s5 a scratchpad address, s6 a memory address, s7 = 1; v1 holds
the 32-bit integers 1, 2, 3, 4, v2 the f32 number 1.0 in every element. -/
def taskCtx : Ctx :=
  { Ctx.idle 0 0 with
    status := .ready, launch := 1, agency := 1, s := #v[0, BitVec.allOnes 64, 5, 0, 0x8000000000000000, 0x40, 0x100000040, 1],
    v := ((Vector.replicate 32 VVal.zero).set 1 (VVal.mk' (dataOfLanes 32 [1, 2, 3, 4]) 0)).set 2
      (VVal.mk' (dataOfLanes 32 (List.replicate 64 0x3F800000)) 0),
    imSize := 4096, scrSize := 0x100000, tiles := [0, 1], tvec := 0x100, ssave := 0x200000000,
    q0 := ⟨0x40, false⟩, q1 := ⟨0x50, false⟩, q2 := ⟨0x60, false⟩, clk := 50, seq := 50 }

/-- Its core, with one translation: the 2 MiB at 2^32 lie at physical 0x40000000, writable. -/
def taskCore : Core :=
  { Core.idle 0 with running := some 0, owner := some 0, tlb := [⟨1, 0x100000000, 0x200000, 0x40000023⟩] }

/-- The launch that runs it. -/
def taskLaunch : Launch :=
  { num := 1, agency := 1, prio := 0, root := 0x10000000, lock := false, ssave := 0x200000000, cores := [0], live := [0], uid := 9,
    bad := false }

/-- A running package with that one task; eight bytes stand at scratchpad offset 0x40 and at physical 0x40000040. -/
def base : State :=
  { State.reset with
    now := 1000, ctx := taskCtx, core := taskCore, launches := [taskLaunch],
    plat := { State.reset.plat with power := .running },
    scr := memPutN [] (scrKey 0 0x40) [0x80, 1, 2, 3, 4, 5, 6, 0xF7],
    mem := memPutN [] 0x40000040 [0x81, 1, 2, 3, 4, 5, 6, 0xF7] }

/-- The state after an instruction that runs from a state. -/
def after (i : Instr) (s : State := base) : State := match exec i s with
  | .next t => t
  | _ => s

/-- What an instruction has put on its way: bundles until it lands, where it goes, its value. -/
def sends (i : Instr) (s : State := base) : List (Nat × Dest × ResVal) :=
  (after i s).ctx.infl.map (fun r => (r.land - s.ctx.clk, r.dest, r.val))

/-- The request of the trap an instruction takes. -/
def traps (i : Instr) (s : State := base) : Option TrapReq := match (after i s).sig with
  | .trapped r => some r
  | _ => none

/-- What an instruction waits for. -/
def waitsFor (i : Instr) (s : State := base) : Option WaitKind := match (after i s).sig with
  | .waits k => some k
  | _ => none

/-- The vector results an instruction has put on its way: bundles, register, the first n elements of width w, tag, flags. -/
def sendsV (i : Instr) (w n : Nat) (s : State := base) : List (Nat × Dest × List Nat × Nat × Nat) :=
  (after i s).ctx.infl.map (fun r => (r.land - s.ctx.clk, r.dest, (match r.val with
    | .vec v _ => (v.lanes w).take n
    | _ => []), (match r.val with
    | .vec v _ => v.tag.toNat
    | _ => 0), r.flags.toNat))

/-! ## Words written out bit by bit -/

/-- Whether slot n reads a word as the instruction beside it. -/
def reads (n : Nat) (e : SlotWord × Instr) : Bool := match decodeSlot n false 0 e.1 with
  | .ok i => decide (i = e.2)
  | .error _ => false

/-- The words of slot 0: scalar ALU, branches, system, state registers, synchronisation, from the tables of spec/03. -/
def wordsScalar : List (SlotWord × Instr) :=
  [(0b000001_00110_00100_01001_00000000000, .add (Pos.plain 0) 6 4 9),
   (0b000001_00110_00100_01001_00000000001, .sub (Pos.plain 0) 6 4 9),
   (0b000001_00110_00100_01001_00000000010, .and (Pos.plain 0) 6 4 9),
   (0b000001_00110_00100_01001_00000000011, .or (Pos.plain 0) 6 4 9),
   (0b000001_00110_00100_01001_00000000100, .xor (Pos.plain 0) 6 4 9),
   (0b000001_00110_00100_01001_00000000101, .andn (Pos.plain 0) 6 4 9),
   (0b000001_00110_00100_01001_00000000110, .shl (Pos.plain 0) 6 4 9),
   (0b000001_00110_00100_01001_00000000111, .shr (Pos.plain 0) 6 4 9),
   (0b000001_00110_00100_01001_00000001000, .sar (Pos.plain 0) 6 4 9),
   (0b000001_00110_00100_01001_00000001001, .min (Pos.plain 0) 6 4 9),
   (0b000001_00110_00100_01001_00000001010, .max (Pos.plain 0) 6 4 9),
   (0b000001_00110_00100_01001_00000001011, .minn (Pos.plain 0) 6 4 9),
   (0b000001_00110_00100_01001_00000001100, .maxn (Pos.plain 0) 6 4 9),
   (0b000001_00110_00100_01001_00000001101, .sel (Pos.plain 0) 6 4 9),
   (0b000001_00110_00100_01001_00000010_011, .slt (Pos.plain 0) 3 6 4 9),
   (0b000001_00110_00100_01001_00000100000, .mul (Pos.plain 0) 6 4 9),
   (0b000001_00110_00100_01001_00000100001, .mulh (Pos.plain 0) 6 4 9),
   (0b000001_00110_00100_01001_00000100010, .mulhn (Pos.plain 0) 6 4 9),
   (0b000001_00110_00100_01001_00000100100, .div (Pos.plain 0) 6 4 9),
   (0b000001_00110_00100_01001_00000100101, .divn (Pos.plain 0) 6 4 9)]
  ++ [(0b000001_00110_00100_01001_00000100110, .rem (Pos.plain 0) 6 4 9),
   (0b000001_00110_00100_01001_00000100111, .remn (Pos.plain 0) 6 4 9),
   (0b000001_00110_00100_0000000000110000, .clz (Pos.plain 0) 6 4),
   (0b000001_00110_00100_0000000000110001, .ctz (Pos.plain 0) 6 4),
   (0b000001_00110_00100_0000000000110010, .popc (Pos.plain 0) 6 4),
   (0b000001_00110_00100_01001_00001000000, .addSat (Pos.plain 0) 6 4 9),
   (0b000001_00110_00100_01001_00001000001, .subSat (Pos.plain 0) 6 4 9),
   (0b000010_00110_00100_0001001000110100, .addI (Pos.plain 0) 6 4 4660),
   (0b000011_00110_00100_0001001000110100, .andI (Pos.plain 0) 6 4 4660),
   (0b000101_00110_00100_0001001000110100, .orI (Pos.plain 0) 6 4 4660),
   (0b000110_00110_00100_0001001000110100, .xorI (Pos.plain 0) 6 4 4660),
   (0b000111_00110_00100_0000000000_100101, .shlI (Pos.plain 0) 6 4 37),
   (0b001000_00110_00100_0000000000_100101, .shrI (Pos.plain 0) 6 4 37),
   (0b001001_00110_00100_0000000000_100101, .sarI (Pos.plain 0) 6 4 37),
   (0b001010_00110_00100_0001001000110100, .minI (Pos.plain 0) 6 4 4660),
   (0b001011_00110_00100_0001001000110100, .maxI (Pos.plain 0) 6 4 4660),
   (0b001100_00110_00100_0001001000110100, .mulI (Pos.plain 0) 6 4 4660),
   (0b001101_00110_00100_0001001000110100, .lih (Pos.plain 0) 6 4 4660),
   (0b001110_00110_00100_0000_100101_100101, .bfx (Pos.plain 0) 6 4 37 37),
   (0b001111_00110_00100_0000_100101_100101, .bfi (Pos.plain 0) 6 4 37 37)]
  ++ [(0b000100_00110_00100_011_01_01010100101, .br (Pos.plain 0) 6 4 3 1 677),
   (0b010100_00110_0000000_1_01_01010100101, .brp (Pos.plain 0) 6 1 1 677),
   (0b010101_0000000000000_01_01010100101, .brl (Pos.plain 0) 1 677),
   (0b010110_00000_00110_00100_00000000000, .loop (Pos.plain 0) 6 4),
   (0b010111_01001000110100010101100111, .j (Pos.plain 0) 19088743),
   (0b011000_00110_010101011110011011110, .call (Pos.plain 0) 6 703710),
   (0b011001_00000_00110_00000000000_00100, .callr (Pos.plain 0) 6 4),
   (0b011010_00000_00110_0000000000000000, .jr (Pos.plain 0) 6),
   (0b011011_00110_000000000000000000000, .ret (Pos.plain 0) 6),
   (0b011100_0000000000_0001001000110100, .yield (Pos.plain 0) 4660),
   (0b011101_00000000000000000000000000, .endTask (Pos.plain 0)),
   (0b011110_0000000000_0001001000110100, .trap (Pos.plain 0) 4660),
   (0b011111_00000000000000000000000000, .eret (Pos.plain 0)),
   (0b100000_00000000000000000000000001, .modeI (Pos.plain 0)),
   (0b100000_00000000000000000000000010, .modeE (Pos.plain 0)),
   (0b100001_00110_000000000_000000010000, .srr (Pos.plain 0) 6 16),
   (0b100010_00000_00110_0000_000000010000, .srw (Pos.plain 0) 6 16),
   (0b100011_00000_00110_0000_000000010000, .srs (Pos.plain 0) 6 16),
   (0b100100_00000_00110_0000_000000010000, .src (Pos.plain 0) 6 16),
   (0b100101_00000_00110_0001001000110100, .waitf (Pos.plain 0) 6 4660)]
  ++ [(0b100110_00000_00110_0001001000110100, .postf (Pos.plain 0) 6 4660),
   (0b100111_00110_00100_0001001000110100, .postr (Pos.plain 0) 6 4 4660),
   (0b101000_00110_00100_0001001000110100, .ftest (Pos.plain 0) 6 4 4660),
   (0b101001_00110_00100_0000000000000000, .gnew (Pos.plain 0) 6 4),
   (0b101010_00000_00110_0000000000000000, .join (Pos.plain 0) 6),
   (0b101011_00000_00110_0000000000000000, .leave (Pos.plain 0) 6),
   (0b101100_00000_00110_0000000000000000, .barw (Pos.plain 0) 6),
   (0b101101_00000_00110_0000000000000000, .bara (Pos.plain 0) 6),
   (0b101110_00110_00100_0000000000000000, .barg (Pos.plain 0) 6 4),
   (0b101111_00000_00110_0000000000000000, .step (Pos.plain 0) 6),
   (0b110000_00000_00110_0000000000000000, .monitor (Pos.plain 0) 6),
   (0b110001_00000_00110_0000000000000000, .mwait (Pos.plain 0) 6)]

set_option maxRecDepth 10000 in
theorem test_words_scalar : wordsScalar.all (reads 0) = true := by decide

/-- The words of slot 1: memory, copy engine, Flowstone, Rimstone, from the tables of spec/03. -/
def wordsMemory : List (SlotWord × Instr) :=
  [(0b010000_00110_00100_001_0000100100011, .ldB (Pos.plain 1) 6 4 1 291),
   (0b010001_00110_00100_001_0000100100011, .ldH (Pos.plain 1) 6 4 1 291),
   (0b010010_00110_00100_001_0000100100011, .ldW (Pos.plain 1) 6 4 1 291),
   (0b010011_00110_00100_001_0000100100011, .ldD (Pos.plain 1) 6 4 1 291),
   (0b010100_00110_00100_001_0000100100011, .ldBN (Pos.plain 1) 6 4 1 291),
   (0b010101_00110_00100_001_0000100100011, .ldHN (Pos.plain 1) 6 4 1 291),
   (0b010110_00110_00100_001_0000100100011, .ldWN (Pos.plain 1) 6 4 1 291),
   (0b010111_00110_00100_001_0000100100011, .stB (Pos.plain 1) 6 4 1 291),
   (0b011000_00110_00100_001_0000100100011, .stH (Pos.plain 1) 6 4 1 291),
   (0b011001_00110_00100_001_0000100100011, .stW (Pos.plain 1) 6 4 1 291),
   (0b011010_00110_00100_001_0000100100011, .stD (Pos.plain 1) 6 4 1 291),
   (0b011011_00110_00100_001_0000100100011, .ldv (Pos.plain 1) 6 4 1 291),
   (0b011100_00110_00100_001_0000100100011, .stv (Pos.plain 1) 6 4 1 291),
   (0b011101_00110_00100_01001_001_00000000, .ldq (Pos.plain 1) 6 4 9 1),
   (0b011110_00110_00100_01001_001_00000000, .stq (Pos.plain 1) 6 4 9 1),
   (0b011111_00110_00100_01001_001_1011_10_00, .vgth (Pos.plain 1) 6 4 9 1 11 2),
   (0b100000_00110_00100_01001_001_1011_10_00, .vsct (Pos.plain 1) 6 4 9 1 11 2),
   (0b100001_00110_00100_01001_0010_1_1_00000, .amo (Pos.plain 1) 6 4 9 2 true true),
   (0b100010_00000_00110_0000000000000000, .acqX (Pos.plain 1) 6),
   (0b100010_00000_00110_0000000000000001, .acqS (Pos.plain 1) 6)]
  ++ [(0b100010_00000_00110_0000000000000010, .rel (Pos.plain 1) 6),
   (0b100010_00000000000000000000010000, .fenceCore (Pos.plain 1)),
   (0b100010_00000000000000000000010001, .fenceDev (Pos.plain 1)),
   (0b100010_00000000000000000000010010, .fenceFab (Pos.plain 1)),
   (0b100010_00000_00110_00100_00000100000, .invro (Pos.plain 1) 6 4),
   (0b100010_00000_00110_00100_00000100001, .flushr (Pos.plain 1) 6 4),
   (0b100010_00000_00110_0000000000110000, .phase (Pos.plain 1) 6),
   (0b100011_00000_00110_001_0000100100011, .pref (Pos.plain 1) 6 1 291),
   (0b100100_00110_00100_00000000000_01001, .xferSv (Pos.plain 1) 6 4 9),
   (0b100100_00110_00100_00000010000_01001, .xferVs (Pos.plain 1) 6 4 9),
   (0b100100_00110_00100_01001_100000_00011, .vext (Pos.plain 1) 6 4 9 3),
   (0b100101_00000_00110_0001000000000011, .ewr (Pos.plain 1) 6 4099),
   (0b100110_00110_00000_0010000000000011, .erd (Pos.plain 1) 6 8195),
   (0b100111_00110_0000000000000000000_10, .ego (Pos.plain 1) 6 2),
   (0b100111_00110_00100_00000000000100_10, .egoP (Pos.plain 1) 6 4 2),
   (0b100111_000000000000000000001000_10, .ecan (Pos.plain 1) 2),
   (0b100111_00000_00110_00000000001100_10, .twait (Pos.plain 1) 6 2),
   (0b100111_00000_00110_00000000010000_10, .twaitn (Pos.plain 1) 6 2),
   (0b100111_0000000000000000000101_0110, .qfence (Pos.plain 1) 6),
   (0b100111_00000_00110_0000000001100000, .pbinv (Pos.plain 1) 6)]
  ++ [(0b101000_00000_00110_00100_00000000000, .bcast (Pos.plain 1) 6 4),
   (0b101001_00000_00110_0000000000000000, .blatch (Pos.plain 1) 6),
   (0b101010_00110_00100_01001_00000000000, .rsgo (Pos.plain 1) 6 4 9),
   (0b101010_00110_00100_0000000000000001, .rsstat (Pos.plain 1) 6 4),
   (0b101010_00000_00110_0000000000000010, .rsstop (Pos.plain 1) 6),
   (0b101010_00000_00110_00100_00000000011, .ckpt (Pos.plain 1) 6 4),
   (0b101011_00110_00100_00000_001_00000000, .slopen (Pos.plain 1) 1 6 4),
   (0b101011_00110_00100_01001_011_00000001, .slbind (Pos.plain 1) 3 6 4 9),
   (0b101011_000000000000000_110_00000010, .sldone (Pos.plain 1) 6),
   (0b101011_000000000000000_110_00000011, .slgdone (Pos.plain 1) 6),
   (0b101011_00110_00100_00000_001_00000100, .slstat (Pos.plain 1) 1 6 4),
   (0b101011_00110_00100_00000_001_00000101, .sljump (Pos.plain 1) 1 6 4),
   (0b101011_00110_0000000000_100_00000110, .slpfx (Pos.plain 1) 4 6),
   (0b101011_00110_00100_01001_011_00000111, .slinfo (Pos.plain 1) 3 6 4 9),
   (0b101011_00000_00110_00000_100_00001000, .slwait (Pos.plain 1) 4 6),
   (0b101011_00110_0000000000_100_00001001, .slretire (Pos.plain 1) 4 6),
   (0b101011_00110_0000000000_100_00001010, .slrecycle (Pos.plain 1) 4 6),
   (0b101011_00000_00110_00000_100_00001011, .slrefresh (Pos.plain 1) 4 6),
   (0b101011_000000000000000_110_00001100, .slclose (Pos.plain 1) 6),
   (0b101100_0_0110_00100_0000000000000000, .seedw (Pos.plain 1) 6 4)]
  ++ [(0b101100_00110_0_0100_0000000000000001, .seedr (Pos.plain 1) 6 4),
   (0b101101_00110_00100_0000000000000000, .vtgr (Pos.plain 1) 6 4),
   (0b101110_00110_0000000000000_00001001, .pcnt (Pos.plain 1) 6 9)]

set_option maxRecDepth 10000 in
theorem test_words_memory : wordsMemory.all (reads 1) = true := by decide

/-- The words of slot 2: vector unit and Helictite, from the tables of spec/03. -/
def wordsVector : List (SlotWord × Instr) :=
  [(0b000001_00110_00100_01001_1011_01_01001, .vadd (Pos.plain 2) 6 4 9 11 1 9),
   (0b000010_00110_00100_01001_1011_01_00101, .vsub (Pos.plain 2) 6 4 9 11 1 5),
   (0b000011_00110_00100_01001_1011_01_01001, .vmul (Pos.plain 2) 6 4 9 11 1 9),
   (0b000100_00110_00100_01001_1011_01_01001, .vfma (Pos.plain 2) 6 4 9 11 1 9),
   (0b000101_00110_00100_01001_1011_01_01010, .vfms (Pos.plain 2) 6 4 9 11 1 10),
   (0b000110_00110_00100_01001_1011_01_01011, .vfnma (Pos.plain 2) 6 4 9 11 1 11),
   (0b000111_00110_00100_01001_1011_00_00111, .vmin (Pos.plain 2) 6 4 9 11 7),
   (0b001000_00110_00100_01001_1011_00_01001, .vmax (Pos.plain 2) 6 4 9 11 9),
   (0b001001_00110_00100_00000_1001_01_00001, .vabs (Pos.plain 2) 6 4 9 1 1),
   (0b001010_00110_00100_00000_1001_01_00011, .vneg (Pos.plain 2) 6 4 9 1 3),
   (0b001011_0_0110_00100_01001_1011_00_00101, .vcmpEq (Pos.plain 2) 6 4 9 11 5),
   (0b001100_0_0110_00100_01001_1011_00_00101, .vcmpNe (Pos.plain 2) 6 4 9 11 5),
   (0b001101_0_0110_00100_01001_1011_00_00101, .vcmpLt (Pos.plain 2) 6 4 9 11 5),
   (0b001110_0_0110_00100_01001_1011_00_00101, .vcmpGe (Pos.plain 2) 6 4 9 11 5),
   (0b001111_00110_00100_01001_1011_00_00000, .vsel (Pos.plain 2) 6 4 9 11 0),
   (0b010000_00110_00100_01001_1011_00_00010, .vand (Pos.plain 2) 6 4 9 11 2),
   (0b010001_00110_00100_01001_1011_00_00101, .vor (Pos.plain 2) 6 4 9 11 5),
   (0b010010_00110_00100_01001_1011_00_00101, .vxor (Pos.plain 2) 6 4 9 11 5),
   (0b010011_00110_00100_00000_1001_00_00101, .vnot (Pos.plain 2) 6 4 9 5),
   (0b010100_00110_00100_01001_1011_00_00010, .vshl (Pos.plain 2) 6 4 9 11 2)]
  ++ [(0b010101_00110_00100_01001_1011_00_00110, .vshr (Pos.plain 2) 6 4 9 11 6),
   (0b010110_00110_00100_01001_1011_00_00011, .vsar (Pos.plain 2) 6 4 9 11 3),
   (0b010111_00110_00100_01001_1011_01_00001, .vdot (Pos.plain 2) 6 4 9 11 1),
   (0b011000_00110_00101_01011_0100_0100011, .vli (Pos.plain 2) 6 5 4 1443),
   (0b011001_00110_00100_0000000000000000, .vmov (Pos.plain 2) 6 4),
   (0b100000_00110_00100_01001_1011_01_01010, .vdiv (Pos.plain 2) 6 4 9 11 1 10),
   (0b100001_00110_00100_00000_1001_01_01011, .vsqrt (Pos.plain 2) 6 4 9 1 11),
   (0b100010_00110_00100_00000_1001_01_01001, .vrcp (Pos.plain 2) 6 4 9 1 9),
   (0b100011_00110_00100_00000_1001_01_01100, .vrsq (Pos.plain 2) 6 4 9 1 12),
   (0b100100_00110_00100_00000_1001_01_01010, .vexp2 (Pos.plain 2) 6 4 9 1 10),
   (0b100101_00110_00100_00000_1001_01_01011, .vlog2 (Pos.plain 2) 6 4 9 1 11),
   (0b100110_00110_00100_00000_1001_01_01001, .vtanh (Pos.plain 2) 6 4 9 1 9),
   (0b100111_00110_00100_00000_1001_01_01100, .vsinpi (Pos.plain 2) 6 4 9 1 12),
   (0b101000_00110_00100_00000_1001_01_01010, .vcospi (Pos.plain 2) 6 4 9 1 10),
   (0b101001_00110_00100_00000_1001_01_00101, .vredSum (Pos.plain 2) 6 4 9 1 5),
   (0b101010_00110_00100_00000_1001_00_00101, .vredMax (Pos.plain 2) 6 4 9 5),
   (0b101011_00110_00100_00000_1001_00_00101, .vredMin (Pos.plain 2) 6 4 9 5),
   (0b101100_00110_00100_00000_1001_00_00011, .vmaxi (Pos.plain 2) 6 4 9 3),
   (0b101101_00110_00100_01001_101001_00000, .vshuf (Pos.plain 2) 6 4 9 41),
   (0b101110_00000_00110_00100_101001_00000, .vpld (Pos.plain 2) 6 4 41)]
  ++ [(0b101111_00000000000000000000000000, .vpsw (Pos.plain 2)),
   (0b110000_00110_00100_01010_1001_01_00101, .vcvt (Pos.plain 2) 6 4 10 9 1 5),
   (0b110001_00110_00100_01_01_1_1001_1_0_01111, .vnr (Pos.plain 2) 6 4 1 1 true true 9 15),
   (0b110010_00110_00100_01_10_0_1001_1_0_01001, .vwd (Pos.plain 2) 6 4 1 2 true 9 9),
   (0b110011_00110_00100_00_01_0_1001_10_01001, .vrot (Pos.plain 2) 6 4 1 9 9),
   (0b110100_00110_00100_10_01_0_1001_00_01111, .vtag (Pos.plain 2) 6 4 2 1 9 15),
   (0b110110_0_0110_0_0100_0_1001_00000000000, .pand (Pos.plain 2) 6 4 9),
   (0b110111_0_0110_0_0100_0_1001_00000000000, .por (Pos.plain 2) 6 4 9),
   (0b111000_0_0110_0_0100_0_1001_00000000000, .pxor (Pos.plain 2) 6 4 9),
   (0b111001_0_0110_0_0100_0000000000000000, .pnot (Pos.plain 2) 6 4),
   (0b111010_0_0110_0_0100_0000000000000000, .pfirst (Pos.plain 2) 6 4),
   (0b111011_0_0110_00000_01011_0000_0100011, .pset (Pos.plain 2) 6 1443)]

set_option maxRecDepth 10000 in
theorem test_words_vector : wordsVector.all (reads 2) = true := by decide

/-- The words of slot 3: matrix array, from the tables of spec/03. -/
def wordsMatrix : List (SlotWord × Instr) :=
  [(0b100110_00001_00101_00_1_00100_00000000, .mset (Pos.plain 3) 1 5 0 true 4),
   (0b100001_10_1_1_00000101_0_01110_000_01111, .mload (Pos.plain 3) 2 true true 5 false 14 15),
   (0b100010_10_100_1010101_1_1_0_01110_000000, .mfeed (Pos.plain 3) 2 4 85 true true false 14),
   (0b100011_00110_100_1010101_01_1_01_0_01010, .mdrain (Pos.plain 3) 6 4 85 1 true 1 10),
   (0b100100_00110_100_1010101_01_0000_00011, .mfill (Pos.plain 3) 6 4 85 1 3),
   (0b100101_110_1010101_00011100_1_0000000, .mzero (Pos.plain 3) 6 85 28 true)]

set_option maxRecDepth 10000 in
theorem test_words_matrix : wordsMatrix.all (reads 3) = true := by decide

/-- Illegal words (R42, R43): an unassigned major, an unassigned function, a field that must be zero, a reserved value. -/
theorem test_illegal_words : decodeSlot 0 false 0 0xFC000000 = .error .reservedMajor
    ∧ decodeSlot 0 false 0 0x0400000E = .error .reservedFunction ∧ decodeSlot 0 false 0 0x04000830 = .error .reservedField
    ∧ decodeSlot 1 false 0 0x400BA000 = .error .reservedValue := ⟨rfl, rfl, rfl, rfl⟩

/-! ## Ill-formed terms, one for each check of the fields -/

/-- Terms with a field value that the spec reserves: each is refused. -/
def illFormed : List Instr :=
  [.slt p0 6 1 2 3, .br p0 1 2 6 0 4, .br p0 1 2 0 3 4, .brp p0 16 0 0 4, .brp p0 1 2 0 4, .brl p0 3 4, .srr p0 1 0x999, .srw p0 1 0x999,
   .srs p0 1 0x999, .src p0 1 0x999, .ldD p1 1 2 5 0, .stD p1 1 2 4 0, .ldv p1 1 2 5 0, .stv p1 1 2 4 0, .ldq p1 1 2 3 5,
   .stq p1 1 2 3 4, .vgth p1 1 2 3 5 0 0, .vsct p1 1 2 3 4 0 0, .amo p1 1 2 3 15 true false, .pref p1 1 5 0, .vext p1 1 2 3 17,
   .ewr p1 1 0x0022, .erd p1 1 0x9000, .seedw p1 16 1, .seedr p1 1 16, .pcnt p1 1 11,
   .vadd p2 1 2 3 0 2 1, .vadd p2 1 2 3 0 0 0, .vmin p2 1 2 3 0 13, .vabs p2 1 2 0 2 1, .vneg p2 1 2 0 1 9, .vcmpEq p2 1 2 3 0 13,
   .vsel p2 1 2 3 0 15, .vand p2 1 2 3 0 15, .vshl p2 1 2 3 0 9, .vdot p2 1 2 3 0 2, .vli p2 1 0 0 0, .vdiv p2 1 2 3 0 0 1,
   .vsqrt p2 1 2 0 0 1, .vredSum p2 1 2 0 0 0, .vredMax p2 1 2 0 13, .vmaxi p2 1 2 0 9, .vcvt p2 1 2 0 0 0 1,
   .vnr p2 1 2 0 0 false false 0 9, .vwd p2 1 2 1 0 false 0 1, .vrot p2 1 2 0 0 9, .vtag p2 1 2 1 2 0 17,
   .mset p3 1 9 0 false 0, .mset p3 1 1 0 false 4, .mload p3 0 false false 0 false 0 3, .mload p3 0 true false 0 false 3 1,
   .mload p3 0 false false 128 false 0 1, .mfeed p3 0 0 0 false true false 3, .mdrain p3 1 0 0 3 false 0 3,
   .mdrain p3 1 0 1 0 false 0 1, .mfill p3 1 0 0 3 3, .mfill p3 1 0 0 0 1, .mzero p3 0 127 1 false]

theorem test_ill_formed_terms_are_refused : illFormed.filter (fun i => i.wellFormed) = [] := by decide

/-- A bypass or write-back bit that the form cannot lend, and a slot the form does not stand in, are refused (R25, R48). -/
theorem test_ill_placed_terms_are_refused :
    ([.add (Pos.plain 2) 1 2 3, .vadd (Pos.plain 0) 1 2 3 0 0 1, .ldD (Pos.plain 0) 1 2 0 0, .mzero (Pos.plain 2) 0 0 0 false,
      .jr ⟨0, true, true, false, false, 0⟩ 1, .j ⟨0, true, false, true, false, 0⟩ 4, .clz ⟨0, true, false, false, true, 0⟩ 1 2,
      .add ⟨0, false, true, false, false, 0⟩ 1 2 3, .add ⟨0, true, false, false, false, 1⟩ 1 2 3] : List Instr).filter
      (fun i => i.wellFormed) = [] := by decide

/-! ## Single steps, worked by hand from the rules -/

theorem test_add_wraps : sends (.add p0 3 1 2) = [(1, .scalar 3, .word 4)] := by decide
theorem test_sub_wraps : sends (.sub p0 3 0 7) = [(1, .scalar 3, .word 0xFFFFFFFFFFFFFFFF)] := by decide
theorem test_andn_inverts_b : sends (.andn p0 3 2 7) = [(1, .scalar 3, .word 4)] := by decide
theorem test_shl_counts_mod_64 : sends (.shl p0 3 7 1) = [(1, .scalar 3, .word 0x8000000000000000)] := by decide
theorem test_sar_keeps_the_sign : sends (.sar p0 3 4 1) = [(1, .scalar 3, .word 0xFFFFFFFFFFFFFFFF)] := by decide
theorem test_shr_clears : sends (.shr p0 3 4 1) = [(1, .scalar 3, .word 1)] := by decide
theorem test_min_is_signed : sends (.min p0 3 1 2) = [(1, .scalar 3, .word 0xFFFFFFFFFFFFFFFF)] := by decide
theorem test_minn_is_unsigned : sends (.minn p0 3 1 2) = [(1, .scalar 3, .word 5)] := by decide
theorem test_addSat_clamps : sends (.addSat p0 3 4 4) = [(1, .scalar 3, .word 0x8000000000000000)] := by decide
theorem test_mulh_of_minus_one : sends (.mulh p0 3 1 2) = [(3, .scalar 3, .word 0xFFFFFFFFFFFFFFFF)] := by decide
theorem test_mulhn_unsigned : sends (.mulhn p0 3 1 2) = [(3, .scalar 3, .word 4)] := by decide
theorem test_div_by_zero : sends (.div p0 3 2 0) = [(24, .scalar 3, .word 0xFFFFFFFFFFFFFFFF)] := by decide
theorem test_div_overflow : sends (.div p0 3 4 1) = [(24, .scalar 3, .word 0x8000000000000000)] := by decide
theorem test_rem_by_zero : sends (.rem p0 3 2 0) = [(24, .scalar 3, .word 5)] := by decide
theorem test_clz_of_zero : sends (.clz p0 3 0) = [(1, .scalar 3, .word 64)] := by decide
theorem test_ctz_of_top_bit : sends (.ctz p0 3 4) = [(1, .scalar 3, .word 63)] := by decide
theorem test_popc : sends (.popc p0 3 1) = [(1, .scalar 3, .word 64)] := by decide
theorem test_sel_on_zero_takes_b : sends (.sel p0 3 1 2) = [(1, .scalar 3, .word 5)] := by decide
theorem test_slt_unsigned : sends (.slt p0 4 3 1 2) = [(1, .scalar 3, .word 0)] := by decide
theorem test_addI_extends_the_sign : sends (.addI p0 3 2 0xFFFE) = [(1, .scalar 3, .word 3)] := by decide
theorem test_andI_does_not : sends (.andI p0 3 1 0xFFFE) = [(1, .scalar 3, .word 0xFFFE)] := by decide
theorem test_lih : sends (.lih p0 3 2 0x1234) = [(1, .scalar 3, .word 0x51234)] := by decide
theorem test_bfx_takes_len_plus_one_bits : sends (.bfx p0 3 5 1 5) = [(1, .scalar 3, .word 2)] := by decide
theorem test_a_write_of_s0_is_dropped : sends (.add p0 0 1 2) = [(1, .none, .word 4)] := by decide

theorem test_br_taken : (after (.br p0 1 2 2 1 4)).ctx.steer = { target := some 0x80 } := by decide
theorem test_br_not_taken_annuls : (after (.br p0 1 2 0 1 4)).ctx.steer = { annul := true } := by decide
theorem test_br_below_the_image_traps : traps (.br p0 1 2 2 1 0x7F0) = some ⟨0x09, 0xFFFFFFFFFFFFFF40, 0⟩ := by decide
theorem test_jr_misaligned : traps (.jr p0 2) = some ⟨0x08, 5, 6⟩ := by decide
/-- The call of R137: the return address is 48 past the call; the callee's s8 is position B + frame. -/
theorem test_call_links : sends (.call p0 14 4) = [(1, .scalar 142, .word 0x70), (3, .wbase, .base 14)] := by decide
theorem test_loop : sends (.loop p0 2 7) = [(1, .loop, .loop 5 1)] := by decide
theorem test_brl_not_taken : (after (.brl p0 1 4)).ctx.steer = { annul := true } := by decide
theorem test_trap_takes_its_code : traps (.trap p0 0x1234) = some ⟨0x0F, 0, 0x1234⟩ ∧ (after (.trap p0 0x1234)).ctx.sv = true
    ∧ (after (.trap p0 0x1234)).ctx.q0 = ⟨0x100, false⟩ ∧ (after (.trap p0 0x1234)).ctx.epcq0 = 0x40 := by decide
theorem test_eret_in_task_mode : traps (.eret p0) = some ⟨0x04, 0, 0xFFF⟩ := by decide
theorem test_srw_of_mode_in_task_mode : traps (.srw p0 1 0) = some ⟨0x04, 0, 0⟩ := by decide
theorem test_yield_declares_a_run : (after (.yield p0 3)).ctx.run = some 192 ∧ (after (.yield p0 3)).ctx.steer.yield = true := by decide
theorem test_endTask : (after (.endTask p0)).ctx.steer.ends = true := by decide

theorem test_waitf_waits : waitsFor (.waitf p0 3 1) = some .flag := by decide
theorem test_waitf_of_zero_runs : waitsFor (.waitf p0 3 0) = none ∧ (after (.waitf p0 3 0)).sig = .ran := by decide
theorem test_postf_queues : (after (.postf p0 3 7)).ctx.posts = [.own 3 7] := by decide
theorem test_postr_refuses_a_bad_target : traps (.postr p0 3 1 7) = some ⟨0x09, 0xFFFFFFFFFFFFFFFF, 0x10⟩ := by decide
theorem test_monitor_below_the_window : traps (.monitor p0 5) = some ⟨0x09, 0x40, 0x10⟩ := by decide
theorem test_mwait_without_a_monitor : (after (.mwait p0 2)).sig = .ran := by decide
theorem test_barw_of_a_bad_handle : traps (.barw p0 2) = some ⟨0x09, 5, 0x10⟩ := by decide

theorem test_ldD_scratchpad : sends (.ldD p1 3 5 1 0) = [(4, .scalar 3, .word 0xF706050403020180)] := by decide
theorem test_ldB_extends_the_sign : sends (.ldB p1 3 5 1 0) = [(4, .scalar 3, .word 0xFFFFFFFFFFFFFF80)] := by decide
theorem test_ldBN_does_not : sends (.ldBN p1 3 5 1 0) = [(4, .scalar 3, .word 0x80)] := by decide
theorem test_ldD_memory : sends (.ldD p1 3 6 1 0) = [(6, .scalar 3, .word 0xF706050403020181)] := by decide
theorem test_ldW_misaligned : traps (.ldW p1 3 5 1 1) = some ⟨0x08, 0x41, 2⟩ := by decide
/-- A store of slot 1 reaches the scratchpad at t + 2 (R192). -/
theorem test_stW_low_bytes_first : (after (.stW p1 2 5 1 8)).core.later = [⟨1002, 0x48, [5, 0, 0, 0], false, .ctx 0 0⟩] := by decide
theorem test_stB_to_memory : memGet (after (.stB p1 1 6 1 0)).mem 0x40000040 = 0xFF := by decide
theorem test_stD_elsewhere_traps : traps (.stD p1 1 1 1 0) = some ⟨0x08, 0xFFFFFFFFFFFFFFFF, 3⟩ := by decide
theorem test_amo_add : sends (.amo p1 3 5 2 0 true false) = [(8, .scalar 3, .word 0xF706050403020180)]
    ∧ memGet (after (.amo p1 3 5 2 0 true false)).scr (scrKey 0 0x40) = 0x85 := by decide
theorem test_ldv_misaligned : traps (.ldv p1 3 2 0 0) = some ⟨0x08, 5, 4⟩ := by decide
theorem test_pcnt : sends (.pcnt p1 3 1) = [(1, .scalar 3, .word 0)] := by decide
theorem test_xferVs : sends (.xferVs p1 3 1 0) = [(3, .scalar 3, .word 0x200000001)] := by decide
theorem test_vext : sends (.vext p1 3 1 2 3) = [(3, .scalar 3, .word 0)] := by decide
theorem test_ewr_writes_the_shadow : ((after (.ewr p1 2 0x1003)).ctx.shadow.getD 1 CmdRegs.zero).get 3 = 5 := by decide
theorem test_ego_gives_the_id : sends (.ego p1 3 0) = [(1, .scalar 3, .word 0)]
    ∧ ((after (.ego p1 3 0)).core.chan 0).nextId = 1 := by decide
theorem test_slpfx_without_a_horizon : traps (.slpfx p1 2 5) = some ⟨0x09, 0, 0x100⟩ := by decide

theorem test_vadd_i32 : sendsV (.vadd p2 3 1 1 0 0 3) 32 5 = [(2, .vector 3, [2, 4, 6, 8, 0], 3, 0)] := by decide
theorem test_vadd_f32 : sendsV (.vadd p2 3 2 2 0 0 10) 32 2 = [(2, .vector 3, [0x40000000, 0x40000000], 10, 0)] := by decide
theorem test_vadd_tag_mismatch : traps (.vadd p2 3 1 1 0 0 10)
    { base with ctx := { base.ctx with v := base.ctx.v.set 1 (VVal.mk' (dataOfLanes 32 [1]) 3) } } = some ⟨0x06, 0, 0x300000A⟩ := by decide
theorem test_vsub_saturates : sendsV (.vsub p2 3 0 1 0 1 7) 32 2 = [(2, .vector 3, [0, 0], 7, 0)] := by decide
theorem test_vmul_i32 : sendsV (.vmul p2 3 1 1 0 0 3) 32 4 = [(4, .vector 3, [1, 4, 9, 16], 3, 0)] := by decide
set_option maxRecDepth 8000 in
/-- VLI of −2,047 is exact in f16 (R246). -/
theorem test_vli_f16 : sendsV (.vli p2 3 11 0 2049) 16 1 = [(2, .vector 3, [0xE7FF], 11, 0)] := by decide
theorem test_vdot : sendsV (.vdot p2 3 1 1 0 0) 32 4 = [(4, .vector 3, [1, 4, 9, 16], 3, 0)] := by decide
theorem test_vshl_past_the_width : sendsV (.vshl p2 3 1 2 0 7) 32 2 = [(2, .vector 3, [0, 0], 7, 0)] := by decide
theorem test_vredSum : sendsV (.vredSum p2 3 1 0 0 3) 32 2 = [(6, .vector 3, [10, 0], 3, 0)] := by decide
theorem test_vmaxi : sendsV (.vmaxi p2 3 1 0 3) 64 2 = [(6, .vector 3, [3 * 2 ^ 32 + 4, 0], 0, 0)] := by decide
theorem test_pset : (after (.pset p2 3 5)).ctx.infl.map (fun r => (r.dest, match r.val with
    | .pred v _ => v.toNat
    | _ => 0)) = [(.pred 3, 31)] := by decide
theorem test_vmov_keeps_the_tag : sendsV (.vmov p2 3 2) 32 1 = [(2, .vector 3, [0x3F800000], 0, 0)] := by decide
/-- The examples of R65: 300.0 saturates to 240, 1.0625 is a tie. -/
theorem test_convert_to_f8a : convert 10 13 0 false 0x43960000 = (0x7F, 0x05) ∧ convert 10 13 0 false 0x3F880000 = (0x40, 0x01)
    ∧ convert 10 13 3 false 0x3F880000 = (0x41, 0x01) := by decide
/-- The worked encodings of R58. -/
theorem test_f8a_codes : convert 13 10 0 false 0x40 = (0x3F800000, 0) ∧ convert 13 10 0 false 0xC4 = (0xBFC00000, 0)
    ∧ convert 13 10 0 false 0x7F = (0x43700000, 0) ∧ convert 13 10 0 false 0x01 = (0x3A800000, 0) := by decide
/-- The examples of R261 and R74. -/
theorem test_fingerprints : fingerprint 1 = 0x4F1 ∧ fingerprint 2 = 0x1E3 := by decide
theorem test_tag_example : mkTag 15 3 3 3 0x2B5 = 0x56A7EF := by decide

theorem test_mset : sends (.mset p3 1 1 0 false 0) = [(1, .mode, .mode ⟨1, 1, 0, 0, 0⟩)] := by decide
theorem test_mfill : (after (.mfill p3 1 0 7 1 3)).core.beats.map (fun b => (b.due, b.tile, b.row)) = [(51, 0, 7)] := by decide
theorem test_mfill_of_a_tile_not_allotted : traps (.mfill p3 1 5 7 1 3) = some ⟨0x09, 0, 0⟩ := by decide
theorem test_mzero_rows : (after (.mzero p3 1 3 2 false)).core.beats.map (fun b => (b.tile, b.row)) = [(1, 3), (1, 4), (1, 5)] := by decide

/-! ## Witnesses: for every statement with hypotheses, states and operands that meet them -/

/-- A state whose program counter stands at a bundle that holds one operation alone, its cores at their turns. -/
def placed (i : Instr) (s : State := base) : State :=
  { s with part := .turns, imem := memPutN [] (imKey 0 0x40) ((bundleOf i).getD []) }

theorem isNone_eq {α : Type} {x : Option α} (h : x.isNone = true) : x = none := by cases x <;> simp_all

theorem isEmpty_eq {α : Type} {x : List α} (h : x.isEmpty = true) : x = [] := by cases x <;> simp_all

/-- Whether a computation over the state answers. -/
def answers {α : Type} (m : Except Stop (α × State)) : Bool := match m with
  | .ok _ => true
  | .error _ => false

theorem answers_ex {α : Type} {m : Except Stop (α × State)} (h : answers m = true) : ∃ x s, m = .ok (x, s) := by
  cases m with
  | ok e => exact ⟨e.1, e.2, rfl⟩
  | error _ => exact absurd h Bool.false_ne_true

theorem quiet (s : State) (h : (s.dueInput.isNone && s.asyncEvent.isNone) = true)
    (h2 : s.plat.power = .running ∧ s.part = .turns ∧ s.turns = [s.core.id] ∧ s.core.running = some s.ctx.slot ∧ s.ctx.core = s.core.id
      ∧ s.ctx.status = .ready ∧ s.coreFrozen = false ∧ s.peers = [] ∧ s.ctx.steer = {} ∧ s.stalledLong = false) : QuietTurn s := by
  simp only [Bool.and_eq_true] at h
  obtain ⟨a, d⟩ := h
  obtain ⟨e, f, g, k, l, m, n, o, q, r⟩ := h2
  exact ⟨isNone_eq a, e, f, g, k, l, m, n, o, q, isNone_eq d, r⟩

/-- A cycle whose events are over: the turns come next. -/
theorem witness_cycle_part : base.dueInput.isNone = true ∧ base.plat.power = .running ∧ base.part = .events ∧ base.timedAct.isNone = true
    ∧ base.engineActs.isEmpty = true := by decide

/-- An operation that runs, one that traps, one that waits, each alone in its bundle at a quiet turn. -/
theorem witness_step : QuietTurn (placed (.add p0 3 1 2)) ∧ HoldsOnly (placed (.add p0 3 1 2)) (.add p0 3 1 2)
    ∧ HoldsOnly (placed (.trap p0 7)) (.trap p0 7) ∧ HoldsOnly (placed (.waitf p0 3 1)) (.waitf p0 3 1)
    ∧ (after (.add p0 3 1 2) (placed (.add p0 3 1 2))).sig = .ran
    ∧ (after (.trap p0 7) (placed (.trap p0 7))).sig = .trapped ⟨0x0F, 0, 7⟩
    ∧ (after (.waitf p0 3 1) (placed (.waitf p0 3 1))).sig = .waits .flag ∧ NoCollision (placed (.add p0 3 1 2)) (.add p0 3 1 2)
    ∧ NoCollision (placed (.trap p0 7)) (.trap p0 7) := by
  refine ⟨quiet _ (by decide) (by decide), ?_, ?_, ?_, ?_, ?_, ?_, Or.inr (by decide), Or.inr (by decide)⟩
  · exact ⟨rfl, by decide, by decide, by decide, by decide, by decide⟩
  · exact ⟨rfl, by decide, by decide, by decide, by decide, by decide⟩
  · exact ⟨rfl, by decide, by decide, by decide, by decide, by decide⟩
  · decide
  · decide
  · decide

/-- The same with the bundle annulled. -/
theorem witness_annulled : QuietTurn { base with part := .turns, ctx := { base.ctx with q0 := ⟨0x40, true⟩ } } :=
  quiet _ (by decide) (by decide)

/-- A result on its way into s3 that lands with the addition's: the collision of R34. -/
def collides (i : Instr) : State :=
  placed i { base with ctx := { base.ctx with infl := [⟨51, 40, 0, .scalar 3, true, .word 0, 0, true⟩] } }

/-- An operation that runs, and one that takes the privilege trap: each collides. -/
theorem witness_collision : QuietTurn (collides (.add p0 3 1 2)) ∧ HoldsOnly (collides (.add p0 3 1 2)) (.add p0 3 1 2)
    ∧ (after (.add p0 3 1 2) (collides (.add p0 3 1 2))).sig = .ran
    ∧ QuietTurn (collides (.srr p0 3 0x2B)) ∧ HoldsOnly (collides (.srr p0 3 0x2B)) (.srr p0 3 0x2B)
    ∧ (after (.srr p0 3 0x2B) (collides (.srr p0 3 0x2B))).sig = .trapped ⟨0x04, 0, 0x2B⟩
    ∧ (collides (.add p0 3 1 2)).ctx.exposed = true ∧ ((collides (.add p0 3 1 2)).collides (.add p0 3 1 2)).isSome = true
    ∧ ((collides (.srr p0 3 0x2B)).collides (.srr p0 3 0x2B)).isSome = true :=
  ⟨quiet _ (by decide) (by decide), ⟨rfl, by decide, by decide, by decide, by decide, by decide⟩, by decide,
    quiet _ (by decide) (by decide), ⟨rfl, by decide, by decide, by decide, by decide, by decide⟩, by decide, by decide, by decide,
    by decide⟩

/-- A task with ports, a packet of two words waiting at port 0 and a packet begun at port 1. -/
def ported : State :=
  { base with ctx := { base.ctx with ports := true }, core := { base.core with inq := base.core.inq.set 0 [[7, 8]], outq := base.core.outq.set 1 [(0x100000000, false)] } }

/-- A companion's task with a word in its queue, and without. -/
def companion : State :=
  { base with ctx := { Ctx.idle 192 0 with status := .ready, launch := 1, agency := 1, imSize := 4096 }, core := { Core.idle 192 with running := some 0 }, cq := [(0, ⟨1, [⟨990, 0, 0, 1, 0, 9, true⟩]⟩)] }

/-- A task whose companion runs and whose queue is full. -/
def queueFull : State :=
  { base with ctxs := [companion.ctx], cq := [(0, ⟨256, List.replicate 256 ⟨990, 0, 0, 1, 0, 9, true⟩⟩)] }

set_option maxRecDepth 10000 in
/-- The register fields at their bounds: s0, s1, s7, s8, s23, s31, the ports 24 and 29, the companion queue 30. -/
theorem witness_scalar_fields : (0#5).toNat = 0 ∧ (1 ≤ (7#5).toNat ∧ (7#5).toNat ≤ 7) ∧ (8 ≤ (23#5).toNat ∧ (23#5).toNat ≤ 23)
    ∧ (31#5).toNat = 31 ∧ PlainReg 23 ∧ PlainReg 31 ∧ (24 ≤ (29#5).toNat ∧ (29#5).toNat ≤ 29 ∧ base.ctx.companion = false ∧ base.ctx.ports = false)
    ∧ (ported.ctx.companion = false ∧ ported.ctx.ports = true ∧ ported.core.inq.getD 0 [] = [[7, 8]] ∧ ported.core.inq.getD 5 [] = [])
    ∧ ((30#5).toNat = 30 ∧ companion.ctx.companion = true ∧ (companion.queue (chamberOf companion.ctx.core)).items = [⟨990, 0, 0, 1, 0, 9, true⟩])
    ∧ ({ companion with cq := [] }.queue (chamberOf companion.ctx.core)).items = []
    ∧ (awaitedWords 65 (ported.core.outq.getD 1 []) ≠ none ∧ (ported.core.outq.getD 1 []).length < 64)
    ∧ queueFull.ctx.companion = false ∧ queueFull.companionLaunch (chamberOf queueFull.ctx.core) = some queueFull.ctx.launch
    ∧ 256 ≤ (queueFull.queue (chamberOf queueFull.ctx.core)).items.length := by
  unfold PlainReg
  decide

/-- A result of s23 that is due. -/
theorem witness_landing : Ctx.dueRes { base.ctx with infl := [⟨50, 40, 0, .scalar (base.ctx.phys 23), true, .word 5, 0, true⟩] }
    = some ⟨50, 40, 0, .scalar (base.ctx.phys 23), true, .word 5, 0, true⟩ ∧ base.ctx.wbase ≤ 112 ∧ base.ctx.il = false := by decide

/-- The well-formed instructions of the round trips. -/
theorem witness_round_trips : Instr.wellFormed (.vnr p2 6 4 1 1 true true 9 15) = true
    ∧ (Instr.shape (.vnr p2 6 4 1 1 true true 9 15)).isSome = true ∧ (bundleOf (.add ⟨1, true, true, true, false, 0⟩ 3 1 2)).isSome = true
    ∧ Instr.wellFormed (.add ⟨1, true, true, true, false, 0⟩ 3 1 2) = true
    ∧ (placed (.add p0 3 1 2)).fetch (placed (.add p0 3 1 2)).ctx.q0.addr = (bundleOf (.add p0 3 1 2)).getD [] := by decide

/-- Reads and writes of plain registers answer, for the scalar ALU; a compare under each condition; division at its corners. -/
theorem witness_alu : answers (readS p0 1 false 1 base) = true ∧ answers (writeS p0 1 3 7 0 base) = true ∧ PlainReg 1 ∧ PlainReg 2
    ∧ PlainReg 3 ∧ p0.bypA = false ∧ p0.bypB = false ∧ (5#3).toNat ≤ 5 ∧ base.ctx.scalar 0 = 0
    ∧ base.ctx.scalar 4 = BitVec.ofInt 64 (-(2 ^ 63)) ∧ base.ctx.scalar 1 = BitVec.ofInt 64 (-1)
    ∧ ({ base with ctx := { base.ctx with s := base.ctx.s.set 3 (BitVec.ofInt 64 (-7)) } }).ctx.scalar 3 = BitVec.ofInt 64 (-7)
    ∧ (after (.add p0 3 1 2)).sig = .ran := by
  unfold PlainReg
  decide

/-- Targets: inside the image, below it, beyond it, off a bundle's address. -/
theorem witness_targets : GoodTarget base 0 ∧ GoodTarget base 4080 ∧ ((4096 : Int) % 16 = 0 ∧ (base.ctx.imSize : Int) ≤ 4096)
    ∧ base.ctx.scalar 2 % 16 ≠ 0 ∧ Machine.cond 0 (1 : Word) 1 = true ∧ Machine.cond 0 (1 : Word) 2 = false
    ∧ (base.source false 0).toNat = 0 ∧ base.ctx.wnext + 31 ≤ 112 ∧ (0#5).toNat ≤ base.ctx.wnext ∧ base.ctx.wnext < (1#5).toNat
    ∧ (base.source false 6).toNat % 16 = 0 ∧ base.ctx.imSize ≤ (base.source false 6).toNat := by
  unfold GoodTarget
  decide

/-- Loops: LC above 0, LC 0 with EC 2 and EC 1; targets below the image and off a bundle's address. -/
theorem witness_loops : 0 < ({ base.ctx with lc := 1 } : Ctx).lc.toNat ∧ base.ctx.lc = 0 ∧ 1 < ({ base.ctx with ec := 2 } : Ctx).ec.toNat
    ∧ base.ctx.ec.toNat ≤ 1 ∧ fMajor 0x58200000 = 0x16 ∧ (0x58200000 : SlotWord).extractLsb' 21 5 ≠ 0
    ∧ (base.ctx.q0.addr : Int) + 16 * (-5) < 0 ∧ ((base.ctx.q0.addr : Int) + 16 * (-5)) % 16 = 0 ∧ ((0x44 : Nat) + 16 * 1 : Int) % 16 ≠ 0 := by decide

/-- Modes: task mode; supervisor mode with nothing in flight, with something; a chamber core and a companion. -/
def super : State := { base with ctx := { base.ctx with sv := true, ie := false, epcq0 := 0x40 } }

theorem witness_modes : base.ctx.sv = false ∧ super.ctx.sv = true ∧ super.ctx.infl = [] ∧ super.ctx.replayU = none
    ∧ (∃ r ∈ (collides (.modeI p0)).ctx.infl, r.steers = false) ∧ base.ctx.companion = false ∧ companion.ctx.companion = true
    ∧ base.ctx.sregAssigned 0 = true ∧ base.ctx.sregAssigned 0x1A = true ∧ base.ctx.sregAssigned 0x2C = true
    ∧ companion.ctx.sregAssigned 0x034 = true ∧ sregSuper 0x2B = true ∧ sregSuper 0x06 = false ∧ sregWritten false 0x06 = true
    ∧ ({ base.ctx with steer := { ends := true } } : Ctx).steer.ends = true ∧ (base.ctx.sv && base.ctx.lock) = false := by decide

theorem witness_traps : (⟨0x0F, 0, 7⟩ : TrapReq).underlying ≠ cPage ∧ base.defers 0x0F = false ∧ base.ctx.replayU = none
    ∧ super.ctx.sv = true ∧ super.launches = [taskLaunch] := by decide

/-! ### Synchronisation -/

/-- A task with a flag of 3, one with a full post queue, one with a post of its own at the head. -/
def flagged : State := { base with ctx := { base.ctx with f := base.ctx.f.set 4 3 } }
def postsFull : State := { base with ctx := { base.ctx with posts := List.replicate 8 (.own 4 1) } }

theorem witness_flags : PlainReg 3 ∧ 3 ≤ flagged.ctx.flag 4 ∧ flagged.ctx.flag 4 < 4 ∧ base.ctx.posts.length < 8 ∧ 8 ≤ postsFull.ctx.posts.length
    ∧ (bits (0 : Word) 63 41 = 0 ∧ bits (0 : Word) 39 8 = 0 ∧ bits (0 : Word) 7 0 < 216) ∧ 216 ≤ bits (216 : Word) 7 0
    ∧ postsFull.settled false = true ∧ postsFull.ctx.posts = .own 4 1 :: List.replicate 7 (.own 4 1) ∧ 4 < 32 := by
  unfold PlainReg
  decide

/-- A valid group record at 0x1_0000_0080 (quorum 2), its address in s3. -/
def recorded : State :=
  { base with ctx := { base.ctx with s := base.ctx.s.set 3 0x100000080 }, mem := memPutN [] 0x40000080 [2] }

/-- The group of that record, with one member in a barrier state; its handle in s3. -/
def grouped (bar : BarState) : State :=
  { recorded with ctx := { recorded.ctx with s := recorded.ctx.s.set 3 0x503 }, groups := [⟨3, true, 5, 0x40000080, 1, 1, 0, 1, 7, 0, true, [⟨1, 0, bar⟩]⟩] }

/-- All 256 group objects live. -/
def noGroup : State :=
  { recorded with groups := (List.range 256).map (fun k => ⟨k, true, 5, 0x50000000 + 32 * k, 1, 1, 0, 1, 7, 0, true, []⟩) }

/-- An address that holds a valid record, one that does not, and the record's place: GNEW's premises. -/
theorem witness_gnew : (∃ x t, objHome 0x100000080 recorded = .ok (x, t)) ∧ grValid [2, 0, 0, 0] = true ∧ grValid [0, 0, 0, 0] = false
    ∧ (∃ x t, grRead 0x100000080 (.here 0x40000080) recorded = .ok (x, t)) ∧ (∃ x t, gnewAt 0x100000080 2 0x40000080 recorded = .ok (x, t))
    ∧ recorded.freeGroup = some 0 ∧ recorded.groups.find? (fun g => g.live && g.recAt == 0x40000080) = none
    ∧ ((grouped .idle).groups.find? (fun g => g.live && g.recAt == 0x40000080)).isSome = true :=
  ⟨answers_ex (by decide), by decide, by decide, answers_ex (by decide), answers_ex (by decide), by decide, by decide, by decide⟩

/-- The lowest object free again: its last incarnation was 65535. -/
theorem witness_gnew_again : ({ recorded with groups := [⟨0, false, 65535, 0x40000080, 1, 1, 0, 1, 7, 0, true, []⟩] } : State).freeGroup = some 0
    ∧ (({ recorded with groups := [⟨0, false, 65535, 0x40000080, 1, 1, 0, 1, 7, 0, true, []⟩] } : State).groups.find?
        (fun x => x.index == 0)).isSome = true
    ∧ recorded.groups.find? (fun x => x.index == 0) = none ∧ recorded.closed = false := by decide

set_option maxRecDepth 20000 in
theorem witness_gnew_full : noGroup.freeGroup = none ∧ noGroup.groups.find? (fun g => g.live && g.recAt == 0x40000080) = none := by decide

/-- The group of a valid handle, its members idle, arrived and done, a group of another agency. -/
theorem witness_groups : ((grouped .idle).projected.groupOf ((grouped .idle).source false 3)).isSome = true
    ∧ base.projected.groupOf (base.source false 2) = none ∧ (grouped .idle).ctx.posts.length < 8
    ∧ (∀ g ∈ (grouped .idle).groups, g.admits 1 1 = true ∧ g.member 1 0 = some ⟨1, 0, .idle⟩ ∧ g.member 1 1 = none)
    ∧ (∀ g ∈ (grouped (.arrived 7 false)).groups, g.member 1 0 = some ⟨1, 0, .arrived 7 false⟩)
    ∧ (∀ g ∈ (grouped .idle).groups, g.admits 2 2 = false) := by decide

/-- A generation that completes, one that does not. -/
theorem witness_barriers : (∀ g ∈ (grouped (.arrived 7 false)).groups, g.live = true ∧ g.members ≠ [] ∧ g.quorum ≤ g.members.length
      ∧ (∀ m ∈ g.members, m.arrivedIn g.gen = true) ∧ g.sends = 0)
    ∧ (∀ g ∈ (grouped .idle).groups, ¬ (∀ m ∈ g.members, m.arrivedIn g.gen = true))
    ∧ ((grouped (.done 6 false)).groupOf ((grouped (.done 6 false)).source false 3)).isSome = true ∧ (6 + 1) % 2 ^ 16 = 7
    ∧ (grouped .idle).ctx.posts = [] ∧ (grouped .idle).closed = false ∧ (grouped .idle).settled false = true
    ∧ (grouped .idle).ctx.stepping = false ∧ ({ base.ctx with stepping := true } : Ctx).stepping = true
    ∧ ({ grouped .idle with core := { base.core with later := [⟨1002, 0x40, [9], false, .ctx 0 0⟩] } } : State).settled false = false := by decide

/-- A monitor armed and not woken, woken, none, and a timeout that has passed. -/
theorem witness_monitors : (∃ x t, monitorAt (base.source false 6) base = .ok (x, t)) ∧ (base.source false 5).toNat < 2 ^ 32
    ∧ base.ctx.mon = none ∧ ({ base.ctx with mon := some ⟨9, false, 900⟩ } : Ctx).mwaitAt = none ∧ base.source false 0 = 0
    ∧ base.source false 2 ≠ 0 ∧ ({ base.ctx with mwaitAt := some 1000 } : Ctx).mwaitAt = some base.now :=
  ⟨answers_ex (by decide), by decide, by decide, by decide, by decide, by decide, by decide⟩

/-- A synchronisation object that is free, one held by the task, one held by another. -/
def locked (w : List Byte) : State := { base with mem := memPutN [] 0x40000040 (w ++ List.replicate (32 - w.length) 0) }

theorem witness_objects : (∃ x t, objHome 0x100000040 (locked []) = .ok (x, t)) ∧ soValid [0, 0, 0, 0] = true ∧ soGranted .acqX 0 = true
    ∧ soRefused .acqX 0 0 = false ∧ soRefused .acqX 0 (w64 (2 ^ 63)) = true ∧ soRefused .acqX 0 (w64 (2 ^ 63 + 2 ^ 12)) = false
    ∧ soGranted .acqX (w64 (2 ^ 63 + 2 ^ 12)) = false ∧ soValid [w64 1, 0, 0, 0] = false ∧ soRefused .rel 0 (w64 (2 ^ 63)) = false
    ∧ soRefused .rel 0 0 = true ∧ soGranted .acqS (w64 (65534 * 2 ^ 32)) = true ∧ soGranted .acqS (w64 (65535 * 2 ^ 32)) = false
    ∧ (locked []).poisoned 0x40000040 32 = none ∧ (locked []).core.l1 = [] ∧ (locked []).core.id = (locked []).ctx.core
    ∧ (locked []).closed = false ∧ (locked []).settled false = true :=
  ⟨answers_ex (by decide), by decide⟩

theorem cached_here (s : State) (e : TlbEnt) (va pa : Nat) (h : (decide (2 ^ 32 ≤ va) && decide (va < 2 ^ 57) && decide (s.ctx.core < 192)
      && decide (s.core.id = s.ctx.core) && isHbm pa) = true)
    (he : s.core.tlb.find? (fun e => e.covers s.ctx.launch va) = some e)
    (hp : pa = ptePa e.pte + va % e.size ∧ bitAt e.pte 5 = true ∧ bitAt e.pte 6 = false ∧ pteRm e.pte = false) :
    CachedHere s va pa := by
  simp only [Bool.and_eq_true, decide_eq_true_eq] at h
  obtain ⟨⟨⟨⟨a, b⟩, c⟩, d⟩, f⟩ := h
  exact ⟨a, b, c, d, f, e, he, hp⟩

/-- The object's leaf stands in the TLB: each of ACQ.x, ACQ.s and REL is granted, REL of an object that another holds shared. -/
theorem witness_granted : CachedHere (locked []) 0x100000040 0x40000040 ∧ CachedHere (locked [0, 0, 0, 0, 1]) 0x100000040 0x40000040
    ∧ (locked []).MemWf ∧ (locked [0, 0, 0, 0, 1]).MemWf
    ∧ (let ws := wordsOfBytes 4 (memGetN (locked []).mem 0x40000040 32)
       soValid ws = true ∧ soRefused .acqX 0 (ws.getD 0 0) = false ∧ soGranted .acqX (ws.getD 0 0) = true
         ∧ soRefused .acqS 0 (ws.getD 0 0) = false ∧ soGranted .acqS (ws.getD 0 0) = true)
    ∧ (let ws := wordsOfBytes 4 (memGetN (locked [0, 0, 0, 0, 1]).mem 0x40000040 32)
       soValid ws = true ∧ soRefused .rel 0 (ws.getD 0 0) = false ∧ soGranted .rel (ws.getD 0 0) = true) :=
  ⟨cached_here _ ⟨1, 0x100000000, 0x200000, 0x40000023⟩ _ _ (by decide) (by decide) (by decide),
    cached_here _ ⟨1, 0x100000000, 0x200000, 0x40000023⟩ _ _ (by decide) (by decide) (by decide),
    by unfold State.MemWf; decide, by unfold State.MemWf; decide, by decide, by decide⟩

/-- The sector of the prefetch stands in the TLB; the L1 has room. -/
theorem witness_prefetch : CachedHere base 0x100000040 0x40000040
    ∧ 0 < ({ base.core with l1Size := 1 } : Core).l1Size ∧ ({ base with core := { base.core with l1Size := 1 } } : State).closed = false :=
  ⟨cached_here _ ⟨1, 0x100000000, 0x200000, 0x40000023⟩ _ _ (by decide) (by decide) (by decide), by decide, by decide⟩

/-- A task with a store on its way, one with a far acknowledgement outstanding. -/
def unsettled : State := { base with core := { base.core with later := [⟨1002, 0x40, [9], false, .ctx 0 0⟩] } }
def awaitsFar : State := { base with far := [⟨9, .ctx 0 0, true⟩] }

/-- A dirty byte in the L1, in a sector that another context's far access holds. -/
def dirtyBehindFar : State :=
  { base with core := { base.core with l1Size := 1, l1 := [⟨1, 0x2000000, 0x40000000, List.replicate 128 5, 0xFFFFFFFF, 1, 0⟩] },
              far := [⟨0x2000000, .other, true⟩] }

set_option maxRecDepth 20000 in
theorem witness_fence_waits : dirtyBehindFar.settled false = true ∧ dirtyBehindFar.settled true = true ∧ dirtyBehindFar.closed = false
    ∧ (dirtyBehindFar.flushCore 0 (fun _ => true)).settled false = false
    ∧ (dirtyBehindFar.flushCore 0 (fun l => l.launch == 1 && decide (0x100000000 < 0x100000001) && l.overlaps 0x100000000 0x100000001)).farClear = false
    ∧ base.farClear = true := by decide +kernel

theorem witness_fences : base.settled false = true ∧ base.settled true = true ∧ unsettled.settled false = false
    ∧ awaitsFar.settled true = false ∧ (∀ h ∈ awaitsFar.far.filter (fun h => h.sector == 9), h.far = true) ∧ awaitsFar.far.length = 1 ∧ base.closed = false ∧ base.core.l1Size < 4
    ∧ (∀ g ∈ base.allotted base.ctx.core, g.1 + g.2 ≤ 2 ^ 21 - 4 * 2 ^ 17) ∧ 4 < (base.source false 2).toNat
    ∧ base.core.phaseEnd = none := by decide

/-! ### Memory -/

/-- The task's scratchpad and memory are in reach: the bounds of its granules. -/
theorem witness_scratch : base.inGranules 1 0 0x100000 8 = false ∧ (2 ^ 24 ≤ 0x1000040 ∧ 0x1000040 < 2 ^ 32)
    ∧ NearScratch base 0x40 8 ∧ NearScratch base 0xFFFF8 8 ∧ (base.source false 5).toNat % 8 = 0
    ∧ base.seenPoison base.ctx.core 0x40 8 = none ∧ base.core.later = [] ∧ (0x200040 : Nat) < 2 ^ 24 ∧ 0x200040 / 2 ^ 21 % 8 ≠ base.ctx.core % 8
    ∧ (base.source false 2).toNat % 8 ≠ 0 := by
  unfold NearScratch
  decide

set_option maxRecDepth 20000 in
theorem witness_memory (write : Bool) : ∃ t, PlainMemory base 0x100000040 8 0x40000040 write t := by
  cases write <;> exact ⟨base, by decide, rfl, by decide, by decide, by decide⟩

/-- The store on its way has become due: the only one. -/
theorem witness_landing_stores : ({ unsettled with now := 1002 } : State).core.later.filter (fun w => decide (w.due ≤ 1002))
    = [⟨1002, 0x40, [9], false, .ctx 0 0⟩] ∧ unsettled.MemWf := by
  unfold State.MemWf
  decide

theorem witness_memWf : base.MemWf := by
  unfold State.MemWf
  decide

/-- Vector accesses: aligned, inside 64 KiB; a quantised tag; the register under that tag and under another. -/
def quantised : State :=
  { base with ctx := { base.ctx with s := base.ctx.s.set 3 0x2F, v := base.ctx.v.set 3 (VVal.mk' (dataOfLanes 8 [1]) 0x2F) } }

theorem witness_vector_memory : (base.source false 5).toNat % 64 = 0 ∧ 0xFF00 % 65536 + 256 ≤ 65536 ∧ 0xFEC0 % 65536 + 320 ≤ 65536
    ∧ tagOk (0x2F : BitVec 24) = true ∧ tagFmt (0x2F : BitVec 24) = 15 ∧ tagRot (0x2F : BitVec 24) = 0
    ∧ (quantised.ctx.vec 3).tag = 0x2F ∧ (quantised.ctx.vec 1).tag ≠ 0x2F ∧ base.seenPoison base.ctx.core 0x40 320 = none
    ∧ base.inGranules 1 0 0x40 320 = true ∧ laneAddrs (0x40 : Word) (base.ctx.vec 0) 0 4 = []
    ∧ (∃ side t, recordSide (0x40 : Word) (0x2F : BitVec 24) 0 (words32 (groupCount (tagF (0x2F : BitVec 24)) (tagGrp (0x2F : BitVec 24)))
        (List.replicate 256 0)) base = .ok (side, t)) :=
  ⟨by decide, by decide, by decide, by decide, by decide, by decide, by decide, by decide, by decide, by decide, by decide,
    answers_ex (by decide)⟩

/-- 256 bytes in one page of 64 KiB and across two; a record across two; a tag of no quantised format, one that is too wide. -/
theorem witness_pages : NearScratch base 0x40 256 ∧ NearScratch base 0xFFC0 256 ∧ NearScratch base 0xFF80 320 ∧ ClearAt base 0x40 256
    ∧ ClearAt base 0xFFC0 256 ∧ ClearAt base 0xFFC0 64 ∧ ClearAt base 0x10080 64 ∧ 0xFFC0 % 64 = 0 ∧ firstPiece 0xFFC0 256 = 64
    ∧ firstPiece 0x40 256 = 256 ∧ tagFmt (10 : BitVec 24) ≠ 15 ∧ tagFmt (10 : BitVec 24) ≠ 16 ∧ tagOk (10 : BitVec 24) = true
    ∧ tagOk (0x1F : BitVec 24) = false ∧ 2 ^ 24 ≤ (0x1000000 : Word).toNat := by
  unfold NearScratch ClearAt
  decide

/-- Where the parts of a store may go at once, whether they may. -/
def storesNow (s : State) : Bool := match laneParts 4 true (laneAddrs (0x40 : Word) (base.ctx.vec 0) 0xF 4) s with
  | .ok (ps, s1) => answers (notifyReady ps s1) && answers (storeHere (policyOf 1) (ps.zip [[1, 2, 3, 4]]) s1)
  | .error _ => false

theorem witness_scatter : storesNow base = true := by decide

/-- An atomic behind a store on its way to its bytes, and one with none; one on memory, of eight bytes. -/
theorem witness_atomics : unsettled.core.ownOver 0x40 8 = true ∧ base.core.ownOver 0x40 8 = false ∧ base.scrPoisoned 0 0x40 8 = none
    ∧ base.core.l1 = [] ∧ base.poisoned 0x40000040 8 = none ∧ base.notifySector 0x40000040 = none ∧ 0x100000040 % 8 = 0 ∧ 5 % 8 ≠ 0 := by decide

/-- One enabled lane of a gather and a scatter. -/
theorem witness_gather : answers (gatherHere (policyOf 1) 4 (laneAddrs (0x40 : Word) (base.ctx.vec 0) 0xF 4) base) = true
    ∧ answers (laneParts 4 true (laneAddrs (0x40 : Word) (base.ctx.vec 0) 0xF 4) base) = true ∧ (0x40 : Nat) % 4 = 0 ∧ 5 % 4 ≠ 0 := by decide

/-- Two enabled lanes of the own scratchpad. -/
theorem witness_lanes : (laneAddrs (0x40 : Word) (base.ctx.vec 1) 0xFF 4).length = 2
    ∧ (∀ l ∈ laneAddrs (0x40 : Word) (base.ctx.vec 1) 0xFF 4, NearScratch base l.2 4
      ∧ base.seenPoison base.ctx.core (l.2 % 2 ^ 21) 4 = none) := by
  unfold NearScratch
  decide

/-! ### The copy engine, the bus, Flowstone and Rimstone -/

/-- A channel that is full, one whose transfer 0 has completed, one stopped. -/
def queued (n : Nat) : State :=
  { base with core := { base.core with chans := base.core.chans.set 0 { Channel.reset with nextId := BitVec.ofNat 32 n, queue := (List.range n).map (fun k => ⟨BitVec.ofNat 32 k, 0, 1, 1, CmdRegs.zero, []⟩) } } }

theorem witness_channels : (base.core.chan 0).queue.length < 4 ∧ 4 ≤ ((queued 4).core.chan 0).queue.length
    ∧ base.core.badCommand 0 CmdRegs.zero = none ∧ (base.core.badCommand 0 (CmdRegs.zero.set 3 0xFFFFFFFFFFFFFFFF)).isSome = true
    ∧ (((queued 1).core.chan 0).doneId - 1 - 0xFFFFFFFF).toNat < 2 ^ 31 ∧ 2 ^ 31 ≤ (((queued 1).core.chan 0).doneId - 1 - 0).toNat
    ∧ ((queued 1).core.chan 0).own (queued 1).ctx = 1 ∧ (base.core.chan 0).own base.ctx < 1 ∧ ((queued 1).core.chan 0).flt = false
    ∧ ((queued 1).core.chan 0).queue.getLast? = some ⟨0, 0, 1, 1, CmdRegs.zero, []⟩
    ∧ 0x3001 / 4096 ≤ 3 ∧ 0x3001 % 4096 ≤ 0x00D ∧ 0x4005 / 4096 = 4 ∧ 0x4005 % 4096 < 6 ∧ CmdRegs.zero.empty = true := by decide

/-- A channel whose active command waits for another package's answer. -/
def requesting : State :=
  { base with core := { base.core with chans := base.core.chans.set 0 { Channel.reset with nextId := 1, queue := [⟨0, 0, 1, 1, CmdRegs.zero, []⟩], active := true } },
              fab := { base.fab with out := [⟨⟨0, 0, 1, 6144, 0, 1, .read 0 8 0⟩, 31000, 0, 0, 0, 16, none, 1⟩] } }

theorem witness_channel_request : (∃ o, ChannelRequest requesting 0 ⟨0, 0, 1, 1, CmdRegs.zero, []⟩ o ∧ o.answer = none)
    ∧ Command.by ⟨0, 0, 1, 1, CmdRegs.zero, []⟩ requesting.ctx = true ∧ (requesting.core.chan 0).active = true
    ∧ (requesting.core.chan 0).flt = false ∧ CmdRegs.zero.cal = false ∧ requesting.fab.out ≠ []
    ∧ (∀ q ∈ (queued 1).core.chan 0 |>.queue, ∀ o, ¬ ChannelRequest (queued 1) 0 q o) :=
  ⟨⟨⟨⟨0, 0, 1, 6144, 0, 1, .read 0 8 0⟩, 31000, 0, 0, 0, 16, none, 1⟩, ⟨by decide, by decide, by decide, by decide⟩, rfl⟩,
    by decide, by decide, by decide, by decide, by decide, fun q _ o h => absurd h.1 (List.not_mem_nil)⟩

/-- A tagged command of one byte, with a count and no group; a channel whose active command has a write behind a PHASE window. -/
def taggedByte : CmdRegs := { CmdRegs.zero with cmd := 2 ^ 25, src := 0x40, dst := 0x48, cnt0 := 0x0001000100010001, cnt1 := 0x00010001 }
def holding : State :=
  { queued 1 with core := { (queued 1).core with
      chans := (queued 1).core.chans.set 0 { (queued 1).core.chan 0 with active := true }, later := [⟨3049, 0x48, [9], false, .chan 0 0⟩] } }

theorem witness_tagged : base.core.badCommand 0 taggedByte = none ∧ bitAt taggedByte.cmd 25 = true ∧ taggedByte.empty = false
    ∧ base.groupOf taggedByte.step = none ∧ base.settled false = true ∧ holding.chanHeld 0 = true ∧ (holding.core.chan 0).active = true
    ∧ (holding.core.chan 0).queue.length = 1 ∧ (queued 1).chanHeld 0 = false := by decide

/-- A parameter block that is read and valid. -/
theorem witness_block : (∃ ws t, paramBlock 0x100000080 base = .ok (ws, t)) ∧ blockBad (List.replicate 16 0) = none :=
  ⟨answers_ex (by decide), by decide⟩

/-- The chamber bus: a group, no arrival, one arrival of 256 bytes. -/
def arrived : State :=
  { base with core := { base.core with bus := [⟨1000, false, 1, List.replicate 256 7⟩] } }

theorem witness_bus : NearScratch base 0x100 256 ∧ 0x100 % 256 = 0 ∧ ((grouped .idle).groupOf ((grouped .idle).source false 3)).isSome = true
    ∧ base.core.bus.filter (fun e => e.here base.now base.ctx) = [] ∧ 5 % 256 ≠ 0
    ∧ (arrived.core.bus.filter (fun e => e.here arrived.now arrived.ctx)).length = 1 := by
  unfold NearScratch
  decide

/-- Whether an engine's computation answers. -/
def okIs {α : Type} (m : Except EStop (α × State)) : Bool := match m with
  | .ok _ => true
  | .error _ => false

theorem okE {α : Type} {m : Except EStop (α × State)} (h : okIs m = true) : ∃ x s, m = .ok (x, s) := by
  cases m with
  | ok e => exact ⟨e.1, e.2, rfl⟩
  | error _ => exact absurd h Bool.false_ne_true

/-- The answer of an engine's computation. -/
def okVal {α : Type} (m : Except EStop (α × State)) : Option α := match m with
  | .ok e => some e.1
  | .error _ => none

theorem okIt {α : Type} {m : Except EStop (α × State)} {x : α} (h : okVal m = some x) : ∃ s, m = .ok (x, s) := by
  cases m with
  | ok e => exact ⟨e.2, by rw [← Option.some.inj h]⟩
  | error _ => exact absurd h (Option.some_ne_none x ∘ Eq.symm)

/-! ### Flowstone and Rimstone -/

/-- Words at an address of the task's page. -/
def atPage (off : Nat) (ws : List Word) (m : List Host.Cell) : List Host.Cell := memPutN m (0x40000000 + off) (bytesOfWords ws)

/-- The launch's tables: the GiB at 2^32 lies at physical 0x40000000. -/
def tables : List Host.Cell := memPutN (memPutN [] 0x10000000 (bytesOfWords [0x10010001])) 0x10010020 (bytesOfWords [0x40000023])

/-- A valid layout (raw, one dimension of 64 bytes, one device, its table at 0x1_0001_0000), a fresh progress record. -/
def flowing : State :=
  { base with mem := atPage 0x400 [0, 0, 0, 0, 0, 0, 0, 0x100020000] (atPage 0x80 [0x0000000F09000000, 64, 0, 0, 1, 0, 0, 0, 0x100010000, 0x100018000] tables) }

/-- A valid manifest of one entry for device 1 of a package with two devices, a fresh progress record. -/
def saving : State :=
  { base with mem := atPage 0x80 [0x10001, 0x1000000000000, 0, 0, 0, 0, 0, 0, 0x100010000, 128] tables, fab := { base.fab with dims := (2, 1, 1), devices := [0, 1] } }

/-- A run in progress on the record at 0x1_0000_0400. -/
def aRun : Run :=
  { Run.blank { core := none, key := 48, stream := 6912, launch := 1, agency := 1 } false 0x100000400 0x40000400 [0, 0, 0, 0, 0, 0, 0, 0x100020000] none with
    source := [0x0000000F09000000, 64, 0, 0, 1, 0, 0, 0, 0x100010000, 0x100018000], target := [0x0000000F09000000, 64, 0, 0, 1, 0, 0, 0, 0x100010000, 0x100018000],
    tabS := [0], tabD := [0], hash := 7 }

def running : State := { flowing with flows := [aRun] }
/-- The run that an instruction or a packet entered, and whose commit it waited for, is committed. -/
def entered (who : Nat × Nat) : State := { flowing with flows := [{ aRun with waited := some who }] }

set_option maxRecDepth 20000 in
theorem witness_flow_instructions : (∃ r t, reshardE ((entered (0, 64)).ctx.who 64) 0x100000400 0x100000080 0x100000080 none (entered (0, 64)) = .ok (r, t))
    ∧ (∃ t, stopRun aRun running = .ok ((), t))
    ∧ (∀ r ∈ running.flows, r.waited = some (0, 64) → r.recVa ≠ 0x100000400)
    ∧ (∃ r t, ckptE (saving.ctx.who 64) 0x100000080 0x100000400 none saving = .ok (r, t))
    ∧ (∃ t, runOn (running.ctx.who 64) 0x100000400 running = .ok (some aRun, t))
    ∧ (∃ t, runOn (flowing.ctx.who 64) 0x100000400 flowing = .ok (none, t)) ∧ 0x100000040 % 128 ≠ 0 ∧ 0x100000004 % 64 ≠ 0 :=
  ⟨okE (by decide +kernel), okIt (by decide +kernel), by decide +kernel, okE (by decide +kernel), okIt (by decide +kernel), okIt (by decide +kernel), by decide, by decide⟩

/-- The words of an HCB with a window of two slices of 32 single-precision numbers. -/
def hcbWords : List Word := [0x0000000100020000, 0x0000000200000020, 0, 0x100020000, 128, 1, 1, 0, 1, 0, 0, 0, 0, 0, 0, 0]

/-- Horizon 2 as the launch opened it, slice 0 settled, slice 1 in a given state. -/
def horizonWith (scs : List SliceCtx) : Horizon :=
  { h := 2, hcbAt := 0x100000080, hcb := hcbWords, launch := 1, owner := 0, winLo := 0, scs := scs, tries := [], signals := [],
    opening := 1, sweeps := [], stuck := [], parts := [], joints := [], lost := false, told := false, offer := none }

def firstSlice : SliceCtx := { SliceCtx.fresh 0 0 with gen := 1, settled := true }

def opened (scs : List SliceCtx) (b : Option Binding) : State :=
  { base with ctx := { base.ctx with bind := b }, mem := atPage 0x80 hcbWords tables, rim := [horizonWith scs] }

def twoSlices : State := opened [firstSlice, SliceCtx.fresh 1 1] none

set_option maxRecDepth 20000 in
theorem witness_horizon_reads : OpenHorizon twoSlices 2 (horizonWith [firstSlice, SliceCtx.fresh 1 1]) ∧ (∀ z, ¬ OpenHorizon base 2 z)
    ∧ (∃ v t, openE (twoSlices.ctx.who 64) 2 0x100000080 0 twoSlices = .ok (v, t))
    ∧ (∃ v t, refreshE (twoSlices.ctx.who 64) (horizonWith [firstSlice, SliceCtx.fresh 1 1]) 0x100000080 twoSlices = .ok (v, t))
    ∧ 12 > 11 ∧ (0x100000040 : Nat) ≠ 0x100000080 ∧ base.ctx.slFreed 2 = false
    ∧ ({ twoSlices with rim := [{ horizonWith [] with launch := 2 }] } : State).horizon 2 = some { horizonWith [] with launch := 2 } :=
  ⟨⟨rfl, rfl⟩, fun z h => by simp [OpenHorizon, State.horizon, base, State.reset] at h, okE (by decide), okE (by decide), by decide, by decide,
    by decide, by decide⟩

/-- An accepted report whose sweep still waits, and is over; a wait whose horizon has closed. -/
def told : State :=
  { opened [firstSlice, SliceCtx.fresh 1 1] none with
    ctx := { base.ctx with slTold := true, slwaitAt := some (0x40, 2, true) },
    rim := [{ horizonWith [firstSlice, SliceCtx.fresh 1 1] with sweeps := [⟨0, some (0, 0), 0, 0⟩] }] }

set_option maxRecDepth 20000 in
theorem witness_horizon_waits : told.ctx.slTold = true ∧ told.slOver 2 = false
    ∧ ({ told with rim := [horizonWith [firstSlice]] } : State).slOver 2 = true ∧ told.ctx.slFreed 2 = true ∧ base.ctx.slTold = false
    ∧ base.ctx.slFreed 2 = false := by decide

set_option maxRecDepth 20000 in
/-- An eligible slice, none, a binding, a report, a settled prefix, a slice to retire, a vacant one. -/
theorem witness_horizon_acts : ((horizonWith [firstSlice, SliceCtx.fresh 1 1]).pick true false 0).isSome = true
    ∧ (horizonWith [{ firstSlice with fine := some (0, 0) }, SliceCtx.fresh 1 1]).pick true false 0 = none
    ∧ bits (0 : Word) 63 1 = 0 ∧ twoSlices.ctx.bind = none ∧ (opened [firstSlice] (some ⟨2, 0, false, 1⟩)).ctx.bind = some ⟨2, 0, false, 1⟩
    ∧ okIs (sweepAttempt 2 0 (opened [{ firstSlice with genF := some 1 }, SliceCtx.fresh 1 1] none)) = true
    ∧ (horizonWith [firstSlice]).vacant = some 1 ∧ (horizonWith [firstSlice, SliceCtx.fresh 1 1]).vacant = none
    ∧ (horizonWith [firstSlice, { SliceCtx.fresh 1 1 with settled := true }]).retirable 0 = true
    ∧ (horizonWith [firstSlice]).retirable 0 = false ∧ twoSlices.sweeping (horizonWith [firstSlice]) = false
    ∧ twoSlices.sweeping { horizonWith [firstSlice] with joints := [⟨0, 0, false, none⟩] } = true
    ∧ Nat.min 0 (2 - 1) < (horizonWith [firstSlice, SliceCtx.fresh 1 1]).prefixPtr
    ∧ (horizonWith [firstSlice, SliceCtx.fresh 1 1]).prefixPtr ≤ Nat.min 1 (2 - 1) := by decide

/-! ### The vector unit, Helictite and the matrix array -/

/-- Every vector register holds zeros under one tag. -/
def tagged (t : BitVec 24) (trap : BitVec 5 := 0) : State :=
  { base with ctx := { base.ctx with fptrap := trap, v := Vector.replicate 32 (VVal.mk' (dataOfLanes 32 [0x3F800000]) t) } }

theorem witness_fits : Fits 3 0 ∧ Fits 10 10 ∧ FitsBits 0 0 ∧ FitsBits 0 10 ∧ FitsBits 3 3 ∧ ((tagged 10).vsource false 1).tag = 10
    ∧ (tagged 10).ctx.fptrap = 0 ∧ (1 ≤ (14#5).toNat ∧ (14#5).toNat ≤ 14) ∧ (1 ≤ (8#5).toNat ∧ (8#5).toNat ≤ 8)
    ∧ tagFmt ((tagged 3).vsource false 1).tag ≠ (10#5).toNat ∧ ((tagged 3).vsource false 1).tag ≠ 0 ∧ isFloat 3 = false := by
  unfold FitsBits Fits
  decide

/-- A source under tag 10 beside one of another format, of an ill-formed tag, of a grouped one. -/
def mixed (t : BitVec 24) : State := { tagged 10 with ctx := { (tagged 10).ctx with v := (tagged 10).ctx.v.set 2 (VVal.mk' (dataOfLanes 32 [1]) t) } }

theorem witness_misfits : Misfits 10 3 ∧ Misfits 10 0x800000 ∧ Misfits 10 (mkTag 10 1 0 0 0) ∧ Fits 10 ((mixed 3).vsource false 1).tag
    ∧ Misfits 10 ((mixed 3).vsource false 2).tag ∧ Misfits 10 ((mixed 3).ctx.vec 2).tag := by
  unfold Misfits Fits
  decide

/-- An enabled flag raised by element 1 of a division (0 / 0) and by none before it; by element 1 of a reciprocal (1 / 0); by element 0 of
a fused multiply and subtract (∞ · ∞ − ∞). -/
def infinite : State := { tagged 10 16 with ctx := { (tagged 10 16).ctx with v := Vector.replicate 32 (VVal.mk' (dataOfLanes 32 [0x7F800000]) 10) } }

theorem witness_flag_trap :
    (LowestRaised (tagged 10 16) (laneResults (tagged 10 16) 0 32 (fun i => (ffmt 10).div 0 true
      ((ffmt 10).decode true (((tagged 10).vsource false 1).lane 32 i)) ((ffmt 10).decode true (((tagged 10).vsource false 1).lane 32 i)))) 1)
    ∧ (LowestRaised (tagged 10 8) (laneResults (tagged 10 8) 0 32 (fun i => (ffmt 10).div 0 true (.num false 1 0)
      ((ffmt 10).decode true (((tagged 10).vsource false 1).lane 32 i)))) 1)
    ∧ (LowestRaised infinite (fusedResults infinite p2 (id, FVal.neg) 3 1 2 0 0 10) 0) := by
  unfold LowestRaised
  decide +kernel

/-- Shuffles: sources without group or rotation, no pattern write and one on its way. -/
theorem witness_shuffles : tagOk (0 : BitVec 24) = true ∧ tagGrp (0 : BitVec 24) = 0 ∧ tagRot (0 : BitVec 24) = 0 ∧ base.ctx.vpld = []
    ∧ ({ base.ctx with vpld := [⟨1004, 5, []⟩] } : Ctx).vpld ≠ [] := by decide

theorem zero_bytes : VVal.zero.bytes = List.replicate 256 0 := by decide +kernel

theorem zero_nat (m : Nat) : natOfBytes (List.replicate m 0#8) = 0 := by
  induction m with
  | zero => rfl
  | succ m ih => simp [List.replicate_succ, natOfBytes, ih]

theorem zero_halves (n m : Nat) : halvesOfBytes n (List.replicate m 0#8) = List.replicate n 0#16 := by
  induction n generalizing m with
  | zero => rfl
  | succ n ih => simp [halvesOfBytes, List.take_replicate, List.drop_replicate, zero_nat, ih, List.replicate_succ]

/-- A pattern image of legal halves: two registers of zeros. -/
theorem witness_pattern_image : ∀ h ∈ halvesOfBytes 256 (VVal.zero.bytes ++ VVal.zero.bytes), h.toNat / 512 % 64 = 0 := by
  rw [zero_bytes, List.replicate_append_replicate]
  intro h hh
  rw [show halvesOfBytes 256 (List.replicate (256 + 256) 0) = _ from zero_halves 256 (256 + 256)] at hh
  rw [List.eq_of_mem_replicate hh]
  rfl

/-- Helictite: a new tag with and without a group; a plain source to rotate; two plain, two rotated registers to narrow; a register
to widen, one to rotate back. -/
theorem witness_helictite : tagOk (mkTag 15 1 0 0 0) = true ∧ sideOk 15 (2048 / (fmtWidth 15 * runLen 1)) (Vector.replicate 16 0) = true
    ∧ tagOk (mkTag 11 0 2 3 (fingerprint 0)) = true ∧ runLen (1#2).toNat ≤ 2048 / fmtWidth 10
    ∧ (∀ v ∈ (List.range 2).map (fun k => (tagged 10).ctx.vec (4 + k)), v.tag = 10) ∧ tagOk (10 : BitVec 24) = true ∧ tagGrp (10 : BitVec 24) = 0
    ∧ tagRot (10 : BitVec 24) = 0 ∧ fmtIn 10 9 12 = true ∧ fmtWidth 10 = 2 * fmtWidth 11 ∧ 4 % 2 = 0
    ∧ tagRot (mkTag 10 0 1 3 (fingerprint 0)) = 1 ∧ tagOk (mkTag 10 0 1 3 (fingerprint 0)) = true
    ∧ fmtIn 11 10 16 = true ∧ fmtWidth 10 = 2 ^ (1#2).toNat * fmtWidth 11 ∧ tagFp (mkTag 11 0 1 3 (fingerprint 0)) = fingerprint 0 := by decide

/-- A descriptor pair in s2 and s3 (16 rows at scratchpad address 0x1000, tag i8), a mode for i8. -/
def matrixed : State :=
  { base with ctx := { base.ctx with s := (base.ctx.s.set 2 0x100000000000).set 3 (w64 (1 * 2 ^ 21)) }, core := { base.core with mode := some ⟨1, 1, 0, 0, 0⟩ } }

/-- A mode for groups of int8, a latch and a register under that tag, a descriptor of it; the register's first metadata word; 0xFFFF
where the descriptor's metadata begins. -/
def feeding (side0 : BitVec 24) : State :=
  { matrixed with
    ctx := { matrixed.ctx with
      s := matrixed.ctx.s.set 3 (w64 ((mkTag 15 1 0 0 0).toNat * 2 ^ 21)),
      v := matrixed.ctx.v.set 3 ⟨dataOfLanes 8 [1], mkTag 15 1 0 0 0, (Vector.replicate 16 0).set 0 side0⟩ },
    core := { matrixed.core with
      mode := some ⟨15, 15, 1, 0, 0⟩, el := matrixed.core.el.set 0 { Latch.zero with tag := mkTag 15 1 0 0 0 } },
    scr := memPutN matrixed.scr (scrKey 0 0x1080) [0xFF, 0xFF] }

/-- The metadata words of an A row in register 3, first half. -/
def rowWords (s : State) (groups : Nat) : List Word :=
  (List.range groups).map (fun j => w64 ((s.vsource false 3).side.getD (0 * groups + j) 0).toNat)

set_option maxRecDepth 20000 in
/-- A beat whose metadata words are valid, one whose first is not, in a register and under a descriptor: its four groups. -/
theorem witness_feeds : 1024 / fmtWidth 15 / runLen 1 = 4 ∧ (rowWords (feeding 0) 4).all (metaWordOk 15) = true
    ∧ (rowWords (feeding 0xFFFF) 4).any (fun x => !metaWordOk 15 x) = true ∧ answers (readDesc 2 (feeding 0)) = true
    ∧ ((feeding 0).ctx.desc 2).tag = mkTag 15 1 0 0 0
    ∧ (feeding 0).metaFault 15 (((feeding 0).ctx.desc 2).chunks 3) 128 4 = some 0x1080 :=
  ⟨by decide +kernel, by decide +kernel, by decide +kernel, by decide +kernel, by decide +kernel, by decide +kernel⟩

theorem witness_feed_tags : tagOk (mkTag 15 1 0 0 0) = true ∧ tagFmt (mkTag 15 1 0 0 0) = 15 ∧ tagGrp (mkTag 15 1 0 0 0) = 1
    ∧ tagRot (mkTag 15 1 0 0 0) = 0 ∧ (feeding 0).ctx.tile 1 = some 1 ∧ ((feeding 0).core.tiles.getD 1 ⟨0, []⟩).tag = 0 :=
  ⟨by decide +kernel, by decide +kernel, by decide +kernel, by decide +kernel, by decide +kernel, by decide +kernel⟩

set_option maxRecDepth 20000 in
theorem witness_matrix_loads : base.ctx.exposed = true ∧ (matrixed.ctx.tile 1) = some 1 ∧ PlainReg 2 ∧ bits (0 : Word) 63 16 = 0
    ∧ (∀ b ∈ base.core.beats, b.flying 1 7 base.ctx.clk = false) ∧ (base.core.tiles.getD 1 ⟨0, []⟩).tag = 0
    ∧ tagOk (0 : BitVec 24) = true ∧ matrixed.core.mode = some ⟨1, 1, 0, 0, 0⟩
    ∧ (∀ x ∈ matrixed.core.latchW, x.latch ≠ 0) ∧ matrixed.metaFault 1 [] 128 0 = none
    ∧ (matrixed.metaFault 1 ((matrixed.ctx.desc 2).chunks 12) 0 192 = none) := by
  unfold PlainReg
  decide +kernel

/-! ### What happens between bundles -/

/-- A pattern write, a latch row, a tile row, a captured result and a PHASE window that are due. -/
def pending : State :=
  { base with ctx := { base.ctx with vpld := [⟨1000, 5, []⟩], replayU := some 48, snap := [⟨2, ⟨0, 40, 0, .scalar 3, true, .word 5, 0, false⟩⟩] },
              core := { base.core with latchW := [⟨50, 3, 7, some 1, 0, [], []⟩], beats := [⟨50, 40, 7, 3, .words 64 [1]⟩], phaseEnd := some 1000, l1Next := 2, later := [⟨1000, 0x40, [1], false, .ctx 0 0⟩] } }

theorem witness_pending : pending.ctx.vpld = [⟨1000, 5, []⟩] ∧ 1000 ≤ pending.now
    ∧ pending.core.latchW.filter (fun y => decide (y.due ≤ pending.ctx.clk)) = [⟨50, 3, 7, some 1, 0, [], []⟩]
    ∧ pending.core.beats.filter (fun y => decide (y.due ≤ pending.ctx.clk)) = [⟨50, 40, 7, 3, .words 64 [1]⟩]
    ∧ pending.ctx.dueSnap = some ⟨2, ⟨0, 40, 0, .scalar 3, true, .word 5, 0, false⟩⟩ ∧ pending.ctx.phys 3 = 3
    ∧ pending.core.phaseEnd = some 1000 ∧ pending.core.later = [⟨1000, 0x40, [1], false, .ctx 0 0⟩]
    ∧ ({ pending.core with later := [] } : Core).later = [] := by decide

theorem witness_wakes : PlainReg 3 ∧ ((grouped .idle).groupAt 3 5).isSome = true ∧ (grouped .idle).groupAt 3 6 = none
    ∧ ({ base.ctx with mwaitAt := some 1000 } : Ctx).mwaitAt = some 1000 ∧ ({ base.ctx with stallAt := some (900, .acquire) } : Ctx).stallAt = some (900, .acquire)
    ∧ base.ctx.status ≠ .free ∧ base.ctx.mcOut = 0 ∧ ({ base.ctx with mcOut := 1 } : Ctx).mcOut ≠ 0 ∧ base.ctx.ackOrd = none := by
  unfold PlainReg
  decide

/-- Traps between bundles: an interrupt enabled and pending, breakpoints on the bundle about to issue, an overrun. -/
theorem witness_between_bundles : base.ctx.ie = true ∧ (1 : BitVec 2) &&& 1 ≠ 0 ∧ base.ctx.ienable &&& base.ctx.ipend = 0
    ∧ base.ctx.bpskip = false ∧ base.ctx.q0.an = false ∧ (bitAt (0x41 : Word) 0 && bits (0x41 : Word) 17 4 * 16 == base.ctx.q0.addr) = true
    ∧ (bitAt base.ctx.bkpt0 0 && bits base.ctx.bkpt0 17 4 * 16 == base.ctx.q0.addr) = false ∧ base.ctx.overPend = false ∧ base.ctx.sv = false
    ∧ ({ base.ctx with overPend := true } : Ctx).overPend = true ∧ base.core.id = base.ctx.core
    ∧ ({ base.ctx with status := .faulted, pfault := some ⟨⟨0x0A, 0, 0⟩, 0, 0, 0, 0, 0, false⟩ } : Ctx).status = .faulted := by decide

/-- A task that has stalled in WAITF for more than 256 cycles beside one that is ready; an idle core beside one that is ready. -/
def second : Ctx := { Ctx.idle 0 1 with status := .ready, launch := 2, agency := 1 }
def stalled : State := { base with ctx := { base.ctx with stallAt := some (700, .flag) }, ctxs := [second] }
def idling : State := { base with ctx := { base.ctx with status := .ending }, core := { base.core with running := none }, ctxs := [second] }
def parked : State := placed (.waitf p0 3 0) { base with ctx := { base.ctx with status := .parked } }
def quantumOver : State := { base with now := 150000 }

theorem witness_switches : stalled.core.id = stalled.ctx.core ∧ stalled.holding = true ∧ stalled.stalledLong = true
    ∧ (chooseNext stalled.core stalled.now (stalled.allCtxs.filter (fun c => c.candidate stalled.core.id && !(true && c.slot == stalled.ctx.slot)))).map
        (fun e => (e.1.slot, e.2)) = some (1, 150000)
    ∧ idling.core.running = none
    ∧ (chooseNext idling.core idling.now (idling.allCtxs.filter (fun c => c.candidate idling.core.id))).map (fun e => (e.1.slot, e.2)) = some (1, 150000)
    ∧ (parked.focusCtx parked.core.id 0).ctx.status = .parked ∧ (parked.focusCtx parked.core.id 0).waitOver = true
    ∧ quantumOver.core.qEnd ≤ quantumOver.now ∧ 150000 ∣ quantumOver.core.qEnd ∧ idling.endSettled = true
    ∧ base.ctx.lock = false ∧ base.preemptible = true ∧ super.preemptible = false := by decide +kernel

/-- The commands of channel 0: one byte of the scratchpad to another; from an address of no page; empty; calendar lines. -/
def oneByte (src : Word) (cmd : Word) : CmdRegs :=
  { CmdRegs.zero with cmd := cmd, src := src, dst := 0x48, cnt0 := 0x0001000100010001, cnt1 := 0x00010001 }

def copying (r : CmdRegs) : State :=
  { base with mem := tables, core := { base.core with chans := base.core.chans.set 0 { Channel.reset with nextId := 1, queue := [⟨0, 0, 1, 1, r, []⟩], active := true } } }

/-- The fault a run of elements ends with. -/
def runFault (e : State × Option EStop) : Option TrapReq := match e.2 with
  | some (.fault r _) => some r
  | _ => none

theorem runFault_ex {e : State × Option EStop} (h : (runFault e).isSome = true) : ∃ u r log, e = (u, some (.fault r log)) := by
  obtain ⟨u, x⟩ := e
  cases x with
  | none => exact absurd h Bool.false_ne_true
  | some y => cases y with
    | fault r log => exact ⟨u, r, log, rfl⟩
    | pend f => exact absurd h Bool.false_ne_true

/-- Who makes the accesses of a command of channel 0. -/
def copier (r : CmdRegs) : Who := Command.who ⟨0, 0, 1, 1, r, []⟩ 0 0

theorem witness_copies : ((copying (oneByte 0x40 0x100000)).core.chan 0).active = true ∧ ((copying (oneByte 0x40 0x100000)).core.chan 0).flt = false
    ∧ (oneByte 0x40 0x100000).empty = false ∧ (oneByte 0x40 0x100000).cal = false ∧ CmdRegs.zero.empty = true
    ∧ (∃ u, State.copyRun (copier CmdRegs.zero) 0 0 (oneByte 0x40 0x100000) (oneByte 0x40 0x100000).elements (copying (oneByte 0x40 0x100000)) = (u, none)
      ∧ (oneByte 0x40 0x100000).total ≤ (u.core.chan 0).count ∧ u.chanPending 0 = false ∧ (u.core.chan 0).queue.length = 1)
    ∧ (∃ u r log, State.copyRun (copier CmdRegs.zero) 0 0 (oneByte 0x4000000000 0) (oneByte 0x4000000000 0).elements (copying (oneByte 0x4000000000 0)) = (u, some (.fault r log)))
    ∧ (∀ j ∈ ([] : List (Nat × BitVec 32)), ((copying CmdRegs.zero).core.chan j.1).complete j.2 = true) :=
  ⟨by decide +kernel, by decide +kernel, by decide +kernel, by decide +kernel, by decide +kernel,
    ⟨_, Prod.ext rfl (isNone_eq (by decide +kernel)), by decide +kernel, by decide +kernel, by decide +kernel⟩, runFault_ex (by decide +kernel), by intro j h; cases h⟩

/-- A calendar line to issue, one in flight, one that carries poison. -/
def lined (bad : BitVec 4) : State :=
  { copying (oneByte 0x100000080 0x80007F) with core := { (copying (oneByte 0x100000080 0x80007F)).core with lines := [⟨0, 0, 0, 900, none, 0x40000080, 0, 0x80, [], bad, false, false, 1420, 0, false, none⟩] } }

/-- The channel of `copying` with its translation gone. -/
def untranslated : State :=
  { copying (oneByte 0x100000080 0x80007F) with core := { (copying (oneByte 0x100000080 0x80007F)).core with tlb := [] } }

theorem witness_calendar : (oneByte 0x100000080 0x80007F).cal = true ∧ 0 < (oneByte 0x100000080 0x80007F).lineCount
    ∧ ((copying (oneByte 0x100000080 0x80007F)).core.chan 0).readyAt ≤ 1000 ∧ ((copying (oneByte 0x100000080 0x80007F)).core.chan 0).issued = 0
    ∧ (oneByte 0x100000080 0x80007F).empty = false ∧ (lined 0).core.lines.length = 1 ∧ ((lined 0).coreAt 0).phaseEnd = none ∧ (1 : BitVec 4) ≠ 0
    ∧ (∀ l ∈ (lined 0).core.lines, (lined 0).scrPending (l.agent 0) = false ∧ l.skip = 0)
    ∧ untranslated.tlbHolds 0 1 0x100000080 = false
    ∧ ({ base.core with calNext := some calReset } : Core).calNext = some calReset ∧ base.core.calNext = none := by decide +kernel

theorem witness_line_placed : LinePlaced (copying (oneByte 0x100000080 0x80007F)) ⟨0, 0, 1, 1, oneByte 0x100000080 0x80007F, []⟩ 0 0x40000080 0 0x48 :=
  ⟨by decide, by decide, by decide, by decide, ⟨⟨1, 0x100000000, 0x200000, 0x40000023⟩, by decide, by decide, by decide, by decide⟩,
    by decide, by decide, by decide, by decide⟩

/-! ### Flowstone rows, sweep signals, links, requests, ports -/

/-- The run with an object to take, and its object taken. -/
def soRun (so : Nat) (held : Bool) : State := { running with flows := [{ aRun with so := so, soHeld := held }] }

/-- The run with its object taken and held by the package, in a state; one whose DONE is to be committed; a begun commit. -/
def heldRun (st : Nat) : State :=
  { running with flows := [{ aRun with so := 0x100000200, soHeld := true, soOurs := true, rstate := st }],
                 mem := memPutN running.mem 0x40000200 (bytesOfWords [w64 (2 ^ 63 + ownerOf 0 255 3 * 2 ^ 12)]) }
def aDone : Run := { aRun with rstate := 4, dirty := true }
def begunCommit (r : Run) : FlowCommit := ((r.begun running.fab.dev).commit).getD ⟨[], [], [], 0, 0⟩

/-- The row of `aRun`, as the sender and as a request. -/
def rowOf : RowItem := { shard := 0, box := 0, row := 0, dev := 0, src := [(0x100018000, 64)], dst := 0x100018000, bytes := 64 }
def rowPkt : Pkt := ⟨4, 0, 0, 6912, 0, 1, .row 7 0 0 0 0x100018000 [1, 2] []⟩

/-- The row sent, and its response of cause c. -/
def rowSent : State :=
  { running with flows := [{ aRun with soHeld := true, rows := [⟨0, 0, 0⟩], next := 1 }],
                 fab := { running.fab with out := [⟨{ rowPkt with num := 0 }, 31000, 0, 0, 254, 0, none, 1⟩] } }
def rowAnswer (c : Nat) : Pkt := ⟨3, 0, 0, 6912, 0, 0, .response (unicastWord c) [] false⟩

set_option maxRecDepth 20000 in
theorem witness_flow_runs : running.flow 0 = some aRun ∧ aRun.rstate = 1 ∧ aRun.soHeld = false ∧ aRun.so = 0
    ∧ (∃ u, engSo aRun.soWho .acqX 0x100000200 (soRun 0x100000200 false) = .ok ([0, 0, 0, 0], u)) ∧ soValid [0, 0, 0, 0] = true
    ∧ soGranted .acqX 0 = true
    ∧ (aRun.items 0)[aRun.pickRow]? = some rowOf
    ∧ (∃ x u, rowRead aRun.who 1000 0 (rowOf.src.flatMap (fun q => pagesOf q.1 q.2)) running = .ok (x, u))
    ∧ (∃ x u, commitE (aRun.begun running.fab.dev) (begunCommit aRun) running = .ok (x, u))
    ∧ (aRun.begun running.fab.dev).commit = some (begunCommit aRun) ∧ ({ aRun with rstate := 3 } : Run).rstate = 3
    ∧ (({ aRun with rstate := 3 } : Run).begun running.fab.dev).dirty = false ∧ ({ aRun with rstate := 4 } : Run).quiet = true ∧ aRun.wait = none
    ∧ (∃ ws u, engSo aRun.soWho .rel 0x100000200 (heldRun 4) = .ok (ws, u))
    ∧ (∃ x u, commitE (aDone.begun running.fab.dev) (begunCommit aDone) (running.setFlow aDone) = .ok (x, u)) :=
  ⟨by decide +kernel, rfl, rfl, by decide +kernel, okIt (by decide +kernel), by decide +kernel, by decide +kernel, by decide +kernel, okE (by decide +kernel), okE (by decide +kernel),
    by decide +kernel, rfl, by decide +kernel, by decide +kernel, rfl, okE (by decide +kernel), okE (by decide +kernel)⟩

set_option maxRecDepth 20000 in
/-- A response of cause 0 and one of cause 2 for the row under way. -/
theorem witness_row_answers : (rowSent.fab.out.find? (fun o => o.pkt.dst == 0 && o.pkt.stream == 6912 && o.pkt.num == 0)).isSome = true
    ∧ ([⟨0, 0, 0⟩] : List SentRow).find? (fun y => y.index == 0 && y.num == 0 && y.st == 0) = some ⟨0, 0, 0⟩
    ∧ (aRun.items rowSent.fab.dev)[0]? = some rowOf ∧ bits (unicastWord 0) 53 44 = 0 ∧ bits (unicastWord 2) 53 44 ≠ 0 := by decide +kernel

/-- A run that waits for rows, none; a signal from another package of an open horizon, and of one that is not open. -/
def receiving : State := { running with flows := [{ aRun with soHeld := true }] }
def sigPkt : Pkt := ⟨4, 1, 0, 6922, 0, 1, .other [32, 1, 3, 0, 0, 0, 0, 0, 0, 0, 0, 0, 0, 0]⟩
/-- The horizon whose device set holds packages 0 and 1; a package that has opened it once and closed it. -/
def wideHorizon : Horizon := { horizonWith [] with hcb := hcbWords.set 8 3 }
def shutHorizon : State := { base with rimOpens := [⟨2, [3, 0, 0, 0, 0, 0, 0, 0], 1⟩] }

set_option maxRecDepth 20000 in
theorem witness_rows_and_signals : (receiving.rxFor rowPkt).place rowPkt.num = .now ∧ (receiving.flowFor 7).isSome = true
    ∧ receiving.rowReady 7 = true ∧ base.flowFor 7 = none
    ∧ (match rowPlace aRun.who receiving true none (pagesOf 0x100018000 2) with
        | .at ps => ps == [(0x40018000, 2)]
        | _ => false) = true ∧ rowPkt.agency = 1
    ∧ (twoSlices.rxFor sigPkt).place sigPkt.num = .now ∧ sigPkt.src ≠ twoSlices.fab.dev ∧ 6920 ≤ sigPkt.stream
    ∧ (twoSlices.horizon (sigPkt.stream - 6920)).isSome = true ∧ base.horizon (sigPkt.stream - 6920) = none
    ∧ bitAt (([3, 0, 0, 0, 0, 0, 0, 0] : List Word).getD 0 0) 0 = true ∧ base.openings 2 [3, 0, 0, 0, 0, 0, 0, 0] < 1
    ∧ (shutHorizon.horizon 2 = none ∧ 1 ≤ shutHorizon.openings 2 [3, 0, 0, 0, 0, 0, 0, 0])
    ∧ (wideHorizon.opening = 1 ∧ wideHorizon.devWords = [3, 0, 0, 0, 0, 0, 0, 0])
    ∧ ({ twoSlices with rim := [wideHorizon] } : State).horizon 2 = some wideHorizon ∧ sigPkt.src ∈ wideHorizon.devs := by
  refine ⟨?_, ?_, ?_, ?_, ?_, ?_, ?_, ?_, ?_, ?_, ?_, ?_, ?_, ?_, ?_, ?_, ?_⟩ <;> decide +kernel

/-- Link 0 in a state, its enable, some failures in a row. -/
def linked (st : BitVec 2) (en : Bool) (fails : Nat) : State :=
  { base with fab := { base.fab with dims := (2, 1, 1), devices := [0, 1], links := base.fab.links.set 0 { Link.reset with lstate := st, en := en, fails := fails } } }

def transitPkt : Pkt := ⟨4, 0, 1, 0, 0, 1, .read 0x40000040 8 0⟩
/-- Link 0 up, three flits sent, the last two of them in the replay buffer. -/
def replaying : State :=
  { base with fab := { base.fab with links := base.fab.links.set 0 { Link.reset with lstate := 3, en := true, key := some 1, sentNum := 3, replay := [⟨transitPkt, 0, false, some 1, false⟩, ⟨transitPkt, 0, false, some 2, false⟩] } } }
/-- A packet of two flits, of which the first has come. -/
def longPkt : Pkt := ⟨0, 0, 1, 0, 0, 1, .mcast 3 0 [0] [1, 2] 0 [(0, 0)]⟩
/-- Link 0 trained, with a session that stands. -/
def keying : State := { linked 2 true 0 with plat := { base.plat with spdm := [⟨0, false, 2, true⟩] } }

theorem witness_links : ((linked 3 true 0).fab.links.getD 0 Link.reset).lstate = 3 ∧ ((linked 3 true 0).fab.links.getD 0 Link.reset).en = true
    ∧ ((linked 3 true 14).fab.links.getD 0 Link.reset).fails < 15 ∧ 15 ≤ ((linked 3 true 15).fab.links.getD 0 Link.reset).fails
    ∧ (linked 3 true 0).fab.nextLink 1 = some 0 ∧ ((linked 2 true 0).fab.links.getD 0 Link.reset).lstate = 2
    ∧ ((linked 1 true 0).fab.links.getD 0 Link.reset).lstate = 1 ∧ transitPkt.vc < 8 ∧ neighbour (linked 1 true 0).fab.dims 0 0 = 1
    ∧ (replaying.fab.links.getD 0 Link.reset).replay.length = 2 ∧ (replaying.fab.links.getD 0 Link.reset).sentNum = 3
    ∧ (replaying.fab.links.getD 0 Link.reset).waiting = []
    ∧ (∀ y ∈ (replaying.fab.links.getD 0 Link.reset).replay, y.iv.isSome = true ∧ (replaying.fab.links.getD 0 Link.reset).carries y = true)
    ∧ 1 < pktFlits longPkt ∧ (1, longPkt) ∉ Link.reset.rxGot ∧ pktFlits transitPkt = 1 ∧ flitVc transitPkt 0 < 8
    ∧ ((linked 1 false 0).fab.links.getD 0 Link.reset).en = false ∧ keying.sessionStands 0 = true ∧ (linked 2 true 0).sessionStands 0 = false
    ∧ (keying.fab.links.getD 0 Link.reset).barred = false := by decide +kernel

/-- A request to send; one that has come, whose memory admits its agency or not; a repeated one; its record. -/
def askPkt (dst : Nat) : Pkt := ⟨0, 0, dst, 5, 0, 1, .read 0x40000040 8 0⟩
def comePkt (body : Load) : Pkt := ⟨0, 1, 0, 5, 0, 1, body⟩
def admitting : State := { base with ctl := [(0x2010000 + 8 * 1, 2)] }
def asked (resends : Nat) : State := { base with fab := { base.fab with out := [⟨askPkt 1, 900, resends, 0, 0, 0, none, 1⟩] } }
def performed : State := base.setRx ((base.rxFor (comePkt (.read 0x40000040 8 0))).done 0 (.response 0 [] false))

theorem witness_requests : base.fab.populated 0 = true ∧ base.fab.populated 1 = false 
    ∧ (base.rxFor (comePkt (.read 0x40000040 8 0))).place 0 = .now
    ∧ (performed.rxFor (comePkt (.read 0x40000040 8 0))).place 0 = .cached (.response 0 [] false) ∧ isHbm 0x40000040 = true
    ∧ admitting.admits 0x40000040 1 = true ∧ base.admits 0x40000040 1 = false ∧ base.poisoned 0x40000040 8 = none
    ∧ (asked 0).outAt 1 5 0 = some ⟨askPkt 1, 900, 0, 0, 0, 0, none, 1⟩ ∧ (asked 8).outAt 1 5 0 = some ⟨askPkt 1, 900, 8, 0, 0, 0, none, 1⟩
    ∧ (askPkt 1).vc ≠ 3 := by decide +kernel

/-- A core whose ports belong to slot 0; a valid member entry of a group; a merge; a round of a collective. -/
def portHeld : State := { base with ctx := { base.ctx with ports := true } }
def portPkt : Pkt := ⟨1, 1, 0, 9, 0, 1, .port [0, 5]⟩
def grouped3 : State :=
  { base with ctl := [(0x2100000 + 384, 0xC080000040000000), (0x2100000 + 392, 1), (0x2100000 + 400, 1)],
              fab := { base.fab with merges := [⟨0, 9, 0, 1, none, [1], 0, none, [], []⟩], colls := [⟨3, 0, some 0, 1, [], false⟩, ⟨4, 0, none, 0, [], false⟩] } }
def mcastPkt : Pkt := ⟨0, 1, 0, 9, 0, 1, .mcast 3 0 [0] [1, 2] 0 [(0, 0)]⟩

set_option maxRecDepth 20000 in
theorem witness_ports_and_groups : bits (0 : Word) 45 43 < 6 ∧ (portHeld.rxFor portPkt).place portPkt.num = .now
    ∧ portHeld.portHolder 0 = some (1, 0, false) ∧ ((portHeld.coreAt 0).inq.getD 0 []).length < 8
    ∧ (grouped3.rxFor mcastPkt).place (rxNum 0 mcastPkt) = .now ∧ (∃ e ∈ [((0, 0) : Nat × Nat)], e.1 = grouped3.fab.dev)
    ∧ (∀ e ∈ [((1, 0) : Nat × Nat)], e.1 ≠ grouped3.fab.dev) ∧ grouped3.mgValid 3 = true ∧ bitAt (grouped3.mgWord 3 0) 62 = true
    ∧ grouped3.mgAgency 3 = 1 ∧ 0 + 2 ≤ bits (grouped3.mgWord 3 1) 12 0 * 2 ^ 16
    ∧ isHbm (bits (grouped3.mgWord 3 0) 47 16 * 2 ^ 16) = true ∧ (grouped3.mergeAt 0 9 0).isSome = true
    ∧ (grouped3.fab.colls.find? (fun c => c.group == 3)).isSome = true := by decide +kernel

/-- A part of device `low`, and a round of group 3 of packages 0 and 1 at its root with the parts that have come. -/
def partOf (low : Nat) : Pkt := ⟨3, low, 0, 9, 0, 1, .collUp 3 0 low 5⟩
def collecting (parts : List Pkt) (sent : Bool) (core : Option Nat) : State :=
  { base with ctl := [(0x2100000 + 384, 0xC080000040000000), (0x2100000 + 392, 1), (0x2100000 + 400, 3)],
              fab := { base.fab with dims := (2, 1, 1), devices := [0, 1], colls := [⟨3, 0, core, 1, parts, sent⟩] } }

set_option maxRecDepth 20000 in
/-- A round that a part of package 0 leaves incomplete, one that it completes, one whose result comes for a core or for none. -/
theorem witness_collectives : (collecting [] false none).collParts 3 = [0, 1] ∧ (collecting [] false none).collRoot 3 = 0
    ∧ ((collecting [] false none).rxFor (partOf 0)).place (partOf 0).num = .now ∧ (∀ x ∈ [partOf 1], partLow x ≠ 0)
    ∧ (∀ d ∈ (collecting [partOf 1] false none).collParts 3, d = 0 ∨ ∃ x ∈ [partOf 1], partLow x = d)
    ∧ (∃ d ∈ (collecting [] false none).collParts 3, d ≠ 0 ∧ ∀ x ∈ ([] : List Pkt), partLow x ≠ d)
    ∧ (∀ c ∈ (collecting [partOf 0, partOf 1] true (some 0)).fab.colls, c.lowest = some (partOf 0) ∧ c.sent = true ∧ c.port < 6)
    ∧ (((collecting [partOf 0] true (some 0)).coreAt 0).inq.getD 1 []).length < 8 := by decide +kernel

/-! ### The front end and the platform -/

/-- Queue 3: enabled, two slots at physical 0x48000000, notify words at 0x40000000, a BUFS packet written. -/
def queueSet (en : Bool) : State :=
  { base with ctl := [(96, (if en then 0x8101000048000000 else 0x0101000048000000)), (104, 0)],
              fe := { base.fe with nbase := 0x40000001, pending := [3] },
              mem := memPutN (memPutN base.mem 0x40000060 (bytesOfNat 4 1)) 0x48000000 (bytesOfWords [2]) }

theorem witness_queues : (queueSet true).scanNext = some 3 ∧ qdEn ((queueSet true).qd 3 0) = true ∧ qdEn ((queueSet false).qd 3 0) = false
    ∧ bitAt (queueSet true).fe.nbase 0 = true ∧ bitAt base.fe.nbase 0 = false ∧ qdBad ((queueSet true).qd 3 0) = false
    ∧ natOfBytes (memGetN (queueSet true).mem 0x40000060 4) = 1 ∧ bits ((queueSet true).qd 3 1) 31 0 = 0
    ∧ slotAddrs ((queueSet true).qd 3 0) 0 1 = [0x48000000]
    ∧ ((queueSet true).touch 0x40000060 4 .l2 false 1).unreadable 0x48000000 256 = false := by decide +kernel

/-- A sector that the sump holds, with no error waiting. -/
theorem witness_scrub : (lineHolding ({ base with sump := [⟨0x800000, 15, 0, 0⟩] } : State).sump (0x40000000 / 32)).isSome = true
    ∧ isHbm 0x40000000 = true ∧ base.upset .sump (0x40000000 / 32) = none ∧ base.upset .hbm (0x40000000 / 32) = none := by decide +kernel

/-- A packet that does work: type, body words. -/
def packetOf (typ : Nat) (body : List Word) : Packet :=
  { uid := 9, queue := 3, index := 0, agency := 1, words := [w64 typ, 0, 0, 1] ++ body, phase := 0, launch := 0, status := 0, node := none }

/-- That packet waiting in a state. -/
def waits (p : Packet) (s : State) : State := { s with fe := { s.fe with packets := [p], nextLaunch := 2 } }

def syncPacket (v : Word) : Packet := packetOf 4 [0x100000080, v]
def moves : Packet := packetOf 7 [0x100000400, 0x100000080, 0x100000080]
def saves : Packet := packetOf 9 [0x100000080, 0x100000400]
def opens : Packet := packetOf 8 [0x100000080, 2]
def replays : Packet := packetOf 5 [0x100000080]
def patches (n : Nat) : Packet := packetOf 6 [0x100000080, 0x100018000, w64 n]

/-- A state after a packet's start actions. -/
def acted (p : Packet) (s : State) : State := if p.begun then s else s.bufferActs p true

/-- A graph record of one node whose table stands at 0x1_0001_0000; that graph under replay in the other generation. -/
def graphed : State :=
  { base with mem := atPage 0x10000 [0xFFFFFFFFFFFFFFFF] (atPage 0x80 [0, 0x100010000, 0x100020000, 0x100030000] tables) }
/-- The same with a node that depends on itself; a front end that holds 64 other graphs, each under replay. -/
def misordered : State := { graphed with mem := atPage 0x10000 [0xFFFFFFFFFFFF0000] graphed.mem }
def crowded : FrontEnd :=
  { base.fe with graphs := (List.range 64).map (fun k => ⟨64 * k, 0⟩), replays := (List.range 64).map (fun k => ⟨k, 64 * k, 0, [[]], 0, [], [], false⟩) }
def replayed : State := { graphed with fe := { graphed.fe with replays := [⟨8, 0x40000080, 1, [[]], 0x100030000, [], [], false⟩] } }

set_option maxRecDepth 20000 in
theorem witness_packets_act : (waits moves base).packet 9 = some moves ∧ moves.phase = 0 ∧ moves.typ = 7
    ∧ (∃ u, waitsoE (syncPacket 0) (acted (syncPacket 0) (waits (syncPacket 0) { base with mem := tables })) = .ok (true, u))
    ∧ (∃ u, waitsoE (syncPacket 5) (acted (syncPacket 5) (waits (syncPacket 5) { base with mem := tables })) = .ok (false, u))
    ∧ (∃ x u, reshardE moves.who 0x100000400 0x100000080 0x100000080 (some 9) (acted moves (waits moves (entered (255, 1009)))) = .ok (x, u))
    ∧ (∃ x u, ckptE saves.who 0x100000080 0x100000400 (some 9) (acted saves (waits saves saving)) = .ok (x, u))
    ∧ (∃ x u, openE opens.who 2 0x100000080 0 (acted opens (waits opens twoSlices)) = .ok (x, u)) :=
  ⟨by decide +kernel, by decide +kernel, by decide +kernel, okIt (by decide +kernel), okIt (by decide +kernel), okE (by decide +kernel), okE (by decide +kernel), okE (by decide +kernel)⟩

set_option maxRecDepth 20000 in
theorem witness_graphs : (∃ u, graphE replays (acted replays (waits replays graphed)) = .ok (some (some ⟨9, 0x40000080, 0, [[]], 0x100020000, [], [], false⟩), u))
    ∧ (∃ u, graphE replays (acted replays (waits replays misordered)) = .ok (some none, u))
    ∧ (∃ u, graphE replays (acted replays (waits replays { graphed with fe := crowded })) = .ok (none, u))
    ∧ (∃ u, patchE (patches 8) (acted (patches 8) (waits (patches 8) graphed)) = .ok (some (0x40000080, 1), u))
    ∧ (∃ u, patchE (patches 8) (acted (patches 8) (waits (patches 8) replayed)) = .ok (none, u)) :=
  ⟨okIt (by decide +kernel), okIt (by decide +kernel), okIt (by decide +kernel), okIt (by decide +kernel), okIt (by decide +kernel)⟩

/-- A LAUNCH of an image of one bundle and no data on core 0 or core 1; the same with no entry address; its table. -/
def launches (core : Nat) : Packet := packetOf 1 [0x10000000, 0x50001000, w64 (2 ^ core), 0, 0, 0, 0, 0x200000000]
def imaged : State :=
  { base with mem := memPutN (memPutN base.mem 0x50000000 (bytesOfWords [0x100000000 + 0x53580901, 0, 0, 1])) 0x50001000 (bytesOfWords [0x50000000, 0, 0, 0xFFFF00000000]) }

/-- Whether the place table is accepted, and its launch fits. -/
def placing (p : Packet) (s : State) : Option (Option (List (Machine.Place × Ctx))) := match s.places (p.body 1).toNat 0 p.cores with
  | .ok xs => some (s.placed p s.fe.nextLaunch xs)
  | .error _ => none

set_option maxRecDepth 20000 in
theorem witness_launches : (launches 1).typ = 1 ∧ (launches 1).cores = [1] ∧ placing (launches 1) (waits (launches 1) base) = none
    ∧ ((placing (launches 1) (waits (launches 1) imaged)).map Option.isSome) = some true
    ∧ ((placing (launches 0) (waits (launches 0) { imaged with ctx := { imaged.ctx with tiles := [0, 1, 2, 3, 4, 5, 6, 7], scrSize := 0x400000 } })).map Option.isSome) = some false
    ∧ ((placing (launches 1) (waits (launches 1) imaged)).bind id).map (fun cs => okIs (launchE (launches 1) cs imaged)) = some true := by decide +kernel

/-- A loaded launch on an idle core, its packet released; a replay whose first node is ready and is a BUFS packet. -/
def loadedOne : State :=
  waits { packetOf 1 [] with phase := 1, launch := 1 } { base with ctx := { base.ctx with status := .loaded }, core := { base.core with running := none } }
def nodeReady : State :=
  { waits { replays with phase := 1 } { graphed with mem := atPage 0x20000 [2] graphed.mem } with
    fe := { graphed.fe with packets := [{ replays with phase := 1 }], replays := [⟨9, 0x40000080, 0, [[]], 0x100020000, [], [], false⟩] } }

theorem witness_releases : (loadedOne.packet 9).map (fun p => (p.typ, p.phase, p.launch)) = some (1, 1, 1) ∧ loadedOne.ctx.status = .loaded
    ∧ loadedOne.ctx ∈ loadedOne.allCtxs ∧ loadedOne.ctx.launch = 1 ∧ (loadedOne.coreAt loadedOne.ctx.core).running = none
    ∧ (nodeReady.fe.replays.find? (fun r => r.uid == 9)).map (fun r => r.ready) = some (some 0) := by decide +kernel

set_option maxRecDepth 20000 in
theorem witness_nodes : (okVal (nodeE replays.who (0x100020000 + 4096 * 0) nodeReady)).map (fun ws => (packetBad { replays with words := ws }, bits (ws.getD 0 0) 7 0))
    = some (false, 2) := by decide +kernel

/-- Attestation and boot: a running package, one in reset; a session that has exchanged its keys over a trained link. -/
def sessionOpen : State :=
  { base with plat := { base.plat with spdm := [⟨0, false, 1, false⟩] }, fab := { base.fab with links := base.fab.links.set 0 { Link.reset with lstate := 2 } } }

theorem witness_platform : base.plat.power = .running ∧ State.reset.plat.power = .booting
    ∧ journalState (look State.reset.plat.journal (8 * 0 + 0) 0) = 0
    ∧ State.bootedTo { State.reset with plat := { State.reset.plat with boot := State.reset.plat.boot + 1 } } 0 = true ∧ 0 < stageUnits 0
    ∧ bits (look State.reset.plat.journal 0 0) 31 0 ≠ (State.reset.plat.boot + 1) % 2 ^ 32
    ∧ bits (look State.reset.plat.journal 56 0) 31 0 ≠ (State.reset.plat.boot + 1) % 2 ^ 32 ∧ State.reset.plat.mark = [] ∧ State.reset.plat.acct = []
    ∧ base.core.id ∈ [0] ∧ base.core.id ∉ [1] ∧ (∀ c ∈ base.allCtxs, c.lock = false)
    ∧ (∃ e ∈ sessionOpen.plat.spdm, e.peer = 0 ∧ e.asks = false ∧ e.stage = 1) ∧ (sessionOpen.fab.links.getD 0 Link.reset).barred = false ∧ (sessionOpen.fab.links.getD 0 Link.reset).lstate = 2 := by decide +kernel

/-! ### Spills and fills -/

/-- A window whose frame of 14 no longer fits; one below its first position, with spilled positions below 0x100100. -/
def spillState : State := { base with ctx := { base.ctx with wnext := 100, wbase := 100, wsp := 0x100000, scrSize := 0x200000 } }
def fillState : State := { base with ctx := { base.ctx with wnext := 3, wbase := 3, wsp := 0x100100, scrSize := 0x200000 } }

set_option maxRecDepth 20000 in
theorem witness_spills : 112 < spillState.ctx.wnext + 14 ∧ answers (spillM spillState) = true ∧ fillState.ctx.wnext < 14
    ∧ answers (fillM fillState) = true := by decide +kernel

set_option maxRecDepth 20000 in
/-- The window stack lies in the own scratchpad; the transfers' targets lie in the image. -/
theorem witness_transfers : spillState.ctx.cursor = 0 ∧ spillState.ctx.wsp.toNat % 8 = 0 ∧ fillState.ctx.wsp.toNat % 8 = 0
    ∧ 256 ≤ fillState.ctx.wsp.toNat ∧ (fillState.ctx.wsp.toNat - 256) % 2 ^ 21 = 0x100000
    ∧ NearScratch spillState spillState.ctx.wsp.toNat 256 ∧ NearScratch fillState (fillState.ctx.wsp.toNat - 256) 256
    ∧ (∀ i, i < 32 → fillState.seenPoison 0 (0x100000 + 8 * i) 8 = none)
    ∧ GoodTarget spillState ((spillState.ctx.q0.addr : Int) + 16 * 4) ∧ GoodTarget fillState (fillState.ctx.scalar 8).toNat
    ∧ GoodTarget spillState (spillState.source false 0).toNat := by
  unfold NearScratch GoodTarget
  decide +kernel

set_option maxRecDepth 20000 in
/-- The spill of R138: 32 positions go to scratchpad 0x100000, `wsp` rises by 256, the base falls by 32; the call's own bundle follows. -/
theorem test_call_spills : ((after (.call p0 14 4) spillState).ctx.wnext, (after (.call p0 14 4) spillState).ctx.wsp,
    waitsFor (.call p0 14 4) spillState) = (68, 0x100100, some .access) := by decide +kernel

end Sys2Proof.Tests
end

section
/-! Words of the spec's tables: each is the encoder's word of a well-formed instruction, so its decoding is an instance of the
family RoundTrip (spec/03). -/

namespace Sys2Proof.Laws

/-- Where nothing is lent, the lent byte is zero. -/
theorem encodeLend_plain (k : BitVec 2) : encodeLend (Pos.plain k) = 0 := by
  simp [encodeLend, Pos.plain]

/-- In a slot to which no header lends anything, the word of a well-formed instruction decodes to that instruction. -/
theorem decodeSlot_of_encode {i : Instr} {k : BitVec 2} {sh : Shape} {w : SlotWord} (round : RoundTrip.Statement i)
    (shape : i.shape = some (Pos.plain k, sh)) (wf : i.wellFormed = true) (word : encode i = w) :
    decodeSlot k false 0 w = .ok i := by
  rw [← word, ← encodeLend_plain k]
  exact round (Pos.plain k) sh shape wf

/-- Settles O6: every word is what the encoder gives for the instruction it stands for, and that instruction round-trips. -/
theorem specWordsDecode : Obligations.SpecWordsDecode :=
  ⟨decodeSlot_of_encode (RoundTrip.loop _ _ _) rfl rfl rfl,
   decodeSlot_of_encode (RoundTrip.vtgr _ _ _) rfl rfl rfl,
   decodeSlot_of_encode (RoundTrip.slpfx _ _ _) rfl rfl rfl,
   decodeSlot_of_encode (RoundTrip.add _ _ _ _) rfl rfl rfl,
   decodeSlot_of_encode (RoundTrip.bfx _ _ _ _ _) rfl rfl rfl,
   decodeSlot_of_encode (RoundTrip.br _ _ _ _ _ _) rfl rfl rfl,
   decodeSlot_of_encode (RoundTrip.call _ _ _) rfl rfl rfl,
   decodeSlot_of_encode (RoundTrip.srw _ _ _) rfl rfl rfl,
   decodeSlot_of_encode (RoundTrip.waitf _ _ _) rfl rfl rfl,
   decodeSlot_of_encode (RoundTrip.gnew _ _ _) rfl rfl rfl,
   decodeSlot_of_encode (RoundTrip.ldD _ _ _ _ _) rfl rfl rfl,
   decodeSlot_of_encode (RoundTrip.vgth _ _ _ _ _ _ _) rfl rfl rfl,
   decodeSlot_of_encode (RoundTrip.amo _ _ _ _ _ _ _) rfl rfl rfl,
   decodeSlot_of_encode (RoundTrip.ego _ _ _) rfl rfl rfl,
   decodeSlot_of_encode (RoundTrip.slinfo _ _ _ _ _) rfl rfl rfl,
   decodeSlot_of_encode (RoundTrip.vadd _ _ _ _ _ _ _) rfl rfl rfl,
   decodeSlot_of_encode (RoundTrip.vli _ _ _ _ _) rfl rfl rfl,
   decodeSlot_of_encode (RoundTrip.vshuf _ _ _ _ _) rfl rfl rfl,
   decodeSlot_of_encode (RoundTrip.vnr _ _ _ _ _ _ _ _ _) rfl rfl rfl,
   decodeSlot_of_encode (RoundTrip.pset _ _ _) rfl rfl rfl,
   decodeSlot_of_encode (RoundTrip.mload _ _ _ _ _ _ _ _) rfl rfl rfl,
   decodeSlot_of_encode (RoundTrip.mfeed _ _ _ _ _ _ _ _) rfl rfl rfl,
   decodeSlot_of_encode (RoundTrip.mdrain _ _ _ _ _ _ _ _) rfl rfl rfl⟩

end Sys2Proof.Laws
end

section
/-! SUPPORT. What an access performed at a home leaves where it was: the cores with their stores, the clock, the fabric, and which context
issues (spec/12 R226 to R229). -/

namespace Sys2Proof.Laws.Ordering
open Sys2Proof Sys2Proof.Machine

/-- Two states agree on the focus core, the clock, the fabric and the place of the focus context. -/
structure SameSite (s t : State) : Prop where
  core : t.core = s.core
  now : t.now = s.now
  fab : t.fab = s.fab
  onCore : t.ctx.core = s.ctx.core
  inSlot : t.ctx.slot = s.ctx.slot

theorem SameSite.refl (s : State) : SameSite s s := ⟨rfl, rfl, rfl, rfl, rfl⟩

theorem SameSite.trans {s t u : State} (h : SameSite s t) (g : SameSite t u) : SameSite s u :=
  ⟨g.core.trans h.core, g.now.trans h.now, g.fab.trans h.fab, g.onCore.trans h.onCore, g.inSlot.trans h.inSlot⟩

theorem SameSite.ite {s t u : State} {c : Prop} [Decidable c] (ht : SameSite s t) (hu : SameSite s u) :
    SameSite s (if c then t else u) := by split <;> assumption

theorem SameSite.foldl {α : Type} {f : State → α → State} (h : ∀ s x, SameSite s (f s x)) (l : List α) (s : State) :
    SameSite s (l.foldl f s) := by
  induction l generalizing s with
  | nil => exact .refl s
  | cons x t ih => exact (h s x).trans (ih (f s x))

/-! ## Logs, poison and line presence -/

theorem logError_site (s : State) (kind pa who : Nat) : SameSite s (s.logError kind pa who) := by
  unfold State.logError
  simp only []
  refine .ite ?_ ⟨rfl, rfl, rfl, rfl, rfl⟩
  split <;> exact ⟨rfl, rfl, rfl, rfl, rfl⟩

theorem account_site (s : State) (g i n : Nat) : SameSite s (s.account g i n) := ⟨rfl, rfl, rfl, rfl, rfl⟩

theorem putHbm_site (s : State) (k : Nat) (b : Bool) : SameSite s (s.putHbm k b) := ⟨rfl, rfl, rfl, rfl, rfl⟩

theorem putBelow_site (s : State) (k : Nat) (b : Bool) : SameSite s (s.putBelow k b) :=
  .ite ⟨rfl, rfl, rfl, rfl, rfl⟩ (putHbm_site ..)

theorem putBad_site (s : State) (k : Nat) (b : Bool) : SameSite s (s.putBad k b) :=
  .ite ⟨rfl, rfl, rfl, rfl, rfl⟩ (putBelow_site ..)

theorem found_site (s : State) (p : UpsetAt) (k : Nat) : SameSite s (s.found p k) := by
  unfold State.found
  split
  · exact .refl s
  · rename_i u _
    refine SameSite.trans (t := { s with upsets := s.upsets.erase u }) ⟨rfl, rfl, rfl, rfl, rfl⟩ ?_
    cases p with
    | hbm => exact .ite ((logError_site ..).trans (putHbm_site ..)) (logError_site ..)
    | sump => exact .ite ((logError_site ..).trans ⟨rfl, rfl, rfl, rfl, rfl⟩) (logError_site ..)
    | tag => exact logError_site ..
    | store => exact .ite ⟨rfl, rfl, rfl, rfl, rfl⟩ (.refl _)

theorem toHbm_site (s : State) (v : HomeLine) (g : Nat) : SameSite s (s.toHbm v g) :=
  (SameSite.foldl (fun _ _ => putHbm_site ..) _ _).trans (account_site ..)

theorem sumpLookup_site (s : State) (line : Nat) (sectors fill : BitVec 4) (write str : Bool) (g : Nat) :
    SameSite s (s.sumpLookup line sectors fill write str g) := by
  unfold State.sumpLookup
  have h : SameSite s ((maskSectors line sectors).foldl State.foundBelow s) := .foldl (fun _ _ => found_site ..) _ _
  generalize (maskSectors line sectors).foldl State.foundBelow s = t at h
  simp only []
  refine h.trans ?_
  split
  · exact ⟨rfl, rfl, rfl, rfl, rfl⟩
  · refine .ite ⟨rfl, rfl, rfl, rfl, rfl⟩ (.ite ?_ ⟨rfl, rfl, rfl, rfl, rfl⟩)
    split
    · exact SameSite.trans (t := { t.setFilter _ with sump := _ }) ⟨rfl, rfl, rfl, rfl, rfl⟩
        ((toHbm_site ..).trans (account_site ..))
    · exact ⟨rfl, rfl, rfl, rfl, rfl⟩

@[simp] theorem wakeOn_core (c : Ctx) (k : Nat) : (c.wakeOn k).core = c.core := by
  unfold Ctx.wakeOn
  split
  · split <;> rfl
  · rfl

@[simp] theorem wakeOn_slot (c : Ctx) (k : Nat) : (c.wakeOn k).slot = c.slot := by
  unfold Ctx.wakeOn
  split
  · split <;> rfl
  · rfl

theorem wakeSector_site (s : State) (k : Nat) : SameSite s (s.wakeSector k) := ⟨rfl, rfl, rfl, wakeOn_core .., wakeOn_slot ..⟩

theorem l2WriteBack_site (s : State) (v : HomeLine) (m : BitVec 4) (g : Nat) : SameSite s (s.l2WriteBack v m g) :=
  .ite (.refl s) ((sumpLookup_site ..).trans (.foldl (fun _ _ => putBelow_site ..) _ _))

theorem l2Evicted_site (s : State) (v : HomeLine) (g : Nat) : SameSite s (s.l2Evicted v g) :=
  (l2WriteBack_site ..).trans (.foldl (fun _ _ => wakeSector_site ..) _ _)

theorem withL2_site (s : State) (l : List HomeLine) : SameSite s { s with l2 := l } := ⟨rfl, rfl, rfl, rfl, rfl⟩

/-- A fill that is not needed, or a sump lookup. -/
theorem fill_site (s : State) (line : Nat) (m sectors fill : BitVec 4) (write str : Bool) (g : Nat) :
    SameSite s (if m = 0 then s else s.sumpLookup line sectors fill write str g) :=
  .ite (.refl s) (sumpLookup_site ..)

theorem l2Access_site (s : State) (line : Nat) (sectors whole : BitVec 4) (write str : Bool) (g : Nat) :
    SameSite s (s.l2Access line sectors whole write str g) := by
  unfold State.l2Access
  simp only []
  refine (found_site s .tag line).trans ?_
  generalize s.found .tag line = t
  split
  · exact .ite ((fill_site ..).trans (withL2_site ..)) ((fill_site ..).trans (withL2_site ..))
  · refine .ite (sumpLookup_site ..) ?_
    split
    · exact (fill_site ..).trans ((withL2_site ..).trans (l2Evicted_site ..))
    · exact (fill_site ..).trans (withL2_site ..)

theorem l2Drop_site (s : State) (sec g : Nat) : SameSite s (s.l2Drop sec g) := by
  unfold State.l2Drop
  simp only []
  split
  · exact .refl s
  · exact ((SameSite.ite (.refl _) (wakeSector_site ..)).trans (withL2_site _ _)).trans (l2WriteBack_site ..)

/-! ## Accesses at a home -/

theorem touch_site (s : State) (pa n : Nat) (lv : Level) (wr : Bool) (g : Nat) : SameSite s (s.touch pa n lv wr g) := by
  unfold State.touch
  refine .foldl (fun t e => ?_) _ _
  cases lv with
  | l2 => exact l2Access_site ..
  | str => exact l2Access_site ..
  | far => exact (SameSite.foldl (fun _ _ => l2Drop_site ..) _ _).trans (sumpLookup_site ..)

@[simp] theorem acked_core (c : Ctx) (core slot now : Nat) : (c.acked core slot now).core = c.core := by
  unfold Ctx.acked; split <;> rfl

@[simp] theorem acked_slot (c : Ctx) (core slot now : Nat) : (c.acked core slot now).slot = c.slot := by
  unfold Ctx.acked; split <;> rfl

theorem notify_site (s : State) (k : Nat) : SameSite s (s.notify k) := by
  unfold State.notify
  split
  · exact ⟨rfl, rfl, rfl, rfl, rfl⟩
  · exact .ite ⟨rfl, rfl, rfl, acked_core .., acked_slot ..⟩ (.refl s)

theorem written_site (s : State) (pa n : Nat) (own : Bool) : SameSite s (s.written pa n own) := by
  unfold State.written
  refine .foldl (fun t k => ?_) _ _
  have h : SameSite t (if coversSector pa n k = true then (t.wakeSector k).putBad k false else t.wakeSector k) :=
    .ite ((wakeSector_site ..).trans (putBad_site ..)) (wakeSector_site ..)
  simp only []
  refine .ite h ?_
  split
  · exact h.trans (notify_site ..)
  · exact h

theorem homeRead_site (s : State) (pa n : Nat) (lv : Level) (g : Nat) : SameSite s (s.homeRead pa n lv g).2 := touch_site ..

theorem homeWrite_site (s : State) (pa : Nat) (bs : List Byte) (lv : Level) (g : Nat) (own : Bool) :
    SameSite s (s.homeWrite pa bs lv g own) := by
  have ht := touch_site s pa bs.length lv true g
  have hw := written_site { s.touch pa bs.length lv true g with
    mem := memPutN (s.touch pa bs.length lv true g).mem pa bs } pa bs.length own
  exact ht.trans ⟨hw.core, hw.now, hw.fab, hw.onCore, hw.inSlot⟩

theorem joinFar_site (s : State) (lv : Level) (pa n : Nat) (a : Agent) : SameSite s (s.joinFar lv pa n a) :=
  ⟨rfl, rfl, rfl, rfl, rfl⟩

/-- A far access that joins its sectors' queue touches no byte. -/
theorem joinFar_same (s : State) (lv : Level) (pa n : Nat) (a : Agent) : SameMem s (s.joinFar lv pa n a) := ⟨rfl, rfl, rfl, rfl⟩

/-! ## The issuing core's L1 -/

theorem writeBack_site (s : State) (l : L1Line) (m : BitVec 128) (a : Agent) : SameSite s (s.writeBack l m a) :=
  .foldl (fun _ _ => (homeWrite_site ..).trans (joinFar_site ..)) _ _

/-- Steps one after another keep the canonical form when each does. -/
theorem foldl_wf {α : Type} {f : State → α → State} (h : ∀ s x, s.MemWf → (f s x).MemWf) (l : List α) {s : State}
    (hs : s.MemWf) : (l.foldl f s).MemWf := by
  induction l generalizing s with
  | nil => exact hs
  | cons x t ih => exact ih (h s x hs)

theorem writeBack_wf {s : State} (h : s.MemWf) (l : L1Line) (m : BitVec 128) (a : Agent) : (s.writeBack l m a).MemWf :=
  foldl_wf (fun _ _ hs => (joinFar_same ..).wf (homeWrite_wf hs ..)) _ h

/-- R111: the own copy goes out without the clock, the fabric or the issuing context moving. -/
theorem dropOwn_place (s : State) (launch va n : Nat) : (s.dropOwn launch va n).fab = s.fab
    ∧ (s.dropOwn launch va n).ctx.core = s.ctx.core ∧ (s.dropOwn launch va n).ctx.slot = s.ctx.slot := by
  have h := SameSite.foldl (fun (t : State) (l : L1Line) => writeBack_site t l
    ((l.touched va n).foldl (fun (m : BitVec 128) k => m ||| lineMask (32 * k) 32) 0) (t.wbAgent t.ctx.core))
    (s.core.l1.filter (fun l => l.launch == launch && l.overlaps va (va + n))) s
  exact ⟨h.fab, h.onCore, h.inSlot⟩

theorem dropOwn_wf {s : State} (h : s.MemWf) (launch va n : Nat) : (s.dropOwn launch va n).MemWf :=
  SameMem.wf ⟨rfl, rfl, rfl, rfl⟩ (foldl_wf (fun _ _ hs => writeBack_wf hs ..) _ h)

theorem dropOwn_of_empty {s : State} (h : s.core.l1 = []) (launch va n : Nat) : s.dropOwn launch va n = s := by
  have e : { s.core with l1 := [] } = s.core := by rw [← h]
  simp only [State.dropOwn, h, List.filter_nil, List.foldl_nil, List.map_nil, e]

theorem coreAt_own {s : State} (h : s.core.id = s.ctx.core) : s.coreAt s.ctx.core = s.core := if_pos h

theorem setCore_own (s : State) : s.setCore s.core = s := by
  unfold State.setCore; simp

/-- An empty L1 has nothing to flush. -/
theorem flushCore_of_empty {s : State} (hid : s.core.id = s.ctx.core) (h : s.core.l1 = []) (w : L1Line → Bool) :
    s.flushCore s.ctx.core w = s := by
  have e : { s.core with l1 := [] } = s.core := by rw [← h]
  simp only [State.flushCore, coreAt_own hid, h, List.filter_nil, List.foldl_nil, e, setCore_own]

/-- An empty L1 has nothing to clean. -/
theorem cleanCore_of_empty {s : State} (hid : s.core.id = s.ctx.core) (h : s.core.l1 = []) (w : L1Line → Bool) :
    s.cleanCore s.ctx.core w = s := by
  have e : { s.core with l1 := [] } = s.core := by rw [← h]
  simp only [State.cleanCore, coreAt_own hid, h, List.filter_nil, List.foldl_nil, List.map_nil, e, setCore_own]

end Sys2Proof.Laws.Ordering
end

section
/-! SUPPORT. What the shared steps of fences, sync objects and maintenance do (spec/06 R116, R119; spec/10 R188, R203, R204). -/

namespace Sys2Proof.Laws.Ordering
open Sys2Proof Sys2Proof.Machine

/-! ## Waiting and writing back -/

theorem settle_ok {far : Bool} {s : State} (h : s.settled far = true) : settle far s = .ok ((), s) := if_pos h

theorem settle_wait {far : Bool} {s : State} (h : s.settled far = false) : settle far s = .error (.wait .drain) :=
  if_neg (by simp [h])

theorem needL1_open {s : State} (h : s.closed = false) : needL1 s = .ok ((), s) := by
  simp [needL1, h]

theorem performed_done {done : State → Bool} {f : M Unit} {s t : State} (h : f s = .ok ((), t)) (hd : done t = true) :
    performed done f s = .ok ((), t) := by
  simp [performed, h, hd]

/-- A write-back that is not yet performed has been made all the same, and the rest is waited for. -/
theorem performed_pending {done : State → Bool} {f : M Unit} {s t : State} (h : f s = .ok ((), t)) (hd : done t = false) :
    ∃ g, performed done f s = .error (.send .drain g) ∧ g s = t := by
  refine ⟨_, by simp only [performed, h, hd]; rfl, by simp only [h]⟩

theorem freezeAfter_spec (s : State) : ∃ t, freezeAfter s = .ok ((), t) ∧ t.core = s.core ∧ t.mem = s.mem := ⟨_, rfl, rfl, rfl⟩

/-- A slot operation that runs or waits takes no trap. -/
theorem finish_untrapped {p : Pos} {m : M Unit} {s : State} (h : (∃ t, m s = .ok ((), t)) ∨ ∃ k, m s = .error (.wait k)) :
    ∃ t, finish p m s = .next t ∧ ∀ r, t.sig ≠ .trapped r := by
  obtain ⟨t, ht⟩ | ⟨k, hk⟩ := h
  · exact ⟨t.ran, finish_ok ht, nofun⟩
  · exact ⟨s.waits k, finish_wait hk, nofun⟩

/-! ## Addresses -/

@[simp] theorem w64_toNat (x : Word) : w64 x.toNat = x := by simp [w64]

theorem alignTo_ok {va n code : Nat} (h : va % n = 0) (s : State) : alignTo va n code s = .ok ((), s) := by
  simp [alignTo, h]

theorem alignTo_bad {va n code : Nat} (h : va % n ≠ 0) (s : State) :
    alignTo va n code s = .error (.trap ⟨cAlign, w64 va, w64 code⟩) := by
  rw [alignTo, bne_iff_ne.2 h, trapIf_true, trapM_run]

theorem cached_above_window {s : State} {va pa : Nat} (h : CachedHere s va pa) : ¬ va < 4294967296 := Nat.not_lt.2 h.1

theorem cached_core {s : State} {va pa : Nat} (h : CachedHere s va pa) : s.core.id = s.ctx.core := by
  obtain ⟨-, -, -, hid, -⟩ := h
  exact hid

/-- An address that has its leaf in the core's TLB lies where the leaf says, and looking it up changes nothing. -/
theorem locate_cached {s : State} {va pa : Nat} (h : CachedHere s va pa) (n : Nat) (write : Bool) :
    s.locate va n write = (.ok (.mem pa false), s) := by
  obtain ⟨hlo, hhi, hcore, hid, hhbm, e, hfind, rfl, hw, hsup, hrm⟩ := h
  have hleaf : s.leaf (some s.ctx.core) s.ctx.launch va = (.ok (e.size, e.pte), s) := by
    simp [State.leaf, hcore, State.coreAt, hid, hfind]
  rw [State.locate, if_neg (Nat.not_lt.2 hlo), State.translate, if_neg (Nat.not_le.2 hhi), hleaf]
  simp [leafSpot, hhbm, hw, hsup, hrm]

end Sys2Proof.Laws.Ordering
end
section
/-! The fences wait for the accesses of the core and drop its L1 (spec/06 R119). -/

namespace Sys2Proof.Laws.Ordering
open Sys2Proof Sys2Proof.Machine

/-- What FENCE.dev and FENCE.fab do; they differ in whether far acknowledgements count. -/
def fenceM (far : Bool) : M Unit := do
  settle far
  needL1
  drained dropL1
  freezeAfter

theorem exec_fenceDev (p : Pos) (s : State) : exec (.fenceDev p) s = finish p (fenceM false) s := rfl
theorem exec_fenceFab (p : Pos) (s : State) : exec (.fenceFab p) s = finish p (fenceM true) s := rfl

theorem fence_waits {far : Bool} {s : State} (p : Pos) (h : s.settled far = false) :
    finish p (fenceM far) s = .next (s.waits .drain) := finish_wait (bind_stop (settle_wait h))

section
variable {far : Bool} {s : State} (p : Pos) (hs : s.settled far = true) (hc : s.closed = false)
include hs hc

/-- With nothing left on its way behind the write-back, the fence runs on the state with the L1 dropped. -/
theorem fence_runs (hu : (s.flushCore s.ctx.core (fun _ => true)).settled false = true) :
    ∃ t, finish p (fenceM far) s = .next t ∧ t.sig = .ran ∧ t.core.l1 = (s.flushCore s.ctx.core (fun _ => true)).core.l1
      ∧ t.mem = (s.flushCore s.ctx.core (fun _ => true)).mem := by
  obtain ⟨t, ht, hcore, hmem⟩ := freezeAfter_spec (s.flushCore s.ctx.core (fun _ => true))
  have hd : drained dropL1 s = .ok ((), s.flushCore s.ctx.core (fun _ => true)) := performed_done rfl hu
  have hrun : fenceM far s = .ok ((), t) :=
    (bind_ok (settle_ok hs)).trans ((bind_ok (needL1_open hc)).trans ((bind_ok hd).trans ht))
  exact ⟨t.ran, finish_ok hrun, rfl, congrArg Core.l1 hcore, hmem⟩

/-- A write-back that stands behind a far access has been made, and the fence waits for it (R229). -/
theorem fence_drains (hu : (s.flushCore s.ctx.core (fun _ => true)).settled false = false) :
    finish p (fenceM far) s = .next ((s.flushCore s.ctx.core (fun _ => true)).waits .drain) := by
  obtain ⟨g, hd, hg⟩ := performed_pending (done := fun t => t.settled false) (f := dropL1) (s := s) rfl hu
  have hrun : fenceM far s = .error (.send .drain g) :=
    (bind_ok (settle_ok hs)).trans ((bind_ok (needL1_open hc)).trans (bind_stop hd))
  rw [finish_send hrun, hg]

end

theorem fencesWaitAndDropTheL1 : FencesWaitAndDropTheL1 := by
  intro p s
  refine ⟨fun h => finish_ok (settle_ok h), fun h => ⟨finish_wait (settle_wait h), fence_waits p h⟩,
    fun hs hc => ⟨fence_runs p hs hc, fence_drains p hs hc⟩, fun hs hc => ⟨fence_runs p hs hc, fence_drains p hs hc⟩,
    fun hl hid hs => ?_, fun h => fence_waits p h⟩
  rw [flushCore_of_empty hid hl]
  exact hs

end Sys2Proof.Laws.Ordering
end
section
/-! INVRO, FLUSHR, PHASE and PREF drop or fetch what the rules name (spec/10 R187, R188, R199 to R201). -/

namespace Sys2Proof.Laws.Ordering
open Sys2Proof Sys2Proof.Machine

section
variable {p : Pos} {a b : BitVec 5} {s : State} (ha : p.bypA = true ∨ PlainReg a) (hb : p.bypB = true ∨ PlainReg b)
include ha

/-- INVRO drops the sectors of its range that the chamber holds for the launch, and nothing else (R199). -/
theorem invro_drops_sectors (hb : p.bypB = true ∨ PlainReg b) :
    let x := (s.source p.bypA a).toNat
    let hi := rangeEnd (s.source p.bypA a) (s.source p.bypB b)
    ∃ t, exec (.invro p a b) s = .next t ∧ t.sig = .ran ∧ t.mem = s.mem ∧ t.core = s.core
      ∧ ∀ l, l ∈ t.ro ↔ l ∈ s.ro ∧ ¬ (l.chamber = chamberOf s.ctx.core ∧ l.launch = s.ctx.launch ∧ x < hi
          ∧ x < 32 * l.sector + 32 ∧ 32 * l.sector < hi) := by
  refine ⟨_, finish_ok ((bind_ok (readS_plain ha)).trans ((bind_ok (readS_plain hb)).trans rfl)), rfl, rfl, rfl, fun l => ?_⟩
  simp only [ran_ro, List.mem_filter, Bool.not_eq_true', ← Bool.not_eq_true, Bool.and_eq_true, beq_iff_eq, decide_eq_true_eq,
    and_assoc]

/-- FLUSHR writes back and drops the launch's lines in its range, and waits for a write-back behind a far access (R200, R229). -/
theorem flushr_flushes (hb : p.bypB = true ∨ PlainReg b) (hc : s.closed = false) :
    let x := (s.source p.bypA a).toNat
    let hi := rangeEnd (s.source p.bypA a) (s.source p.bypB b)
    let u := s.flushCore s.ctx.core (fun l => l.launch == s.ctx.launch && decide (x < hi) && l.overlaps x hi)
    (u.farClear = true → exec (.flushr p a b) s = .next u.ran)
    ∧ (u.farClear = false → exec (.flushr p a b) s = .next (u.waits .drain)) := by
  intro x hi u
  refine ⟨fun hu => finish_ok ((bind_ok (readS_plain ha)).trans ((bind_ok (readS_plain hb)).trans
    ((bind_ok (needL1_open hc)).trans (performed_done rfl hu)))), fun hu => ?_⟩
  obtain ⟨g, hd, hg⟩ := performed_pending (done := State.farClear) (f := fun s => .ok ((), s.flushCore s.ctx.core
    (fun l => l.launch == s.ctx.launch && decide (x < hi) && l.overlaps x hi))) (s := s) rfl hu
  rw [show u = g s from hg.symm]
  exact finish_send ((bind_ok (readS_plain ha)).trans ((bind_ok (readS_plain hb)).trans
    ((bind_ok (needL1_open hc)).trans hd)))

/-- A number of pieces above four is refused (R188). -/
theorem phase_too_large (h : 4 < (s.source p.bypA a).toNat) :
    exec (.phase p a) s = .next (s.traps p ⟨cProtect, 0, 0x20⟩) :=
  finish_trap ((bind_ok (readS_plain ha)).trans (bind_stop (by rw [decide_eq_true h, trapIf_true, trapM_run])))

/-- PHASE opens a window of 2,049 cycles and notes the new division; the old one stands until the window ends (R188). -/
theorem phase_opens (h4 : (s.source p.bypA a).toNat ≤ 4)
    (hfree : s.core.l1Size < (s.source p.bypA a).toNat → ∀ g ∈ s.allotted s.ctx.core,
      2 ^ 21 - s.core.l1Size * 2 ^ 17 ≤ g.1 ∨ g.1 + g.2 ≤ 2 ^ 21 - (s.source p.bypA a).toNat * 2 ^ 17)
    (hnone : s.core.phaseEnd = none) :
    ∃ t, exec (.phase p a) s = .next t ∧ t.sig = .ran ∧ t.core.l1Next = (s.source p.bypA a).toNat
      ∧ t.core.phaseEnd = some (s.now + 2049) ∧ t.core.l1Size = s.core.l1Size := by
  have hcheck : trapIf (decide (4 < (s.source p.bypA a).toNat)) cProtect 0 0x20 s = .ok ((), s) := by
    rw [decide_eq_false (Nat.not_lt.2 h4), trapIf_false, pure_run]
  have hroom : ¬ (decide (s.core.l1Size < (s.source p.bypA a).toNat) && (s.allotted s.ctx.core).any (fun g =>
      decide (g.1 < 2 ^ 21 - s.core.l1Size * 2 ^ 17) && decide (2 ^ 21 - (s.source p.bypA a).toNat * 2 ^ 17 < g.1 + g.2))) = true := by
    simp only [Bool.and_eq_true, decide_eq_true_eq, List.any_eq_true, not_and]
    rintro hlt ⟨g, hg, hlo, hhi⟩
    exact (hfree hlt g hg).elim (Nat.not_le.2 hlo) (Nat.not_le.2 hhi)
  have hgave : ∀ go : List L1Line, SameSite s (go.foldl (fun s l => s.writeBack l (BitVec.allOnes 128) s.ctx.agent) s) :=
    fun go => .foldl (fun _ _ => writeBack_site ..) go s
  rw [show exec (.phase p a) s = execPhase p a s from rfl, execPhase, finish, bind_ok (readS_plain ha), bind_ok hcheck]
  dsimp only
  rw [if_neg hroom, if_neg (by simp [hnone])]
  refine ⟨_, rfl, rfl, rfl, ?_, ?_⟩
  · simp only [(hgave _).now]
  · simp only [(hgave _).core]

variable {off : BitVec 13} (pol : BitVec 3)

/-- PREF never traps: a fault of its address is no access, and a closed store is waited for (R188, R201). -/
theorem pref_never_traps : ∃ t, exec (.pref p a pol off) s = .next t ∧ ∀ r, t.sig ≠ .trapped r := by
  refine finish_untrapped ?_
  rw [bind_ok (readS_plain ha)]
  split
  · exact .inl ⟨_, rfl⟩
  · split
    · split
      · split
        · exact .inr ⟨_, rfl⟩
        · exact .inl ⟨_, rfl⟩
      · split <;> exact .inl ⟨_, rfl⟩
    · exact .inl ⟨_, rfl⟩

/-- Nothing is fetched for an address of the chamber window (R201). -/
theorem pref_of_chamber (h : (effAddr p (s.source p.bypA a) off).toNat < 2 ^ 32) :
    exec (.pref p a pol off) s = .next s.ran :=
  finish_ok ((bind_ok (readS_plain ha)).trans (if_pos (.inl h)))

section
variable {pa : Nat} (hva : CachedHere s (effAddr p (s.source p.bypA a) off).toNat pa)
include hva

/-- Under `.l2` the sector is read at its home (R201). -/
theorem pref_l2 : exec (.pref p a 1 off) s = .next (s.homeRead (pa / 32 * 32) 32 .l2 s.ctx.agency).2.ran := by
  refine finish_ok ((bind_ok (readS_plain ha)).trans ?_)
  simp [cached_above_window hva, policyOf, locate_cached hva]

/-- Under `.l1` the sector is fetched into the L1 (R201). -/
theorem pref_l1 (hsize : 0 < s.core.l1Size) (hc : s.closed = false) : exec (.pref p a 0 off) s = .next
    (s.l1Load s.ctx.launch ((effAddr p (s.source p.bypA a) off).toNat / 32 * 32) 32 (pa / 32 * 32)).2.2.2.ran := by
  refine finish_ok ((bind_ok (readS_plain ha)).trans ?_)
  simp [cached_above_window hva, policyOf, locate_cached hva, hsize, hc]

/-- Under `.ro` the sector is fetched into the chamber's read-only cache (R201). -/
theorem pref_ro : exec (.pref p a 4 off) s = .next
    (s.roLoad (chamberOf s.ctx.core) s.ctx.launch (effAddr p (s.source p.bypA a) off).toNat 1 pa).2.2.ran := by
  refine finish_ok ((bind_ok (readS_plain ha)).trans ?_)
  simp [cached_above_window hva, policyOf, locate_cached hva]

end

end

theorem maintenanceActsOnTheCaches : MaintenanceActsOnTheCaches := by
  intro p a b pol off s ha hb
  refine ⟨invro_drops_sectors ha hb, flushr_flushes ha hb, phase_opens ha, phase_too_large ha, pref_never_traps ha pol,
    pref_of_chamber ha pol, fun pa hva => ⟨?_, ?_, ?_⟩⟩
  · rintro rfl; exact pref_l2 ha hva
  · rintro rfl; exact pref_l1 ha hva
  · rintro rfl; exact pref_ro ha hva

/-- Settles O27: the fences, step by step, and each maintenance instruction on its own. -/
theorem fencesAndMaintenanceActOnTheCaches : Obligations.FencesAndMaintenanceActOnTheCaches :=
  ⟨fencesWaitAndDropTheL1, maintenanceActsOnTheCaches⟩

end Sys2Proof.Laws.Ordering
end

section
/-! Sync objects: one attempt at the record's home, then ACQ and REL around it (spec/06 R111, R114 to R118). -/

namespace Sys2Proof.Laws.Ordering
open Sys2Proof Sys2Proof.Machine

/-! ## One attempt -/

/-- The four words of a record as memory holds them. -/
def recordWords (s : State) (pa : Nat) : List Word := wordsOfBytes 4 (memGetN s.mem pa 32)

/-- Who an attempt of the running context acts for. -/
def selfOwner (s : State) : Nat := ownerOf s.fab.dev s.ctx.core s.ctx.slot

theorem soAttempt_words (s : State) (op : SoOp) (me pa g : Nat) : (s.soAttempt op me pa g).1 = recordWords s pa := by
  unfold State.soAttempt
  simp only []
  split <;> rfl

theorem soAttempt_site (s : State) (op : SoOp) (me pa g : Nat) : SameSite s (s.soAttempt op me pa g).2 := by
  unfold State.soAttempt
  have hr := homeRead_site s pa 32 .l2 g
  simp only []
  split
  · exact hr.trans (homeWrite_site ..)
  · exact hr

/-- The words that a granted attempt writes: REL counts the version up as well (R116). -/
def grantedWords (op : SoOp) (after : Word × Word) : List Word :=
  match op with
  | .rel => [after.1, after.2]
  | _ => [after.1]

/-- The first bytes of a run. -/
theorem memGetN_take (m : List Host.Cell) (a k n : Nat) : (memGetN m a (k + n)).take k = memGetN m a k := by
  refine List.ext_getElem (by simp) fun i h1 h2 => ?_
  rw [List.getElem_take, memGetN_get, memGetN_get]

section
variable {s : State} {op : SoOp} {me pa : Nat} (g : Nat) (hvalid : soValid (recordWords s pa) = true)
  (hkeep : soRefused op me ((recordWords s pa).getD 0 0) = false) (hgrant : soGranted op ((recordWords s pa).getD 0 0) = true)
include hvalid hkeep hgrant

theorem soAttempt_granted_mem : (s.soAttempt op me pa g).2.mem = memPutN s.mem pa
    (bytesOfWords (grantedWords op (soAfter op me ((recordWords s pa).getD 0 0) ((recordWords s pa).getD 1 0)))) := by
  have hwords : wordsOfBytes 4 (s.homeRead pa 32 .l2 g).1 = recordWords s pa := rfl
  obtain ⟨_, hsame, _⟩ := homeRead_spec s pa 32 .l2 g
  simp only [State.soAttempt, hwords, hvalid, hkeep, hgrant, Bool.not_false, Bool.and_self, if_true]
  rw [(homeWrite_spec ..).1, hsame]
  cases op <;> rfl

/-- The lock word is what the table says (R116). -/
theorem soAttempt_lock (hwf : s.MemWf) : memGetN (s.soAttempt op me pa g).2.mem pa 8
    = bytesOfNat 8 (soAfter op me ((recordWords s pa).getD 0 0) ((recordWords s pa).getD 1 0)).1.toNat := by
  rw [soAttempt_granted_mem g hvalid hkeep hgrant]
  generalize soAfter op me _ _ = after
  cases op with
  | acqX | acqS => exact memGetN_memPutN (bs := bytesOfWords [after.1]) hwf.1
  | rel =>
    rw [← memGetN_take _ _ 8 8]
    exact congrArg (List.take 8) (memGetN_memPutN (bs := bytesOfWords [after.1, after.2]) hwf.1)

end

/-- After a granted REL the record begins with the new lock word and the version counted up (R116). -/
theorem soAttempt_released {s : State} {me pa : Nat} (g : Nat) (hwf : s.MemWf) (hvalid : soValid (recordWords s pa) = true)
    (hkeep : soRefused .rel me ((recordWords s pa).getD 0 0) = false) : memGetN (s.soAttempt .rel me pa g).2.mem pa 16
      = bytesOfWords [(soAfter .rel me ((recordWords s pa).getD 0 0) ((recordWords s pa).getD 1 0)).1, (recordWords s pa).getD 1 0 + 1] := by
  rw [soAttempt_granted_mem g hvalid hkeep rfl]
  exact memGetN_memPutN (bs := bytesOfWords [_, _]) hwf.1

/-! ## The attempt of the running context -/

/-- The state once the running context has made an attempt: its own L1 copy has gone out first, and the access stands behind a far
one of its sector (R111, R229). -/
def attempted (op : SoOp) (va pa : Nat) (s : State) : State :=
  let own := s.dropOwn s.ctx.launch va 32
  (own.soAttempt op (selfOwner s) pa own.ctx.agency).2.joinFar .l2 pa 32 s.ctx.agent

/-- The record's words as such an attempt meets them. -/
def wordsMet (va pa : Nat) (s : State) : List Word := recordWords (s.dropOwn s.ctx.launch va 32) pa

theorem wordsMet_of_empty {s : State} (hl : s.core.l1 = []) (va pa : Nat) : wordsMet va pa s = recordWords s pa := by
  rw [wordsMet, dropOwn_of_empty hl]

theorem soHere_attempted {op : SoOp} {va pa : Nat} {s : State}
    (h : (s.dropOwn s.ctx.launch va 32).poisoned pa 32 = none) :
    soHere op va pa s = .ok (wordsMet va pa s, attempted op va pa s) := by
  obtain ⟨hfab, hcore, hslot⟩ := dropOwn_place s s.ctx.launch va 32
  simp only [soHere, recordAt, h, soAttempt_words, wordsMet, attempted, selfOwner, hfab, hcore, hslot]

theorem attempted_owner (op : SoOp) (va pa : Nat) (s : State) : selfOwner (attempted op va pa s) = selfOwner s := by
  obtain ⟨hfab, hcore, hslot⟩ := dropOwn_place s s.ctx.launch va 32
  have h := (soAttempt_site (s.dropOwn s.ctx.launch va 32) op (selfOwner s) pa (s.dropOwn s.ctx.launch va 32).ctx.agency).trans
    (joinFar_site _ .l2 pa 32 s.ctx.agent)
  unfold selfOwner attempted
  rw [h.fab, h.onCore, h.inSlot, hfab, hcore, hslot]

/-- With an empty L1 the attempt finds and leaves the core as it was. -/
theorem attempted_core {s : State} (hl : s.core.l1 = []) (op : SoOp) (va pa : Nat) :
    (attempted op va pa s).core = s.core ∧ (attempted op va pa s).ctx.core = s.ctx.core := by
  unfold attempted
  rw [dropOwn_of_empty hl]
  have h := (soAttempt_site s op (selfOwner s) pa s.ctx.agency).trans (joinFar_site _ .l2 pa 32 s.ctx.agent)
  exact ⟨h.core, h.onCore⟩

theorem attempted_mem {s : State} (hl : s.core.l1 = []) (op : SoOp) (va pa : Nat) :
    (attempted op va pa s).mem = (s.soAttempt op (selfOwner s) pa s.ctx.agency).2.mem := by
  unfold attempted
  rw [dropOwn_of_empty hl]
  rfl

/-! ## The checks after an attempt -/

theorem validCheck_ok {ws : List Word} (h : soValid ws = true) (va : Word) (s : State) :
    trapIf (!soValid ws) cFormat va 0 s = .ok ((), s) := by simp [h]

theorem validCheck_bad {ws : List Word} (h : soValid ws = false) (va : Word) (s : State) :
    trapIf (!soValid ws) cFormat va 0 s = .error (.trap ⟨cFormat, va, 0⟩) := by simp [h]

theorem ownerCheck_ok {op : SoOp} {ws : List Word} {s : State} (h : soRefused op (selfOwner s) (ws.getD 0 0) = false) (va : Word) :
    ownerCheck op va ws s = .ok ((), s) := if_neg (ne_true_of_eq_false h)

theorem ownerCheck_refused {op : SoOp} {ws : List Word} {s : State} (h : soRefused op (selfOwner s) (ws.getD 0 0) = true) (va : Word) :
    ownerCheck op va ws s = .error (.trap ⟨cProtect, va, 8⟩) := if_pos h

theorem grantCheck_ok {op : SoOp} {ws : List Word} (h : soGranted op (ws.getD 0 0) = true) (home : Home) (s : State) :
    grantCheck op home ws s = .ok ((), s) := if_pos h

theorem grantCheck_waits {op : SoOp} {ws : List Word} (h : soGranted op (ws.getD 0 0) = false) (pa : Nat) (s : State) :
    grantCheck op (.here pa) ws s = .error (.wait .acquire) := if_neg (ne_true_of_eq_false h)

/-! ## ACQ -/

theorem exec_acq {op : SoOp} (hop : op ≠ .rel) (p : Pos) (a : BitVec 5) (s : State) :
    exec (soInstr op p a) s = finish p (acqM op p a) s := by
  cases op with
  | acqX | acqS => rfl
  | rel => exact absurd rfl hop

section
variable {op : SoOp} {p : Pos} {a : BitVec 5} {s s1 : State} {pa : Nat} (ha : p.bypA = true ∨ PlainReg a) (hc : s.closed = false)
  (hhome : objHome (s.source p.bypA a).toNat s = .ok (.here pa, s1))
  (hclean : (s1.dropOwn s1.ctx.launch (s.source p.bypA a).toNat 32).poisoned pa 32 = none)
include ha hc hhome hclean

/-- An ACQ of an object of this package comes to its checks with the attempt made. -/
theorem acqM_attempts (op : SoOp) :
    let va := s.source p.bypA a
    let ws := wordsMet va.toNat pa s1
    acqM op p a s = (do
      trapIf (!soValid ws) cFormat va 0
      ownerCheck op va ws
      grantCheck op (.here pa) ws
      dropRegion ws
      freezeAfter : M Unit) (attempted op va.toNat pa s1) :=
  (bind_ok (readS_plain ha)).trans ((bind_ok (needL1_open hc)).trans ((bind_ok hhome).trans (bind_ok (soHere_attempted hclean))))

section
variable (hvalid : soValid (wordsMet (s.source p.bypA a).toNat pa s1) = true)
include hvalid

/-- A granted ACQ runs, its region dropped from the L1. -/
theorem acq_granted (hop : op ≠ .rel)
    (hkeep : soRefused op (selfOwner s1) ((wordsMet (s.source p.bypA a).toNat pa s1).getD 0 0) = false)
    (hgrant : soGranted op ((wordsMet (s.source p.bypA a).toNat pa s1).getD 0 0) = true) :
    ∃ t, exec (soInstr op p a) s = .next t ∧ t.sig = .ran
      ∧ (s1.core.id = s1.ctx.core → s1.core.l1 = [] → t.mem = (attempted op (s.source p.bypA a).toNat pa s1).mem) := by
  rw [exec_acq hop]
  rw [← attempted_owner op (s.source p.bypA a).toNat pa s1] at hkeep
  obtain ⟨t, ht, -, hmem⟩ := freezeAfter_spec ((attempted op (s.source p.bypA a).toNat pa s1).flushCore
    (attempted op (s.source p.bypA a).toNat pa s1).ctx.core (soCovers (attempted op (s.source p.bypA a).toNat pa s1).ctx.launch
      (wordsMet (s.source p.bypA a).toNat pa s1)))
  refine ⟨t.ran, finish_ok ((acqM_attempts ha hc hhome hclean op).trans ((bind_ok (validCheck_ok hvalid ..)).trans
    ((bind_ok (ownerCheck_ok hkeep _)).trans ((bind_ok (grantCheck_ok hgrant ..)).trans ((bind_ok rfl).trans ht))))), rfl, ?_⟩
  intro hid hl
  obtain ⟨hcore, hon⟩ := attempted_core hl op (s.source p.bypA a).toNat pa
  rw [ran_mem, hmem, flushCore_of_empty (by rw [hcore, hon, hid]) (by rw [hcore, hl])]

theorem acq_refused (hop : op ≠ .rel)
    (href : soRefused op (selfOwner s1) ((wordsMet (s.source p.bypA a).toNat pa s1).getD 0 0) = true) :
    exec (soInstr op p a) s = .next (s.traps p ⟨cProtect, s.source p.bypA a, 8⟩) := by
  rw [exec_acq hop]
  rw [← attempted_owner op (s.source p.bypA a).toNat pa s1] at href
  exact finish_trap ((acqM_attempts ha hc hhome hclean op).trans ((bind_ok (validCheck_ok hvalid ..)).trans
    (bind_stop (ownerCheck_refused href _))))

theorem acq_waits (hop : op ≠ .rel)
    (hkeep : soRefused op (selfOwner s1) ((wordsMet (s.source p.bypA a).toNat pa s1).getD 0 0) = false)
    (hgrant : soGranted op ((wordsMet (s.source p.bypA a).toNat pa s1).getD 0 0) = false) :
    exec (soInstr op p a) s = .next (s.waits .acquire) := by
  rw [exec_acq hop]
  rw [← attempted_owner op (s.source p.bypA a).toNat pa s1] at hkeep
  exact finish_wait ((acqM_attempts ha hc hhome hclean op).trans ((bind_ok (validCheck_ok hvalid ..)).trans
    ((bind_ok (ownerCheck_ok hkeep _)).trans (bind_stop (grantCheck_waits hgrant ..)))))

end

theorem acq_invalid (hop : op ≠ .rel)
    (hbad : soValid (wordsMet (s.source p.bypA a).toNat pa s1) = false) :
    exec (soInstr op p a) s = .next (s.traps p ⟨cFormat, s.source p.bypA a, 0⟩) := by
  rw [exec_acq hop]
  exact finish_trap ((acqM_attempts ha hc hhome hclean op).trans (bind_stop (validCheck_bad hbad ..)))

end

/-! ## REL -/

section
variable {p : Pos} {a : BitVec 5} {s s1 : State} {pa : Nat} (ha : p.bypA = true ∨ PlainReg a) (hc : s.closed = false)
  (hhome : objHome (s.source p.bypA a).toNat s = .ok (.here pa, s1)) (hclean : s1.poisoned pa 32 = none)
  (hs : s.settled false = true) (hs1 : s1.settled false = true) (hid : s1.core.id = s1.ctx.core) (hl : s1.core.l1 = [])
  (hvalid : soValid (recordWords s1 pa) = true)
include ha hc hhome hclean hs hs1 hid hl hvalid

/-- A REL with an empty L1, its earlier accesses performed, comes to its checks with the attempt made. -/
theorem relM_attempts : relM p a s = (do
      trapIf (!soValid (recordWords s1 pa)) cFormat (s.source p.bypA a) 0
      ownerCheck .rel (s.source p.bypA a) (recordWords s1 pa)
      cleanRegion (recordWords s1 pa)
      freezeAfter : M Unit) (attempted .rel (s.source p.bypA a).toNat pa s1) := by
  have hown := dropOwn_of_empty hl s1.ctx.launch (s.source p.bypA a).toNat 32
  have hmet := wordsMet_of_empty hl (s.source p.bypA a).toNat pa
  have hpeek : relPeek (s.source p.bypA a).toNat (.here pa) s1 = .ok (recordWords s1 pa, s1) := by
    simp only [relPeek, hown, hclean]; rfl
  have hwrote : (if soValid (recordWords s1 pa) then drained (cleanRegion (recordWords s1 pa)) else pure () : M Unit) s1
      = .ok ((), s1) := by
    rw [if_pos hvalid]
    refine performed_done ?_ hs1
    rw [cleanRegion, cleanCore_of_empty hid hl]
  have htry : relTry (s.source p.bypA a).toNat (.here pa) (recordWords s1 pa) s1
      = .ok (recordWords s1 pa, attempted .rel (s.source p.bypA a).toNat pa s1) := by
    have h := soHere_attempted (op := .rel) (va := (s.source p.bypA a).toNat) (pa := pa) (s := s1) (by rw [hown]; exact hclean)
    rw [hmet] at h
    simp only [relTry, soTry, h]
  exact (bind_ok (settle_ok hs)).trans ((bind_ok (readS_plain ha)).trans ((bind_ok (needL1_open hc)).trans
    ((bind_ok hhome).trans ((bind_ok hpeek).trans ((bind_ok hwrote).trans (bind_ok htry))))))

theorem rel_releases (hkeep : soRefused .rel (selfOwner s1) ((recordWords s1 pa).getD 0 0) = false) :
    ∃ t, exec (.rel p a) s = .next t ∧ t.sig = .ran
      ∧ t.mem = (s1.soAttempt .rel (selfOwner s1) pa s1.ctx.agency).2.mem := by
  rw [← attempted_owner .rel (s.source p.bypA a).toNat pa s1] at hkeep
  obtain ⟨hcore, hon⟩ := attempted_core hl .rel (s.source p.bypA a).toNat pa
  have hregion : cleanRegion (recordWords s1 pa) (attempted .rel (s.source p.bypA a).toNat pa s1)
      = .ok ((), attempted .rel (s.source p.bypA a).toNat pa s1) := by
    rw [cleanRegion, cleanCore_of_empty (by rw [hcore, hon, hid]) (by rw [hcore, hl])]
  obtain ⟨t, ht, -, hmem⟩ := freezeAfter_spec (attempted .rel (s.source p.bypA a).toNat pa s1)
  refine ⟨t.ran, finish_ok ((relM_attempts ha hc hhome hclean hs hs1 hid hl hvalid).trans ((bind_ok (validCheck_ok hvalid ..)).trans
    ((bind_ok (ownerCheck_ok hkeep _)).trans ((bind_ok hregion).trans ht)))), rfl, ?_⟩
  rw [ran_mem, hmem, attempted_mem hl]

theorem rel_refused (href : soRefused .rel (selfOwner s1) ((recordWords s1 pa).getD 0 0) = true) :
    exec (.rel p a) s = .next (s.traps p ⟨cProtect, s.source p.bypA a, 8⟩) := by
  rw [← attempted_owner .rel (s.source p.bypA a).toNat pa s1] at href
  exact finish_trap ((relM_attempts ha hc hhome hclean hs hs1 hid hl hvalid).trans ((bind_ok (validCheck_ok hvalid ..)).trans
    (bind_stop (ownerCheck_refused href _))))

end

theorem rel_drains {p : Pos} {a : BitVec 5} {s : State} (h : s.settled false = false) :
    exec (.rel p a) s = .next (s.waits .drain) := finish_wait (bind_stop (settle_wait h))

theorem attemptsFollowTheTable : AttemptsFollowTheTable := by
  intro p a op s s1 pa ha i x me own hc hhome hclean ws
  refine ⟨fun hop hvalid hkeep hgrant => ?_, fun hop hvalid href => acq_refused ha hc hhome hclean hvalid hop href,
    fun hop hvalid hkeep hgrant => acq_waits ha hc hhome hclean hvalid hop hkeep hgrant,
    fun hop hbad => acq_invalid ha hc hhome hclean hop hbad, ?_, rel_drains, fun hwf hvalid hkeep hgrant => ?_,
    fun l v => ⟨rfl, rfl, rfl⟩⟩
  · obtain ⟨t, ht, hran, -⟩ := acq_granted ha hc hhome hclean hvalid hop hkeep hgrant
    exact ⟨t, ht, hran⟩
  · rintro rfl hs hs1 hwf hid hl hvalid
    have hown : own = s1 := dropOwn_of_empty hl ..
    have hws : ws = recordWords s1 pa := congrArg (recordWords · pa) hown
    rw [hown] at hclean
    rw [hws] at hvalid ⊢
    refine ⟨fun hkeep => ?_, rel_refused ha hc hhome hclean hs hs1 hid hl hvalid⟩
    obtain ⟨t, ht, hran, hmem⟩ := rel_releases ha hc hhome hclean hs hs1 hid hl hvalid hkeep
    exact ⟨t, ht, hran, hmem ▸ soAttempt_released _ hwf hvalid hkeep⟩
  · exact soAttempt_lock _ hvalid hkeep hgrant (dropOwn_wf hwf ..)

/-- An object with its leaf in the TLB has its home where the leaf says (R118). -/
theorem objHome_cached {s : State} {va pa : Nat} (h : CachedHere s va pa) (hal : va % 32 = 0) :
    objHome va s = .ok (.here pa, s) := by
  have hwin : trapIf (decide (va < 2 ^ 32)) cProtect (w64 va) 5 s = .ok ((), s) := by
    rw [decide_eq_false (Nat.not_lt.2 h.1), trapIf_false, pure_run]
  refine (bind_ok (alignTo_ok hal s)).trans ((bind_ok hwin).trans ?_)
  rw [locate_cached h]

theorem grantedAttemptsComplete : GrantedAttemptsComplete := by
  intro p a op s pa ha x me ws after hva hal hc hl hclean hwf hvalid hkeep hgrant hsettled
  have hid := cached_core hva
  have hhome := objHome_cached hva hal
  have hlock := soAttempt_lock s.ctx.agency hvalid hkeep hgrant hwf
  by_cases hop : op = .rel
  · subst hop
    obtain ⟨t, ht, hran, hmem⟩ :=
      rel_releases ha hc hhome hclean (hsettled rfl) (hsettled rfl) hid hl hvalid hkeep
    exact ⟨t, ht, hran, hmem ▸ hlock, fun _ => hmem ▸ soAttempt_released _ hwf hvalid hkeep⟩
  · have hown := dropOwn_of_empty hl s.ctx.launch x.toNat 32
    have hmet := wordsMet_of_empty hl x.toNat pa
    obtain ⟨t, ht, hran, hmem⟩ := acq_granted ha hc hhome (by rw [hown]; exact hclean) (by rw [hmet]; exact hvalid) hop
      (by rw [hmet]; exact hkeep) (by rw [hmet]; exact hgrant)
    exact ⟨t, ht, hran, (hmem hid hl).trans (attempted_mem hl ..) ▸ hlock, fun h => absurd h hop⟩

/-- Settles O26: an attempt at the record's home follows R116's table, and ACQ and REL complete around it. -/
theorem syncObjectsAreAcquiredAndReleased : Obligations.SyncObjectsAreAcquiredAndReleased :=
  ⟨attemptsFollowTheTable, grantedAttemptsComplete⟩

end Sys2Proof.Laws.Ordering
end

section
/-! Channel waits, cancels and fences, and the chamber bus (spec/06 R124; spec/11 R213, R220, R222). -/

namespace Sys2Proof.Laws.Ordering
open Sys2Proof Sys2Proof.Machine

/-! ## Channels -/

theorem chan_setChan_same {k : Core} {ch : Nat} (h : ch < 4) (c : Channel) : (k.setChan ch c).chan ch = c := by
  simp [Core.setChan, Core.chan, Vector.getD, h]

theorem chan_setChan_other {k : Core} {ch i : Nat} (h : i ≠ ch) (c : Channel) : (k.setChan ch c).chan i = k.chan i := by
  simp [Core.setChan, Core.chan, Vector.getD, Ne.symm h]

/-! ## ECAN -/

/-- The requests to other packages that ECAN looks for: those of a channel's command. -/
def requestsOf (s : State) (ch : Nat) (q : Command) : List Outstanding :=
  let w := q.who s.core.id ch
  s.fab.out.filter (fun o => o.core == w.coreKey && o.slot == w.key && o.pkt.stream == w.stream)

theorem mem_requestsOf {s : State} {ch : Nat} {q : Command} {o : Outstanding} :
    o ∈ requestsOf s ch q ↔ ChannelRequest s ch q o := by
  simp [requestsOf, ChannelRequest, and_assoc]

theorem ecan_cancels {s : State} {ch : Nat} (hheld : s.chanHeld ch = false)
    (hnone : ∀ q ∈ (s.core.chan ch).queue, ∀ o, ¬ ChannelRequest s ch q o) : ecanM ch s = .ok ((), s.chanCancel ch) := by
  unfold ecanM
  cases hq : (s.core.chan ch).queue with
  | nil => simp only [hq]
  | cons q rest =>
    have hmine : requestsOf s ch q = [] :=
      List.eq_nil_iff_forall_not_mem.2 fun o ho => hnone q (hq ▸ List.mem_cons_self ..) o (mem_requestsOf.1 ho)
    simp only [hq]
    split
    · rfl
    · rw [if_neg (ne_true_of_eq_false hheld)]
      exact if_pos (by rw [show List.filter _ s.fab.out = [] from hmine]; simp)

section
variable {s : State} {ch : Nat} {q : Command} {rest : List Command} (hq : (s.core.chan ch).queue = q :: rest)
  (hby : q.by s.ctx = true) (hact : (s.core.chan ch).active = true)
include hq hby hact

theorem ecan_halts_held (hheld : s.chanHeld ch = true) : ∃ g, ecanM ch s = .error (.send .channel g)
    ∧ g s = s.setChan ch { s.core.chan ch with halting := true } := by
  refine ⟨fun s => s.setChan ch { s.core.chan ch with halting := true }, ?_, rfl⟩
  simp [ecanM, hq, hby, hact, hheld]

theorem ecan_halts_unanswered {o : Outstanding} (hflt : (s.core.chan ch).flt = false) (hcal : q.regs.cal = false)
    (ho : ChannelRequest s ch q o) (hans : o.answer = none) : ∃ g, ecanM ch s = .error (.send .channel g)
    ∧ g s = s.setChan ch { s.core.chan ch with halting := true } := by
  cases hheld : s.chanHeld ch with
  | true => exact ecan_halts_held hq hby hact hheld
  | false =>
    have hmine := mem_requestsOf.2 ho
    have hsome : (requestsOf s ch q).isEmpty = false := List.isEmpty_eq_false_iff.2 (List.ne_nil_of_mem hmine)
    have hopen : (requestsOf s ch q).any (fun o => o.answer.isNone) = true := List.any_eq_true.2 ⟨o, hmine, by simp [hans]⟩
    refine ⟨fun s => s.setChan ch { s.core.chan ch with halting := true }, ?_, rfl⟩
    unfold requestsOf at hsome hopen
    simp only [ecanM, hq, hby, hact, hheld, hflt, hcal, hsome, hopen, Bool.and_self, Bool.not_true, Bool.or_self,
      Bool.false_eq_true, if_false, if_true]

end

/-! ## TWAIT and TWAITN -/

/-- A wait on a channel that has not stopped, or whose fault the firmware still has, goes on. -/
theorem chanStuck_waits {s : State} {ch : Nat} (h : (s.core.chan ch).flt = false ∨ (s.core.chan ch).offered = true) :
    chanStuck ch s = .error (.wait .twait) := by
  unfold chanStuck
  rcases h with h | h <;> simp [h]

section
variable {p : Pos} {a : BitVec 5} {s : State} (ch : BitVec 2) (ha : p.bypA = true ∨ PlainReg a)
include ha

theorem twait_ends (h : ((s.core.chan ch.toNat).doneId - 1 - (s.source p.bypA a).setWidth 32).toNat < 2 ^ 31) :
    exec (.twait p a ch) s = .next s.ran :=
  finish_ok ((bind_ok (readS_plain ha)).trans (if_pos (by rw [Channel.complete, BitVec.ofNat_toNat]; exact decide_eq_true h)))

theorem twait_waits (h : 2 ^ 31 ≤ ((s.core.chan ch.toNat).doneId - 1 - (s.source p.bypA a).setWidth 32).toNat)
    (hopen : (s.core.chan ch.toNat).flt = false ∨ (s.core.chan ch.toNat).offered = true) :
    exec (.twait p a ch) s = .next (s.waits .twait) :=
  finish_wait ((bind_ok (readS_plain ha)).trans ((if_neg (by
    rw [Channel.complete, BitVec.ofNat_toNat, decide_eq_true_iff]; exact Nat.not_lt.2 h)).trans (chanStuck_waits hopen)))

theorem twaitn_ends (h : (s.core.chan ch.toNat).own s.ctx < (if s.source p.bypA a = 0 then 1 else (s.source p.bypA a).toNat)) :
    exec (.twaitn p a ch) s = .next s.ran :=
  finish_ok ((bind_ok (readS_plain ha)).trans (if_pos h))

theorem twaitn_waits (h : (if s.source p.bypA a = 0 then 1 else (s.source p.bypA a).toNat) ≤ (s.core.chan ch.toNat).own s.ctx)
    (hopen : (s.core.chan ch.toNat).flt = false ∨ (s.core.chan ch.toNat).offered = true) :
    exec (.twaitn p a ch) s = .next (s.waits .twait) :=
  finish_wait ((bind_ok (readS_plain ha)).trans ((if_neg (Nat.not_lt.2 h)).trans (chanStuck_waits hopen)))

end

/-! ## QFENCE and PBINV -/

/-- Channel ch joins the commands of a list, beside those it joins already (R124). -/
def joinAll (js : List (Nat × BitVec 32)) (k : Core) (ch : Nat) : Core :=
  k.setChan ch { k.chan ch with joins := (k.chan ch).joins.filter (fun j => !js.contains j) ++ js }

/-- A channel that none of a list names is left alone. -/
theorem chan_joinAll_other (js : List (Nat × BitVec 32)) {l : List Nat} {i : Nat} (h : i ∉ l) (k : Core) :
    (l.foldl (joinAll js) k).chan i = k.chan i := by
  induction l generalizing k with
  | nil => rfl
  | cons ch t ih =>
    obtain ⟨hne, ht⟩ := not_or.1 (mt List.mem_cons.2 h)
    exact (ih ht _).trans (chan_setChan_other hne _)

/-- Once a channel joins the commands, the rest of a list takes none of them from it. -/
theorem joins_kept {js : List (Nat × BitVec 32)} {l : List Nat} {i : Nat} {k : Core} (hi : i < 4)
    (h : js ⊆ (k.chan i).joins) : js ⊆ ((l.foldl (joinAll js) k).chan i).joins := by
  induction l generalizing k with
  | nil => exact h
  | cons ch t ih =>
    refine ih ?_
    by_cases hc : i = ch
    · subst hc
      rw [joinAll, chan_setChan_same hi]
      exact List.subset_append_right ..
    · rw [joinAll, chan_setChan_other hc]
      exact h

/-- Every channel named joins all the commands. -/
theorem joins_of_mem {js : List (Nat × BitVec 32)} {l : List Nat} {i : Nat} (hi : i < 4) (h : i ∈ l) (k : Core) :
    js ⊆ ((l.foldl (joinAll js) k).chan i).joins := by
  induction l generalizing k with
  | nil => exact absurd h List.not_mem_nil
  | cons ch t ih =>
    rcases List.mem_cons.1 h with rfl | ht
    · refine joins_kept (l := t) hi ?_
      rw [joinAll, chan_setChan_same hi]
      exact List.subset_append_right ..
    · exact ih ht _

/-- The channels a mask names. -/
def named (mask : BitVec 4) : List Nat := (List.range 4).filter (fun ch => mask.getLsbD ch)

theorem mem_named {mask : BitVec 4} {i : Nat} : i ∈ named mask ↔ i < 4 ∧ mask.getLsbD i = true := by
  simp [named]

/-- The last commands of the channels named. -/
def lastCommands (k : Core) (mask : BitVec 4) : List (Nat × BitVec 32) :=
  (named mask).filterMap (fun ch => (k.chan ch).queue.getLast?.map (fun q => (ch, q.id)))

theorem exec_qfence (p : Pos) (mask : BitVec 4) (s : State) : exec (.qfence p mask) s
    = .next ({ s with core := (named mask).foldl (joinAll (lastCommands s.core mask)) s.core } : State).ran := rfl

theorem qfence_joins (p : Pos) (mask : BitVec 4) (s : State) :
    ∃ t, exec (.qfence p mask) s = .next t ∧ t.sig = .ran ∧ t.ctx = s.ctx ∧ t.mem = s.mem
      ∧ (∀ i j : Nat, i < 4 → j < 4 → mask.getLsbD i = true → mask.getLsbD j = true →
          ∀ q, (s.core.chan j).queue.getLast? = some q → (j, q.id) ∈ (t.core.chan i).joins)
      ∧ (∀ i : Nat, i < 4 → mask.getLsbD i = false → t.core.chan i = s.core.chan i) := by
  refine ⟨_, exec_qfence p mask s, rfl, rfl, rfl, fun i j hi hj hin hjn q hq => ?_, fun i _ hi => ?_⟩
  · have hlast : (j, q.id) ∈ lastCommands s.core mask :=
      List.mem_filterMap.2 ⟨j, mem_named.2 ⟨hj, hjn⟩, by rw [hq]; rfl⟩
    exact joins_of_mem hi (mem_named.2 ⟨hi, hin⟩) s.core hlast
  · exact chan_joinAll_other _ (fun h => ne_true_of_eq_false hi (mem_named.1 h).2) s.core

theorem pbinv_drops {p : Pos} {a : BitVec 5} {s : State} (ha : p.bypA = true ∨ PlainReg a) :
    ∃ t, exec (.pbinv p a) s = .next t ∧ t.sig = .ran ∧ t.ctx = s.ctx ∧ t.mem = s.mem
      ∧ ∀ e, e ∈ t.core.pblk ↔ e ∈ s.core.pblk ∧ ¬ (e.1 = s.ctx.launch ∧ e.2.1 = (s.source p.bypA a).toNat) := by
  refine ⟨_, finish_ok ((bind_ok (readS_plain ha)).trans rfl), rfl, rfl, rfl, fun e => ?_⟩
  simp only [ran_core, List.mem_filter, Bool.not_eq_true', ← Bool.not_eq_true, Bool.and_eq_true, beq_iff_eq]

theorem channelWaitsAndFencesComplete : ChannelWaitsAndFencesComplete := by
  intro p a ch mask s ha x c
  refine ⟨fun hheld hnone => finish_ok (ecan_cancels hheld hnone), fun q rest hq hby hact hheld => ?_,
    fun q rest o hq hby hact hflt hcal ho hans => ?_, twait_ends ch ha, twait_waits ch ha, twaitn_ends ch ha, twaitn_waits ch ha,
    qfence_joins p mask s, pbinv_drops ha⟩
  · obtain ⟨g, hg, hs⟩ := ecan_halts_held hq hby hact hheld
    exact hs ▸ finish_send hg
  · obtain ⟨g, hg, hs⟩ := ecan_halts_unanswered hq hby hact hflt hcal ho hans
    exact hs ▸ finish_send hg

/-! ## The chamber bus -/

theorem nearScratch_open {s : State} {ea n : Nat} (h : NearScratch s ea n) : s.closed = false := by
  obtain ⟨-, -, -, -, hopen, -⟩ := h
  exact hopen

theorem busAddr_own {s : State} {a : Word} (hal : a.toNat % 256 = 0) (h : NearScratch s a.toNat 256) (write : Bool) :
    busAddr a write s = .ok (a.toNat % 2 ^ 21, s) := by
  obtain ⟨-, -, hlow, hcore, -, hgran⟩ := h
  exact (bind_ok (alignTo_ok hal s)).trans (if_pos ⟨Nat.div_eq_of_lt hlow, hcore, hgran⟩)

theorem busAddr_misaligned {a : Word} (h : a.toNat % 256 ≠ 0) (write : Bool) (s : State) :
    busAddr a write s = .error (.trap ⟨cAlign, a, 7⟩) := by
  have h' := bind_stop (f := fun _ : Unit => fun s : State =>
    if a.toNat / 2 ^ 24 = 0 ∧ a.toNat / 2 ^ 21 % 8 = s.ctx.core % 8 ∧ s.inGranules s.ctx.launch s.ctx.core (a.toNat % 2 ^ 21) 256
    then .ok (a.toNat % 2 ^ 21, s) else .error (.trap ⟨cProtect, a, w64 (4 + wbit write)⟩)) (alignTo_bad (code := 7) h s)
  rw [w64_toNat] at h'
  exact h'

theorem busSend_scr (s : State) (n : Nat) (bs : List Byte) : (s.busSend n bs).scr = s.scr := (setCore_same ..).2.1

/-- Sending leaves the scratchpad alone, so every core is sent the bytes that the first one is. -/
theorem busSends_same_bytes (key : Nat) (l : List Nat) (s : State) :
    l.foldl (fun t n => t.busSend n (memGetN t.scr key 256)) s = l.foldl (fun t n => t.busSend n (memGetN s.scr key 256)) s := by
  induction l generalizing s with
  | nil => rfl
  | cons n t ih => rw [List.foldl_cons, List.foldl_cons, ih, busSend_scr]

/-- A single arrival is captured whole (R220). -/
theorem blatchM_captures {s : State} {e : BusData} (off : Nat) (hone : s.core.bus.filter (fun e => e.here s.now s.ctx) = [e]) :
    ∃ t, blatchM off s = .ok ((), t) ∧ t.core.later = (Stored s off e.bytes).core.later ∧ t.scr = s.scr ∧ t.mem = s.mem := by
  obtain ⟨t, ht, ⟨hmem, hscr, -, -⟩, hlater⟩ := storeOwn_spec off e.bytes { s with
    core := { s.core with bus := s.core.bus.filter (fun x => !x.here s.now s.ctx) }, ctx := s.ctx.count 10 0 }
  exact ⟨t, by rw [blatchM, hone]; exact ht, hlater, hscr, hmem⟩

section
variable {p : Pos} {a b : BitVec 5} {s : State} (ha : p.bypA = true ∨ PlainReg a)
include ha

section
variable (hal : (s.source p.bypA a).toNat % 256 = 0) (hnear : NearScratch s (s.source p.bypA a).toNat 256)
include hal hnear

theorem bcast_sends (hb : p.bypB = true ∨ PlainReg b) {g : Group} (hs : s.settled false = true)
    (hg : s.groupOf (s.source p.bypB b) = some g)
    (hclean : s.scrPoisoned s.ctx.core ((s.source p.bypA a).toNat % 2 ^ 21) 256 = none) :
    exec (.bcast p a b) s = .next ((s.busTargets g).foldl (fun t n =>
      t.busSend n (memGetN t.scr (scrKey s.ctx.core ((s.source p.bypA a).toNat % 2 ^ 21)) 256)) s).ran := by
  have hopen := nearScratch_open hnear
  refine finish_ok ((bind_ok (settle_ok hs)).trans ((bind_ok (readS_plain ha)).trans ((bind_ok (readS_plain hb)).trans
    ((bind_ok (busAddr_own hal hnear _)).trans ?_))))
  rw [busSends_same_bytes]
  simp only [hg, hopen, loadScr, hclean, Bool.false_eq_true, if_false]
  rfl

theorem blatch_misses (hnone : s.core.bus.filter (fun e => e.here s.now s.ctx) = []) : exec (.blatch p a) s = .next s.ran := by
  refine finish_ok ((bind_ok (readS_plain ha)).trans ((bind_ok (busAddr_own hal hnear _)).trans ?_))
  rw [if_neg (ne_true_of_eq_false (nearScratch_open hnear)), blatchM, hnone]

theorem blatch_captures {e : BusData} (hone : s.core.bus.filter (fun e => e.here s.now s.ctx) = [e]) :
    ∃ t, exec (.blatch p a) s = .next t ∧ t.sig = .ran
      ∧ t.core.later = (Stored s ((s.source p.bypA a).toNat % 2 ^ 21) e.bytes).core.later ∧ t.scr = s.scr ∧ t.mem = s.mem := by
  obtain ⟨t, ht, hlater, hscr, hmem⟩ := blatchM_captures ((s.source p.bypA a).toNat % 2 ^ 21) hone
  exact ⟨t.ran, finish_ok ((bind_ok (readS_plain ha)).trans ((bind_ok (busAddr_own hal hnear _)).trans
    ((if_neg (ne_true_of_eq_false (nearScratch_open hnear))).trans ht))), rfl, hlater, hscr, hmem⟩

end

theorem blatch_misaligned (h : (s.source p.bypA a).toNat % 256 ≠ 0) :
    exec (.blatch p a) s = .next (s.traps p ⟨cAlign, s.source p.bypA a, 7⟩) :=
  finish_trap ((bind_ok (readS_plain ha)).trans (bind_stop (busAddr_misaligned h ..)))

theorem bcast_misaligned (hb : p.bypB = true ∨ PlainReg b) (h : (s.source p.bypA a).toNat % 256 ≠ 0) (hs : s.settled false = true) :
    exec (.bcast p a b) s = .next (s.traps p ⟨cAlign, s.source p.bypA a, 7⟩) :=
  finish_trap ((bind_ok (settle_ok hs)).trans ((bind_ok (readS_plain ha)).trans ((bind_ok (readS_plain hb)).trans
    (bind_stop (busAddr_misaligned h ..)))))

end

theorem busSendsAndLatchesMoveBlocks : BusSendsAndLatchesMoveBlocks := by
  intro p a b s g ha hb x off key
  exact ⟨fun hal hnear => ⟨fun hs hg hclean => bcast_sends ha hal hnear hb hs hg hclean, blatch_misses ha hal hnear,
      fun _ hone => blatch_captures ha hal hnear hone⟩,
    fun h => ⟨blatch_misaligned ha h, bcast_misaligned ha hb h⟩⟩

/-- Settles O38: each wait, cancel and fence of the channels on its own, then the chamber bus. -/
theorem channelWaitsFencesAndBusComplete : Obligations.ChannelWaitsFencesAndBusComplete :=
  ⟨channelWaitsAndFencesComplete, busSendsAndLatchesMoveBlocks⟩

end Sys2Proof.Laws.Ordering
end

section
/-! Copy channels start, complete, stop at a fault and resume (spec/06 R124; spec/11 R210, R213, R219). -/

namespace Sys2Proof.Laws.Ordering
open Sys2Proof Sys2Proof.Machine

/-! ## Starting -/

theorem startChan_ready {k : Core} {now ch : Nat} {q : Command} {rest : List Command} (hq : (k.chan ch).queue = q :: rest)
    (hact : (k.chan ch).active = false) (hflt : (k.chan ch).flt = false) (hjoin : k.joined q = true) :
    k.startChan now ch = k.setChan ch
      { k.chan ch with active := true, count := 0, off := 0, issued := 0, readyAt := now + 4, last := q.regs } := by
  simp [Core.startChan, hq, hact, hflt, hjoin]

/-- A change of one channel that keeps its commands keeps those of every channel. -/
theorem setChan_queue {k : Core} {ch : Nat} {c : Channel} (hc : c.queue = (k.chan ch).queue) (i : Nat) :
    ((k.setChan ch c).chan i).queue = (k.chan i).queue := by
  by_cases hi : i = ch
  · subst hi
    by_cases h4 : i < 4
    · rw [chan_setChan_same h4, hc]
    · simp [Core.setChan, Core.chan, Vector.getD, h4]
  · rw [chan_setChan_other hi]

theorem startChan_queue (k : Core) (now ch i : Nat) : ((k.startChan now ch).chan i).queue = (k.chan i).queue := by
  unfold Core.startChan
  dsimp only
  split
  · split
    · rfl
    · exact setChan_queue (by rfl) i
  · rfl

/-- Changes that keep a channel's commands, one after another, keep them. -/
theorem foldl_queue {f : Core → Nat → Core} {i : Nat} (h : ∀ k ch, ((f k ch).chan i).queue = (k.chan i).queue) (l : List Nat)
    (k : Core) : ((l.foldl f k).chan i).queue = (k.chan i).queue := by
  induction l generalizing k with
  | nil => rfl
  | cons ch t ih => exact (ih _).trans (h k ch)

/-- Settling joins and starting commands takes no command from a channel. -/
theorem settleChans_queue (k : Core) (now i : Nat) : ((k.settleChans now).chan i).queue = (k.chan i).queue := by
  unfold Core.settleChans
  dsimp only
  rw [foldl_queue (fun k ch => startChan_queue k now ch i), foldl_queue (fun k ch => setChan_queue (by rfl) i)]

/-! ## Completing -/

theorem tagLanded_core (s : State) (g inc : Nat) : (s.tagLanded g inc).core = s.core := by
  unfold State.tagLanded State.mapGroup
  split <;> rfl

theorem tagLanded_same (s : State) (g inc : Nat) : SameMem s (s.tagLanded g inc) := by
  unfold State.tagLanded State.mapGroup
  split
  · exact ⟨rfl, rfl, rfl, rfl⟩
  · exact .refl s

theorem postWord_core (s : State) (l : Nat) (w : Word) : (s.postWord l w).core = s.core := by
  unfold State.postWord State.postFlag
  split
  · rfl
  · split <;> rfl

/-- What a command's completion does beside its channel: its tagged send is counted down and its post made (R210, R223). -/
def commandEnded (s : State) (q : Command) : State :=
  let s := if bitAt q.regs.cmd 25 then s.tagLanded (bits q.regs.step 7 0) (bits q.regs.step 23 8) else s
  if bitAt q.regs.cmd 24 then s.postWord q.launch q.regs.post else s

theorem commandEnded_core (s : State) (q : Command) : (commandEnded s q).core = s.core := by
  unfold commandEnded
  dsimp only
  split
  · rw [postWord_core]
    split
    · exact tagLanded_core ..
    · rfl
  · split
    · exact tagLanded_core ..
    · rfl

theorem commandEnded_same (s : State) (q : Command) : SameMem s (commandEnded s q) :=
  (SameMem.ite (tagLanded_same ..) (.refl _)).trans (.ite (postWord_same ..) (.refl _))

theorem withCore_same (s : State) (k : Core) : SameMem s { s with core := k } := ⟨rfl, rfl, rfl, rfl⟩

/-- The channel's command is gone, and the channel stands idle. -/
def poppedChannel (c : Channel) (rest : List Command) : Channel :=
  { c with queue := rest, active := false, flt := false, offered := false, count := 0, off := 0, issued := 0, halting := false }

section
variable {s : State} {ch : Nat} {q : Command} {rest : List Command} (hq : (s.core.chan ch).queue = q :: rest)
include hq

theorem copyDone_ended : s.copyDone ch = commandEnded { s with
    core := (s.core.setChan ch (poppedChannel (s.core.chan ch) rest)).settleChans s.now } q := by
  simp only [State.copyDone, hq]
  rfl

/-- A command that completes leaves its channel's queue, and no byte changes with it (R210). -/
theorem copyDone_spec (h4 : ch < 4) : ((s.copyDone ch).core.chan ch).queue = rest ∧ SameMem s (s.copyDone ch) := by
  rw [copyDone_ended hq, commandEnded_core]
  refine ⟨?_, (withCore_same s _).trans (commandEnded_same ..)⟩
  rw [settleChans_queue, chan_setChan_same h4]
  rfl

/-- The fault of a channel is that of the elements it comes to (R219). -/
theorem chanFault_stops (hcal : q.regs.cal = false) (hstop : ((s.copyAll ch).core.chan ch).flt = true) :
    s.chanFault ch = s.copyAll ch := by
  simp only [State.chanFault, hq, hcal, hstop, Bool.false_eq_true, if_false, if_true]

section
variable (hact : (s.core.chan ch).active = true) (hflt : (s.core.chan ch).flt = false)
include hact hflt

theorem copyAll_empty (hempty : q.regs.empty = true) : s.copyAll ch = s.copyDone ch := by
  simp [State.copyAll, State.copyWork, hq, hact, hflt, hempty]

section
variable {u : State} (hsome : q.regs.empty = false) (hcal : q.regs.cal = false)
include hsome hcal

/-- A command whose elements are all performed, with nothing of it on its way, completes (R210, R223). -/
theorem copyAll_performed
    (hrun : State.copyRun (q.who s.core.id ch) (s.core.id / 8) ch q.regs q.regs.elements s = (u, none))
    (hcount : q.regs.total ≤ (u.core.chan ch).count) (hpend : u.chanPending ch = false) : s.copyAll ch = u.copyDone ch := by
  simp [State.copyAll, State.copyWork, hq, hact, hflt, hsome, hcal, hrun, hcount, hpend]

/-- A faulting element stops the channel on what came before it (R219). -/
theorem copyAll_faults {r : TrapReq} {log : State → State}
    (hrun : State.copyRun (q.who s.core.id ch) (s.core.id / 8) ch q.regs q.regs.elements s = (u, some (.fault r log))) :
    s.copyAll ch = ((log u).engForget (q.who s.core.id ch)).copyFault ch r := by
  simp [State.copyAll, State.copyWork, hq, hact, hflt, hsome, hcal, hrun]

end

end

end

/-! ## Stopping -/

/-- The fault word holds the cause in its low byte and the detail's low byte above (R219). -/
theorem faultWord_cause (r : TrapReq) : bits (w64 (r.cause.toNat + 2 ^ 8 * bits r.detail 7 0)) 7 0 = r.cause.toNat := by
  have hc : r.cause.toNat < 256 := r.cause.isLt
  simp only [bits, w64, BitVec.toNat_ofNat]
  omega

/-- A channel stopped by a fault holds its cause and address, and a page fault is offered to the firmware (R219). -/
theorem copyFault_spec {s : State} {ch : Nat} (h4 : ch < 4) (r : TrapReq) :
    let c := (s.copyFault ch r).core.chan ch
    c.flt = true ∧ c.faddr = r.taddr ∧ c.offered = (r.cause == cPage) ∧ bits c.fault 7 0 = r.cause.toNat := by
  simp only [State.copyFault, State.setChan, chan_setChan_same h4, faultWord_cause, and_self]

/-- Settles O51: each step of a command by the equation of the shared operation that performs it. -/
theorem copyChannelsStartCompleteAndStop : Obligations.CopyChannelsStartCompleteAndStop := by
  intro s ch c
  have h4 : ch.toNat < 4 := ch.isLt
  refine ⟨fun hflt => ?_, fun q rest hq hact hflt hjoin => ?_, fun q rest hq hact hflt hempty => ?_,
    fun q rest u hq hact hflt hsome hcal hrun hcount hpend hqu => ?_, fun q rest u r log hq hact hflt hsome hcal hrun => ?_⟩
  · exact congrArg Host.Outcome.next (if_pos hflt)
  · have hstart := startChan_ready (now := s.now) hq hact hflt (List.all_eq_true.2 hjoin)
    exact congrArg (fun k => Host.Outcome.next { s with core := k }) hstart
  · obtain ⟨hrest, hmem, hscr, -, -⟩ := copyDone_spec hq h4
    exact ⟨_, congrArg Host.Outcome.next (copyAll_empty hq hact hflt hempty), hrest, hmem, hscr⟩
  · obtain ⟨hrest, hmem, hscr, -, -⟩ := copyDone_spec hqu h4
    have hall := copyAll_performed hq hact hflt hsome hcal hrun hcount hpend
    exact ⟨_, congrArg Host.Outcome.next hall, hrest, hmem, hscr⟩
  · have hall := copyAll_faults hq hact hflt hsome hcal hrun
    have hstop := copyFault_spec (s := (log u).engForget (q.who s.core.id ch.toNat)) h4 r
    exact ⟨_, congrArg Host.Outcome.next ((chanFault_stops hq hcal (by rw [hall]; exact hstop.1)).trans hall), hstop⟩

end Sys2Proof.Laws.Ordering
end

section
/-! SUPPORT. What the shared steps of the sync slot do: conditional traps, results on their way, the post queue (spec/08 R163
to R167). -/

namespace Sys2Proof.Laws.Sync
open Sys2Proof Sys2Proof.Machine

/-! ## Conditions -/

theorem trapIf_go {b : Bool} (h : b = false) (c : BitVec 8) (a d : Word) (s : State) : trapIf b c a d s = .ok ((), s) := by
  rw [h, trapIf_false, pure_run]

theorem trapIf_stop {b : Bool} (h : b = true) (c : BitVec 8) (a d : Word) (s : State) :
    trapIf b c a d s = .error (.trap ⟨c, a, d⟩) := by
  rw [h, trapIf_true, trapM_run]

/-! ## Results -/

@[simp] theorem sent_f (s : State) (p : Pos) (lat : Nat) (d : BitVec 5) (w : Word) : (s.sent p lat d w).ctx.f = s.ctx.f := by
  unfold State.sent; split <;> rfl

@[simp] theorem sent_groups (s : State) (p : Pos) (lat : Nat) (d : BitVec 5) (w : Word) :
    (s.sent p lat d w).groups = s.groups := by
  unfold State.sent; split <;> rfl

/-! ## The post queue -/

/-- The state with a post at the end of the focus context's queue. -/
def queued (q : Post) (s : State) : State := { s with ctx := { s.ctx with posts := s.ctx.posts ++ [q] } }

theorem queuePost_room {s : State} (h : s.ctx.posts.length < 8) (q : Post) : queuePost q s = .ok ((), queued q s) :=
  if_neg (Nat.not_le.2 h)

theorem queuePost_full {s : State} (h : 8 ≤ s.ctx.posts.length) (q : Post) : queuePost q s = .error (.wait .postQueue) := if_pos h

end Sys2Proof.Laws.Sync
end

section
/-! Flags count, posts queue and are delivered (spec/08 R163 to R167). -/

namespace Sys2Proof.Laws.Sync
open Sys2Proof Sys2Proof.Machine

/-! ## WAITF and FTEST -/

section
variable (p : Pos) {d f : BitVec 5} {n : BitVec 16} {s : State}

theorem waitf_takes (h : n.toNat ≤ s.ctx.flag f) :
    exec (.waitf p f n) s = .next ({ s with ctx := s.ctx.takeFlag f n.toNat } : State).ran := by
  refine finish_ok ((bind_ok (getCtx_run s)).trans ?_)
  rw [decide_eq_false (Nat.not_lt.2 h), waitIf_false]
  rfl

theorem waitf_waits (h : s.ctx.flag f < n.toNat) : exec (.waitf p f n) s = .next (s.waits .flag) := by
  refine finish_wait ((bind_ok (getCtx_run s)).trans (bind_stop ?_))
  rw [decide_eq_true h, waitIf_true, waitM_run]

/-- FTEST of a flag that is high enough sends 1 and takes n (R167). -/
theorem ftest_takes (hd : PlainReg d) (h : n.toNat ≤ s.ctx.flag f) : ∃ t, exec (.ftest p d f n) s = .next t ∧ t.sig = .ran
    ∧ t.ctx.infl = (s.sent p 1 d 1).ctx.infl ∧ t.ctx.f = (s.ctx.takeFlag f n.toNat).f := by
  refine ⟨State.ran { s.sent p 1 d 1 with ctx := (s.sent p 1 d 1).ctx.takeFlag f n.toNat },
    finish_ok ((bind_ok (getCtx_run s)).trans ?_), rfl, rfl, ?_⟩
  · simp only [decide_eq_true h]
    exact bind_ok (writeS_plain hd)
  · simp [Ctx.takeFlag, Ctx.flag]

theorem ftest_keeps (hd : PlainReg d) (h : s.ctx.flag f < n.toNat) : exec (.ftest p d f n) s = .next (s.sent p 1 d 0).ran := by
  refine finish_ok ((bind_ok (getCtx_run s)).trans ?_)
  simp only [decide_eq_false (Nat.not_le.2 h)]
  exact bind_ok (writeS_plain hd)

end

/-! ## POSTF and POSTR -/

/-- A target word that POSTR accepts: its reserved bits are zero, a launch is named only by a cross-launch post, and the core exists
(R165). -/
def GoodTarget (x : Word) : Prop := bits x 63 41 = 0 ∧ (bitAt x 40 = true ∨ bits x 39 8 = 0) ∧ bits x 7 0 < 216

theorem target_refused_iff (x : Word) :
    (bits x 63 41 != 0 || (!bitAt x 40 && bits x 39 8 != 0) || decide (216 ≤ bits x 7 0)) = false ↔ GoodTarget x := by
  simp [GoodTarget, and_assoc, Classical.or_iff_not_imp_left]

section
variable {p : Pos} {f a : BitVec 5} {n : BitVec 16} {s : State} (ha : p.bypA = true ∨ PlainReg a)
include ha

theorem postr_queues (h : GoodTarget (s.source p.bypA a)) (hroom : s.ctx.posts.length < 8) : exec (.postr p f a n) s
    = .next (queued (.remote f.toNat n.toNat (s.source p.bypA a)) s).ran :=
  finish_ok ((bind_ok (readS_plain ha)).trans
    ((bind_ok (trapIf_go ((target_refused_iff _).2 h) ..)).trans (queuePost_room hroom _)))

theorem postr_traps (h : ¬ GoodTarget (s.source p.bypA a)) : exec (.postr p f a n) s
    = .next (s.traps p ⟨cProtect, s.source p.bypA a, 0x10⟩) :=
  finish_trap ((bind_ok (readS_plain ha)).trans
    (bind_stop (trapIf_stop (eq_true_of_ne_false (mt (target_refused_iff _).1 h)) ..)))

end

theorem flagsCountAndPostsQueue : FlagsCountAndPostsQueue := by
  intro p f d a n s hd ha
  exact ⟨waitf_takes p, waitf_waits p, ftest_takes p hd, ftest_keeps p hd, fun h => finish_ok (queuePost_room h _),
    fun h => finish_wait (queuePost_full h _), postr_queues ha, postr_traps ha⟩

/-! ## Delivery -/

/-- A post to the context's own flags at the head of the queue is the next one released (R166). -/
theorem nextPost_own (launch core f n : Nat) (rest : List Post) :
    nextPost launch core (.own f n :: rest) = some (.own f n, rest) := by
  simp [nextPost, Post.elsewhere, Post.isOwn]

theorem satFlag_toNat (f : BitVec 16) (n : Nat) : (satFlag f n).toNat = Nat.min 65535 (f.toNat + n) := by
  simp only [satFlag, BitVec.toNat_ofNat, Nat.min_def]
  split <;> split <;> omega

theorem addFlag_same {c : Ctx} {f : Nat} (hf : f < 32) (n : Nat) : (c.addFlag f n).f.getD f 0 = satFlag (c.f.getD f 0) n := by
  simp [Ctx.addFlag, Vector.getD, hf]

theorem addFlag_other {c : Ctx} {f k : Nat} (hk : k ≠ f) (n : Nat) : (c.addFlag f n).f.getD k 0 = c.f.getD k 0 := by
  simp [Ctx.addFlag, Vector.getD, Ne.symm hk]

theorem postDelivery_own {s : State} {f n : Nat} {rest : List Post} (hs : s.settled false = true)
    (hposts : s.ctx.posts = .own f n :: rest) :
    s.postDelivery = { s with ctx := ({ s.ctx with posts := rest } : Ctx).addFlag f n } := by
  simp only [State.postDelivery, hs, hposts, nextPost_own]
  rfl

theorem deliveredPostAddsToTheFlag : DeliveredPostAddsToTheFlag := by
  intro s f n rest hs hposts hf
  refine ⟨_, congrArg Host.Outcome.next (postDelivery_own hs hposts), rfl, ?_, fun k hk => addFlag_other hk n, rfl⟩
  rw [addFlag_same hf, satFlag_toNat]

/-- Settles O22: the flags and posts at their instructions, then the delivery of a post. -/
theorem flagsCountAndPostsAreDelivered : Obligations.FlagsCountAndPostsAreDelivered :=
  ⟨flagsCountAndPostsQueue, deliveredPostAddsToTheFlag⟩

end Sys2Proof.Laws.Sync
end

section
/-! Groups are made, joined and left, and BARG asks about them (spec/08 R168 to R176). -/

namespace Sys2Proof.Laws.Sync
open Sys2Proof Sys2Proof.Machine Sys2Proof.Laws.Ordering

/-! ## The completion check -/

/-- Checking for completion leaves who the group is and what its record says. -/
theorem check_keeps (g : Group) : g.check.index = g.index ∧ g.check.inc = g.inc ∧ g.check.live = g.live
    ∧ g.check.quorum = g.quorum := by
  unfold Group.check
  dsimp only
  split <;> exact ⟨rfl, rfl, rfl, rfl⟩

/-! ## GNEW at the hub -/

/-- A live group under the quorum and the admission of a record's word w, checked again for completion (R170). -/
def renewedGroup (w : Word) (g : Group) : Group :=
  ({ g with quorum := bits w 9 0, who := BitVec.ofNat 2 (bits w 11 10) }).check

theorem renewedGroup_keeps (w : Word) (g : Group) : (renewedGroup w g).index = g.index ∧ (renewedGroup w g).inc = g.inc
    ∧ (renewedGroup w g).live = g.live ∧ (renewedGroup w g).quorum = bits w 9 0 :=
  check_keeps _

section
variable {s : State} {key : Nat}

section
variable {g : Group} (hg : s.groups.find? (fun g => g.live && g.recAt == key) = some g)
include hg

theorem found_live : g.live = true := by
  have hfound := List.find?_some hg
  exact (Bool.and_eq_true_iff.1 hfound).1

/-- A live group of the caller's reach gives its handle, and the record sets its quorum (R170). -/
theorem gnewAt_finds (va w : Word) (hin : g.admits s.ctx.launch s.ctx.agency = true) :
    gnewAt va w key s = .ok (g.handle, s.setGroup (renewedGroup w g)) := by
  simp only [gnewAt, hg, hin, Bool.not_true, Bool.false_eq_true, if_false]
  rfl

/-- The group found stands in the state under its number and incarnation, with the record's quorum. -/
theorem renewedGroup_mem (w : Word) : ∃ x ∈ (s.setGroup (renewedGroup w g)).groups,
    x.index = g.index ∧ x.inc = g.inc ∧ x.live = true ∧ x.quorum = bits w 9 0 := by
  obtain ⟨hindex, hinc, hlive, hquorum⟩ := renewedGroup_keeps w g
  exact ⟨_, List.mem_cons_self .., hindex, hinc, hlive.trans (found_live hg), hquorum⟩

theorem gnewAt_refuses (va w : Word) (hout : g.admits s.ctx.launch s.ctx.agency = false) :
    gnewAt va w key s = .error (.trap ⟨cProtect, va, 0x10⟩) := by
  simp only [gnewAt, hg, hout, Bool.not_false, if_true]

end

/-- The next incarnation of object k: 1 for the first group made on it (R170, log 6, DESIGN CHOICE). -/
def nextInc (s : State) (k : Nat) : Nat :=
  match s.groups.find? (fun g => g.index == k) with
  | some g => g.inc % 65535 + 1
  | none => 1

theorem nextInc_first {s : State} {k : Nat} (h : s.groups.find? (fun g => g.index == k) = none) : nextInc s k = 1 := by
  simp only [nextInc, h]

theorem nextInc_again {s : State} {k : Nat} {g : Group} (h : s.groups.find? (fun g => g.index == k) = some g) :
    nextInc s k = g.inc % 65535 + 1 := by
  simp only [nextInc, h]

/-- The group that GNEW makes on object k for a record with word w at key (R170). -/
def madeGroup (s : State) (w : Word) (key k : Nat) : Group :=
  { index := k, live := true, inc := nextInc s k, recAt := key, agency := s.ctx.agency, launch := s.ctx.launch,
    who := BitVec.ofNat 2 (bits w 11 10), quorum := bits w 9 0, gen := 0, sends := 0, joined := false, members := [] }

/-- A handle's low byte is the group's number (R168). -/
theorem handle_index (g : Group) : bits g.handle 7 0 = g.index % 256 := by
  simp only [bits, Group.handle, w64, BitVec.toNat_ofNat]
  omega

section
variable (hnone : s.groups.find? (fun g => g.live && g.recAt == key) = none)
include hnone

theorem gnewAt_makes {k : Nat} (hk : s.freeGroup = some k) (va w : Word) :
    gnewAt va w key s = .ok ((madeGroup s w key k).handle, s.setGroup (madeGroup s w key k)) := by
  simp only [gnewAt, hnone, hk]
  rfl

theorem gnewAt_full (hk : s.freeGroup = none) (va w : Word) : gnewAt va w key s = .ok (0, s) := by
  simp only [gnewAt, hnone, hk]

end

end

/-! ## GNEW -/

/-- A late answer's clock changes neither the groups nor what a result in flight will be (R88). -/
theorem lateData_keeps (lat : Nat) (s : State) : ∃ t, lateData lat true s = .ok ((), t) ∧ t.groups = s.groups
    ∧ ∀ p n d w, (t.sent p n d w).ctx.infl = (s.sent p n d w).ctx.infl := by
  refine ⟨_, rfl, rfl, fun p n d w => ?_⟩
  unfold State.sent
  split <;> rfl

section
variable {p : Pos} {a : BitVec 5} {s s1 s2 : State} {pa key : Nat} {ws : List Word} (ha : p.bypA = true ∨ PlainReg a)
  (hc : s.closed = false) (hhome : objHome (s.source p.bypA a).toNat s = .ok (.here pa, s1))
  (hread : grRead (s.source p.bypA a).toNat (.here pa) s1 = .ok ((ws, key), s2))
include ha hc hhome hread

/-- GNEW of a record of this package comes to the record's check with the record read. -/
theorem gnew_reads (k : Word → List Word × Nat → M Unit) : (do
      let o ← readS p 1 p.bypA a
      needL1
      let h ← objHome o.toNat
      let x ← grRead o.toNat h
      k o x : M Unit) s = k (s.source p.bypA a) (ws, key) s2 :=
  (bind_ok (readS_plain ha)).trans ((bind_ok (needL1_open hc)).trans ((bind_ok hhome).trans (bind_ok hread)))

theorem gnew_invalid (d : BitVec 5) (h : grValid ws = false) :
    exec (.gnew p d a) s = .next (s.traps p ⟨cFormat, s.source p.bypA a, 0⟩) :=
  finish_trap ((gnew_reads ha hc hhome hread _).trans (bind_stop (trapIf_stop (by rw [h]; rfl) ..)))

section
variable (hvalid : grValid ws = true)
include hvalid

/-- GNEW sends the hub's answer to its destination (R170). -/
theorem gnew_answers {d : BitVec 5} (hd : PlainReg d) {s3 : State} {v : Word}
    (h : gnewAt (s.source p.bypA a) (ws.getD 0 0) key s2 = .ok (v, s3)) : ∃ t, exec (.gnew p d a) s = .next t
      ∧ t.sig = .ran ∧ t.groups = s3.groups ∧ t.ctx.infl = (s3.sent p 1 d v).ctx.infl := by
  obtain ⟨t, ht, hgroups, hinfl⟩ := lateData_keeps 1 s3
  exact ⟨(t.sent p 1 d v).ran, finish_ok ((gnew_reads ha hc hhome hread _).trans
    ((bind_ok (trapIf_go (by rw [hvalid]; rfl) ..)).trans ((bind_ok h).trans ((bind_ok ht).trans (writeS_plain hd))))), rfl,
    (sent_groups ..).trans hgroups, hinfl ..⟩

theorem gnew_refuses (d : BitVec 5) {g : Group} (hg : s2.groups.find? (fun g => g.live && g.recAt == key) = some g)
    (hout : g.admits s2.ctx.launch s2.ctx.agency = false) :
    exec (.gnew p d a) s = .next (s.traps p ⟨cProtect, s.source p.bypA a, 0x10⟩) :=
  finish_trap ((gnew_reads ha hc hhome hread _).trans ((bind_ok (trapIf_go (by rw [hvalid]; rfl) ..)).trans
    (bind_stop (gnewAt_refuses hg _ _ hout))))

end

end

theorem gnewMakesOrFindsTheGroup : GnewMakesOrFindsTheGroup := by
  intro p d a s s1 s2 s3 pa key ws ha hd o hc hhome hread
  exact ⟨gnew_invalid ha hc hhome hread d, fun hvalid v h => gnew_answers ha hc hhome hread hvalid hd h,
    fun g hg => ⟨fun hin => ⟨_, gnewAt_finds hg _ _ hin, renewedGroup_mem hg _⟩,
      fun hvalid hout => gnew_refuses ha hc hhome hread hvalid d hg hout⟩,
    fun k hnone hk => ⟨_, _, gnewAt_makes hnone hk _ _, handle_index _, _, List.mem_cons_self .., rfl, rfl, rfl, rfl, rfl, rfl,
      rfl, rfl, nextInc_first, fun _ => nextInc_again⟩,
    fun hnone hk => gnewAt_full hnone hk _ _⟩

/-! ## Operations under a handle -/

theorem handleGroup_valid {s : State} {h : Word} {g : Group} (hg : s.projected.groupOf h = some g) :
    handleGroup h s = .ok (g, s) := by
  simp only [handleGroup, hg]

theorem handleGroup_invalid {s : State} {h : Word} (hg : s.projected.groupOf h = none) :
    handleGroup h s = .error (.trap ⟨cProtect, h, 0x10⟩) := by
  simp only [handleGroup, hg, badHandle, trapM_run]

section
variable {p : Pos} {a : BitVec 5} {s : State} (ha : p.bypA = true ∨ PlainReg a)
include ha

/-- An operation that begins with its handle's group, under an invalid handle (R168). -/
theorem withHandle_traps (hg : s.projected.groupOf (s.source p.bypA a) = none) (k : Word → Group → M Unit) :
    finish p (do
      let h ← readS p 1 p.bypA a
      let g ← handleGroup h
      k h g) s = .next (s.traps p ⟨cProtect, s.source p.bypA a, 0x10⟩) :=
  finish_trap ((bind_ok (readS_plain ha)).trans (bind_stop (handleGroup_invalid hg)))

section
variable {g : Group} (hg : s.projected.groupOf (s.source p.bypA a) = some g)
include hg

/-- Under a valid handle the operation comes to its checks with the group and the caller's context. -/
theorem withHandle_reads (k : Word → Group → Ctx → M Unit) : (do
      let h ← readS p 1 p.bypA a
      let g ← handleGroup h
      let c ← getCtx
      k h g c : M Unit) s = k (s.source p.bypA a) g s.ctx s :=
  (bind_ok (readS_plain ha)).trans ((bind_ok (handleGroup_valid hg)).trans (bind_ok (getCtx_run s)))

theorem join_queues (hroom : s.ctx.posts.length < 8) (hin : g.admits s.ctx.launch s.ctx.agency = true) :
    exec (.join p a) s = .next (queued (.join g.index g.inc) s).ran :=
  finish_ok ((withHandle_reads ha hg _).trans ((bind_ok (trapIf_go (by rw [hin]; rfl) ..)).trans (queuePost_room hroom _)))

theorem join_refused (hout : g.admits s.ctx.launch s.ctx.agency = false) :
    exec (.join p a) s = .next (s.traps p ⟨cProtect, s.source p.bypA a, 0x10⟩) :=
  finish_trap ((withHandle_reads ha hg _).trans (bind_stop (trapIf_stop (by rw [hout]; rfl) ..)))

theorem leave_of_stranger (hm : g.member s.ctx.launch s.ctx.core = none) :
    exec (.leave p a) s = .next (s.traps p ⟨cProtect, s.source p.bypA a, 0x10⟩) :=
  finish_trap ((withHandle_reads ha hg _).trans (bind_stop (trapIf_stop (by rw [hm]; rfl) ..)))

section
variable {m : Member} (hm : g.member s.ctx.launch s.ctx.core = some m)
include hm

theorem leave_queues (hroom : s.ctx.posts.length < 8) : exec (.leave p a) s = .next (queued (.leave g.index g.inc) s).ran :=
  finish_ok ((withHandle_reads ha hg _).trans ((bind_ok (trapIf_go (by rw [hm]; rfl) ..)).trans (queuePost_room hroom _)))

theorem bara_queues (hroom : s.ctx.posts.length < 8) (hidle : m.bar = .idle) :
    exec (.bara p a) s = .next (queued (.arrive g.index g.inc false) s).ran := by
  refine finish_ok ((withHandle_reads ha hg _).trans ?_)
  simp only [hm, hidle]
  exact queuePost_room hroom _

theorem bara_again {k : Nat} {st : Bool} (harrived : m.bar = .arrived k st) :
    exec (.bara p a) s = .next (s.traps p ⟨cProtect, s.source p.bypA a, 0x10⟩) := by
  refine finish_trap ((withHandle_reads ha hg _).trans ?_)
  simp only [hm, harrived]
  rfl

end

end

/-! ## BARG -/

theorem barg_invalid (d : BitVec 5) (hg : s.groupOf (s.source p.bypA a) = none) :
    exec (.barg p d a) s = .next (s.traps p ⟨cProtect, s.source p.bypA a, 0x10⟩) := by
  refine finish_trap ((bind_ok (readS_plain ha)).trans ?_)
  simp only [hg]
  rfl

theorem barg_answers {d : BitVec 5} (hd : PlainReg d) {g : Group} (hg : s.groupOf (s.source p.bypA a) = some g) :
    exec (.barg p d a) s = .next (s.sent p 1 d (g.barg s.ctx.launch s.ctx.core)).ran := by
  refine finish_ok ((bind_ok (readS_plain ha)).trans ?_)
  simp only [hg]
  exact writeS_plain hd

end

theorem groupOperationsQueueOrTrap : GroupOperationsQueueOrTrap := by
  intro p d a s ha hd h q bad
  exact ⟨fun hg => ⟨withHandle_traps ha hg _, withHandle_traps ha hg _, withHandle_traps ha hg _⟩,
    fun g hg hroom => ⟨join_queues ha hg hroom, join_refused ha hg,
      fun m hm => ⟨leave_queues ha hg hm hroom, bara_queues ha hg hm hroom, fun _ _ => bara_again ha hg hm⟩,
      leave_of_stranger ha hg⟩,
    barg_invalid ha d, fun _ => barg_answers ha hd⟩

/-- Settles O23: GNEW by what the hub answers, then each operation under a handle. -/
theorem groupsAreMadeJoinedAndLeft : Obligations.GroupsAreMadeJoinedAndLeft :=
  ⟨gnewMakesOrFindsTheGroup, groupOperationsQueueOrTrap⟩

end Sys2Proof.Laws.Sync
end

section
/-! A barrier completes with its quorum and ends its waits (spec/08 R173, R174). -/

namespace Sys2Proof.Laws.Sync
open Sys2Proof Sys2Proof.Machine Sys2Proof.Laws.Ordering

/-! ## Completion -/

/-- A generation is due when its quorum is met, every member has arrived in it, and no tagged send holds back a step (R173). -/
def Due (g : Group) : Prop :=
  g.quorum ≤ g.members.length ∧ (∀ m ∈ g.members, m.arrivedIn g.gen = true)
    ∧ ((∀ m ∈ g.members, m.stepped = false) ∨ g.sends = 0)

/-- The group once its generation has completed (R173). -/
def completed (g : Group) : Group :=
  { g with members := g.members.map (fun m => { m with bar := .done g.gen m.stepped }), gen := (g.gen + 1) % 2 ^ 16 }

section
variable {g : Group} (hlive : g.live = true) (hsome : g.members ≠ [])
include hlive hsome

theorem due_iff : (g.live && decide (0 < g.members.length) && decide (g.quorum ≤ g.members.length)
    && g.members.all (fun m => m.arrivedIn g.gen) && (g.members.all (fun m => !m.stepped) || g.sends == 0)) = true ↔ Due g := by
  simp [Due, hlive, List.length_pos_iff.2 hsome, and_assoc]

theorem check_due (h : Due g) : g.check = completed g := if_pos ((due_iff hlive hsome).2 h)

theorem check_not_due (h : ¬ Due g) : g.check = g := if_neg (mt (due_iff hlive hsome).1 h)

end

theorem completed_done {g : Group} {m : Member} (h : m ∈ (completed g).members) : ∃ st, m.bar = .done g.gen st := by
  obtain ⟨x, -, rfl⟩ := List.mem_map.1 h
  exact ⟨x.stepped, rfl⟩

theorem barrierCompletesWithItsQuorum : BarrierCompletesWithItsQuorum := by
  intro g hlive hsome
  refine ⟨fun h => ?_, check_not_due hlive hsome⟩
  rw [check_due hlive hsome h]
  exact ⟨rfl, fun m => completed_done⟩

/-! ## What a STEP waits for -/

theorem asStep_ok {m : M Unit} {s t : State} (h : m s = .ok ((), t)) : asStep m s = .ok ((), t) := by
  simp only [asStep, h]

/-- What a STEP waits for is its own wait (R181). -/
theorem asStep_wait {m : M Unit} {s : State} {k : WaitKind} (h : m s = .error (.wait k)) : asStep m s = .error (.wait .step) := by
  simp only [asStep, h]

/-- How a slot operation ends depends on its answer alone. -/
theorem finish_congr {p : Pos} {m m' : M Unit} {s : State} (h : m s = m' s) : finish p m s = finish p m' s := by
  unfold finish; rw [h]

/-! ## The caller's barrier state -/

section
variable {s : State} {h : Word} {g : Group} {m : Member} (hposts : s.ctx.posts = []) (hg : s.groupOf h = some g)
  (hm : g.member s.ctx.launch s.ctx.core = some m)
include hposts hg hm

/-- With nothing queued a member reads its barrier state (R174). -/
theorem barrierState_member (k : WaitKind) : barrierState k h s = .ok ((g, m.bar), s) := by
  simp [barrierState, hposts, hg, hm]

end

/-- The arrival leaves and the wait begins, a step's behind the write-back of the L1 (R174). -/
theorem sendArrival_sends {s : State} (hposts : s.ctx.posts = []) (k : WaitKind) (g : Group) (step : Bool) :
    ∃ f, sendArrival k g step s = .error (.send k f) ∧ (f s).ctx.stepping = step
      ∧ (f s).ctx.posts.getLast? = some (.arrive g.index g.inc step)
      ∧ (step = false → (f s).ctx.posts = s.ctx.posts ++ [.arrive g.index g.inc step]) := by
  refine ⟨_, if_neg (by simp [hposts]), rfl, List.getLast?_concat .., ?_⟩
  rintro rfl
  rfl

/-! ## BARW -/

section
variable {p : Pos} {a : BitVec 5} {s : State} {g : Group} {m : Member} (ha : p.bypA = true ∨ PlainReg a)
  (hposts : s.ctx.posts = []) (hg : s.groupOf (s.source p.bypA a) = some g) (hm : g.member s.ctx.launch s.ctx.core = some m)
include ha hposts hg hm

/-- BARW and STEP come to their choice with the group and the member's barrier state. -/
theorem barrier_reads (kind : WaitKind) (k : Group × BarState → M Unit) : (do
      let h ← readS p 1 p.bypA a
      let x ← barrierState kind h
      k x : M Unit) s = k (g, m.bar) s :=
  (bind_ok (readS_plain ha)).trans (bind_ok (barrierState_member hposts hg hm kind))

theorem barw_arrives (hbar : m.bar = .idle) : ∃ t, exec (.barw p a) s = .next t ∧ t.sig = .waits .barrier
    ∧ t.ctx.posts = [.arrive g.index g.inc false] := by
  obtain ⟨f, hsend, -, -, hlast⟩ := sendArrival_sends hposts .barrier g false
  refine ⟨(f s).waits .barrier, finish_send ((barrier_reads ha hposts hg hm _ _).trans ?_), rfl, ?_⟩
  · rw [hbar]; exact hsend
  · rw [waits_ctx, hlast rfl, hposts]; rfl

theorem barw_waits {k : Nat} {st : Bool} (hbar : m.bar = .arrived k st) : exec (.barw p a) s = .next (s.waits .barrier) := by
  refine finish_wait ((barrier_reads ha hposts hg hm _ _).trans ?_)
  rw [hbar]; rfl

theorem barw_ends {k : Nat} {st : Bool} (hbar : m.bar = .done k st) (hgen : (k + 1) % 2 ^ 16 = g.gen) : exec (.barw p a) s
    = .next (s.mapGroup g.index g.inc (fun x => x.setBar s.ctx.launch s.ctx.core .idle)).ran := by
  refine finish_ok ((barrier_reads ha hposts hg hm _ _).trans ?_)
  rw [hbar]
  exact congrFun (if_pos (beq_iff_eq.2 hgen)) s

/-! ## STEP -/

section
variable {k : Nat} {st : Bool} (hstep : s.ctx.stepping = true)
include hstep

theorem step_waits (hbar : m.bar = .arrived k st) : exec (.step p a) s = .next (s.waits .step) := by
  refine finish_wait ((barrier_reads ha hposts hg hm _ _).trans ((bind_ok (getCtx_run s)).trans ?_))
  rw [hstep, hbar]; rfl

/-- A STEP whose generation has completed drops the L1, and the member is idle again (R174, log 59, DEDUCED). -/
theorem step_ends (hbar : m.bar = .done k st) (hgen : (k + 1) % 2 ^ 16 = g.gen) (hc : s.closed = false) :
    let u := s.flushCore s.ctx.core (fun _ => true)
    let t := u.mapGroup g.index g.inc (fun x => x.setBar u.ctx.launch u.ctx.core .idle)
    exec (.step p a) s = .next ({ t with ctx := { t.ctx with stepping := false } } : State).ran := by
  refine finish_ok ((barrier_reads ha hposts hg hm _ _).trans ((bind_ok (getCtx_run s)).trans ?_))
  rw [hstep, hbar]
  exact (congrFun (if_pos (beq_iff_eq.2 hgen)) s).trans (bind_ok (asStep_ok (needL1_open hc)))

end

section
variable (hfresh : s.ctx.stepping = false ∨ m.bar = .idle)
include hfresh

/-- A STEP that has not arrived itself comes to its fence, whatever state BARA or BARW left the member in (R174). -/
theorem step_fences : exec (.step p a) s = finish p (stepArrive g) s := by
  refine finish_congr ((barrier_reads ha hposts hg hm _ _).trans ((bind_ok (getCtx_run s)).trans ?_))
  cases hstep : s.ctx.stepping with
  | false => rfl
  | true =>
    have hidle : m.bar = .idle := hfresh.resolve_left (by rw [hstep]; exact Bool.noConfusion)
    rw [hidle]

theorem step_arrives (hs : s.settled false = true) (hc : s.closed = false) : ∃ t, exec (.step p a) s = .next t
    ∧ t.sig = .waits .step ∧ t.ctx.stepping = true ∧ t.ctx.posts.getLast? = some (.arrive g.index g.inc true) := by
  rw [step_fences ha hposts hg hm hfresh]
  obtain ⟨f, hsend, hstepping, hlast, -⟩ := sendArrival_sends hposts .step g true
  exact ⟨(f s).waits .step, finish_send ((bind_ok (asStep_ok (settle_ok hs))).trans
    ((bind_ok (asStep_ok (needL1_open hc))).trans hsend)), rfl, hstepping, hlast⟩

theorem step_drains (hs : s.settled false = false) : exec (.step p a) s = .next (s.waits .step) := by
  rw [step_fences ha hposts hg hm hfresh]
  exact finish_wait (bind_stop (asStep_wait (settle_wait hs)))

end

end

theorem barrierWaitsEndWithTheGeneration : BarrierWaitsEndWithTheGeneration := by
  intro p a s g m ha h hposts hg hm idle
  exact ⟨barw_arrives ha hposts hg hm, fun _ _ => barw_waits ha hposts hg hm, fun _ _ => barw_ends ha hposts hg hm,
    fun _ _ hbar hstep => step_ends ha hposts hg hm hstep hbar, fun _ _ hbar hstep => step_waits ha hposts hg hm hstep hbar,
    step_arrives ha hposts hg hm, step_drains ha hposts hg hm⟩

/-- Settles O24: the completion check, then BARW and STEP by the member's barrier state. -/
theorem barriersCompleteAndReleaseTheirWaits : Obligations.BarriersCompleteAndReleaseTheirWaits :=
  ⟨barrierCompletesWithItsQuorum, barrierWaitsEndWithTheGeneration⟩

end Sys2Proof.Laws.Sync
end

section
/-! Monitors are armed and MWAIT ends (spec/08 R178 to R180). -/

namespace Sys2Proof.Laws.Sync
open Sys2Proof Sys2Proof.Machine

/-! ## MONITOR -/

/-- Making room for a monitor takes no time (R179). -/
theorem monitorRoom_now (s : State) (sector : Nat) : (s.monitorRoom sector).now = s.now := by
  unfold State.monitorRoom
  dsimp only
  split
  · rfl
  · split <;> rfl

/-- Arming leaves the monitor of the sector, not woken (R178). -/
theorem armMonitor_arms (sector : Nat) (s : State) :
    ∃ t, armMonitor sector s = .ok ((), t) ∧ t.ctx.mon = some ⟨sector, false, s.now⟩ := by
  refine ⟨_, rfl, ?_⟩
  dsimp only
  rw [monitorRoom_now]

theorem freezeAfter_mon (s : State) : ∃ t, freezeAfter s = .ok ((), t) ∧ t.ctx.mon = s.ctx.mon := ⟨_, rfl, rfl⟩

theorem monitorAt_window {ea : Word} (h : ea.toNat < 2 ^ 32) (s : State) :
    monitorAt ea s = .error (.trap ⟨cProtect, ea, 0x10⟩) := if_pos h

section
variable {p : Pos} {a : BitVec 5} {s : State} (ha : p.bypA = true ∨ PlainReg a)
include ha

theorem monitor_arms {sector : Nat} {s1 : State} (hat : monitorAt (s.source p.bypA a) s = .ok (sector, s1)) :
    ∃ t, exec (.monitor p a) s = .next t ∧ t.sig = .ran ∧ t.ctx.mon = some ⟨sector, false, s1.now⟩ := by
  obtain ⟨u, hu, harmed⟩ := armMonitor_arms sector s1
  obtain ⟨t, ht, hmon⟩ := freezeAfter_mon u
  exact ⟨t.ran, finish_ok ((bind_ok (readS_plain ha)).trans ((bind_ok hat).trans ((bind_ok hu).trans ht))), rfl,
    hmon.trans harmed⟩

theorem monitor_of_chamber (h : (s.source p.bypA a).toNat < 2 ^ 32) :
    exec (.monitor p a) s = .next (s.traps p ⟨cProtect, s.source p.bypA a, 0x10⟩) :=
  finish_trap ((bind_ok (readS_plain ha)).trans (bind_stop (monitorAt_window h s)))

end

/-! ## MWAIT -/

/-- An MWAIT is done without a monitor, with one that has woken, or past its timeout (R180). -/
theorem mwaitDone_iff {s : State} : s.mwaitDone = true ↔ s.ctx.mon = none ∨ (∃ m, s.ctx.mon = some m ∧ m.woken = true)
    ∨ ∃ e, s.ctx.mwaitAt = some e ∧ e ≤ s.now := by
  rw [State.mwaitDone, Bool.or_eq_true, Option.any_eq_true, ← or_assoc]
  refine or_congr ?_ (by simp)
  cases s.ctx.mon <;> simp

/-- A monitor that has not woken, with no timeout running, is waited for (R180). -/
theorem mwaitDone_asleep {s : State} {m : Monitor} (hm : s.ctx.mon = some m) (hwoken : m.woken = false) (hat : s.ctx.mwaitAt = none) :
    s.mwaitDone = false := by
  simp [State.mwaitDone, hm, hwoken, hat]

section
variable {p : Pos} {a : BitVec 5} {s : State} (ha : p.bypA = true ∨ PlainReg a)
include ha

theorem mwait_ends (h : s.mwaitDone = true) :
    exec (.mwait p a) s = .next ({ s with ctx := { s.ctx with mon := none, mwaitAt := none } } : State).ran :=
  finish_ok ((bind_ok (readS_plain ha)).trans (if_pos h))

section
variable (h : s.mwaitDone = false) (hat : s.ctx.mwaitAt = none)
include h hat

/-- Without a timeout the wait is for the monitor alone (R180). -/
theorem mwait_waits (hx : s.source p.bypA a = 0) : exec (.mwait p a) s = .next (s.waits .mwait) := by
  refine finish_wait ((bind_ok (readS_plain ha)).trans ((if_neg (ne_true_of_eq_false h)).trans (if_neg ?_)))
  rw [hx, hat]
  decide

/-- The first issue of an MWAIT with a timeout starts it (R180, log 61, DEDUCED). -/
theorem mwait_starts_timeout (hx : s.source p.bypA a ≠ 0) : exec (.mwait p a) s = .next
    (({ s with ctx := { s.ctx with mwaitAt := some (s.now + (s.source p.bypA a).toNat) } } : State).waits .mwait) := by
  refine finish_send (f := fun t => { t with ctx := { t.ctx with mwaitAt := some (t.now + (s.source p.bypA a).toNat) } })
    ((bind_ok (readS_plain ha)).trans ((if_neg (ne_true_of_eq_false h)).trans (if_pos ?_)))
  rw [hat, bne_iff_ne.2 hx]
  rfl

end

end

/-- Settles O25: MONITOR by where its address lies, MWAIT by whether it is done. -/
theorem monitorsArmAndWaitsEnd : Obligations.MonitorsArmAndWaitsEnd := by
  intro p a s ha x
  exact ⟨fun _ _ => monitor_arms ha, monitor_of_chamber ha, fun h => mwait_ends ha (mwaitDone_iff.2 h),
    fun _ hm hwoken hat => mwait_waits ha (mwaitDone_asleep hm hwoken hat) hat,
    fun _ hm hwoken hat => mwait_starts_timeout ha (mwaitDone_asleep hm hwoken hat) hat⟩

end Sys2Proof.Laws.Sync
end

section
/-! The engine registers are written and read, and commands are accepted or refused (spec/11 R207, R211, R213 to R216). -/

namespace Sys2Proof.Laws.CopyEngine
open Sys2Proof Sys2Proof.Machine Sys2Proof.Laws.Ordering Sys2Proof.Laws.Sync

/-! ## EWR and ERD -/

theorem shadow_written {v : Vector CmdRegs 4} {ch : Nat} (h : ch < 4) (r : CmdRegs) :
    (v.setIfInBounds ch r).getD ch CmdRegs.zero = r := by
  simp [Vector.getD, h]

theorem shadow_kept {v : Vector CmdRegs 4} {ch j : Nat} (h : j ≠ ch) (r : CmdRegs) :
    (v.setIfInBounds ch r).getD j CmdRegs.zero = v.getD j CmdRegs.zero := by
  simp [Vector.getD, Ne.symm h]

theorem calWord_written {m : Vector Word 6} {n : Nat} (h : n < 6) (w : Word) : (m.setIfInBounds n w).getD n 0 = w := by
  simp [Vector.getD, h]

section
variable {r : Nat} {s : State}

/-- A write of a command register goes to the context's shadow set (R207). -/
theorem engineWrite_shadow (hch : r / 4096 ≤ 3) (hn : r % 4096 ≤ 0x00D) (w : Word) :
    s.engineWrite r w = { s with ctx := { s.ctx with
      shadow := s.ctx.shadow.setIfInBounds (r / 4096) ((s.ctx.shadow.getD (r / 4096) CmdRegs.zero).set (r % 4096) w) } } := by
  unfold State.engineWrite
  exact (if_neg (by omega)).trans (if_neg (by omega))

/-- A write of the fault register resumes the channel (R213). -/
theorem engineWrite_fault (hch : r / 4096 ≤ 3) (hn : r % 4096 = 0x021) (w : Word) :
    s.engineWrite r w = s.chanResume (r / 4096) := by
  unfold State.engineWrite
  exact (if_neg (by omega)).trans (if_pos hn)

/-- A write of the calendar map goes to the next rotation's map, with the bits that a map keeps (R216). -/
theorem engineWrite_calendar (hch : r / 4096 = 4) (w : Word) :
    (s.engineWrite r w).core.calMap = s.core.calMap ∧ (s.engineWrite r w).core.calNext
      = some ((s.core.calNext.getD s.core.calMap).setIfInBounds (r % 4096) (w &&& calKeep)) := by
  unfold State.engineWrite
  rw [if_pos hch]
  exact ⟨rfl, rfl⟩

theorem engineRead_shadow (hch : r / 4096 ≤ 3) (hn : r % 4096 ≤ 0x00D) :
    s.engineRead r = (s.ctx.shadow.getD (r / 4096) CmdRegs.zero).get (r % 4096) := by
  unfold State.engineRead
  exact (if_neg (by omega)).trans (if_pos hn)

theorem engineRead_faddr (hch : r / 4096 ≤ 3) (hn : r % 4096 = 0x022) : s.engineRead r = (s.core.chan (r / 4096)).faddr := by
  simp [State.engineRead, hn, show r / 4096 ≠ 4 by omega]

/-- The map reads as the last write left it (R216). -/
theorem engineRead_calendar (hch : r / 4096 = 4) (hn : r % 4096 < 6) :
    s.engineRead r = (s.core.calNext.getD s.core.calMap).getD (r % 4096) 0 := by
  unfold State.engineRead
  exact (if_pos hch).trans (if_neg (by omega))

end

theorem ewr_runs {p : Pos} {a : BitVec 5} (r : BitVec 16) {s : State} (ha : p.bypA = true ∨ PlainReg a) :
    exec (.ewr p a r) s = .next (s.engineWrite r.toNat (s.source p.bypA a)).ran :=
  finish_ok ((bind_ok (readS_plain ha)).trans rfl)

theorem erd_runs (p : Pos) {d : BitVec 5} (r : BitVec 16) (s : State) (hd : PlainReg d) :
    exec (.erd p d r) s = .next (s.sent p 2 d (s.engineRead r.toNat)).ran :=
  finish_ok (writeS_plain hd)

theorem engineRegistersAreWrittenAndRead : EngineRegistersAreWrittenAndRead := by
  intro p d a r s ha hd x ch n
  rw [ewr_runs r ha, erd_runs p r s hd]
  refine ⟨fun hch hn => ?_, fun hch hn => ?_, fun hch hn => ?_, fun hch hn => ?_, fun hch hn => ?_, fun hch hn => ?_⟩
  · rw [engineWrite_shadow hch hn]
    exact ⟨_, rfl, rfl, shadow_written (Nat.lt_succ_of_le hch) _, fun j hj => shadow_kept hj _, rfl, rfl⟩
  · obtain ⟨hmap, hnext⟩ := engineWrite_calendar (s := s) hch x
    exact ⟨_, rfl, rfl, hmap, _, hnext, calWord_written hn _⟩
  · rw [engineWrite_fault hch hn]
  · rw [engineRead_shadow hch hn]
  · rw [engineRead_faddr hch hn]
  · rw [engineRead_calendar hch hn]

/-! ## EGO and EGO.P -/

/-- A command asks for no group, or for a valid one: it is untagged, empty, or its handle names a group (R211). -/
def GroupFits (r : CmdRegs) (s : State) : Prop :=
  bitAt r.cmd 25 = false ∨ r.empty = true ∨ (s.groupOf r.step).isSome = true

theorem groupMissing_iff {r : CmdRegs} {s : State} :
    (bitAt r.cmd 25 && !r.empty && (s.groupOf r.step).isNone) = true ↔ ¬ GroupFits r s := by
  unfold GroupFits
  cases bitAt r.cmd 25 <;> cases r.empty <;> cases s.groupOf r.step <;> simp

theorem egoWait_ready {s : State} {ch : Nat} (hroom : (s.core.chan ch).queue.length < 4) (hs : s.settled false = true) :
    egoWait ch s = .ok ((), s) :=
  (bind_ok (if_neg (Nat.not_le.2 hroom))).trans (settle_ok hs)

theorem egoWait_full {s : State} {ch : Nat} (hfull : 4 ≤ (s.core.chan ch).queue.length) :
    egoWait ch s = .error (.wait .channel) :=
  bind_stop (if_pos hfull)

section
variable {p : Pos} {d : BitVec 5} {ch : Nat} {blk : Word} {r : CmdRegs} {s : State}

theorem egoM_format {n : Nat} (hbad : s.core.badCommand ch r = some n) :
    egoM p d ch blk none r s = .error (.trap ⟨cFormat, blk, w64 n⟩) := by
  simp only [egoM, hbad]

section
variable (hvalid : s.core.badCommand ch r = none)
include hvalid

theorem egoM_groupMissing (hgroup : ¬ GroupFits r s) :
    egoM p d ch blk none r s = .error (.trap ⟨cProtect, r.step, 0x10⟩) := by
  simp only [egoM, hvalid]
  exact if_pos (groupMissing_iff.2 hgroup)

/-- A valid command is accepted, and the channel's next transfer ID is its result (R213). -/
theorem egoM_accepts (hgroup : GroupFits r s) (hd : PlainReg d) : egoM p d ch blk none r s
    = .ok ((), (s.acceptCmd ch r).2.sent p 1 d ((s.core.chan ch).nextId.setWidth 64)) := by
  simp only [egoM, hvalid]
  rw [if_neg (mt groupMissing_iff.1 (not_not_intro hgroup)), ← BitVec.ofNat_toNat]
  exact writeS_plain hd

end

end

/-- Caching a sealed block leaves the context alone (R215). -/
theorem cacheBlock_ctx (va : Nat) (ws : List Word) (s : State) : ∃ t, cacheBlock va ws s = .ok ((), t) ∧ t.ctx = s.ctx := by
  unfold cacheBlock
  split
  · exact ⟨_, rfl, rfl⟩
  · exact ⟨s, rfl, rfl⟩

section
variable {p : Pos} {d a : BitVec 5} {ch : BitVec 2} {s : State}

theorem ego_waits (hfull : 4 ≤ (s.core.chan ch.toNat).queue.length) : exec (.ego p d ch) s = .next (s.waits .channel) :=
  finish_wait (bind_stop (egoWait_full hfull))

theorem egoP_waits (hfull : 4 ≤ (s.core.chan ch.toNat).queue.length) : exec (.egoP p d a ch) s = .next (s.waits .channel) :=
  finish_wait (bind_stop (egoWait_full hfull))

section
variable (hroom : (s.core.chan ch.toNat).queue.length < 4) (hs : s.settled false = true)
include hroom hs

/-- With room in its channel and nothing before it on its way, an EGO tries its shadow set (R213). -/
theorem exec_ego : exec (.ego p d ch) s
    = finish p (egoM p d ch.toNat 0 none (s.ctx.shadow.getD ch.toNat CmdRegs.zero)) s :=
  finish_congr ((bind_ok (egoWait_ready hroom hs)).trans (bind_ok (getCtx_run s)))

section
variable {ws : List Word} {s1 : State} (ha : p.bypA = true ∨ PlainReg a)
  (hblock : paramBlock (s.source p.bypA a).toNat s = .ok (ws, s1)) (hwhole : blockBad ws = none)
include ha hblock hwhole

/-- An EGO.P tries the command of its block, and keeps a sealed block once the command is accepted (R215). -/
theorem exec_egoP : exec (.egoP p d a ch) s = finish p (fun _ => (do
    egoM p d ch.toNat (s.source p.bypA a) none (blockRegs ws)
    cacheBlock (s.source p.bypA a).toNat ws : M Unit) s1) s := by
  rw [← hwhole]
  exact finish_congr ((bind_ok (egoWait_ready hroom hs)).trans ((bind_ok (readS_plain ha)).trans (bind_ok hblock)))

section
variable (hvalid : s1.core.badCommand ch.toNat (blockRegs ws) = none)
include hvalid

theorem egoP_groupMissing (hgroup : ¬ GroupFits (blockRegs ws) s1) :
    exec (.egoP p d a ch) s = .next (s.traps p ⟨cProtect, (blockRegs ws).step, 0x10⟩) := by
  rw [exec_egoP hroom hs ha hblock hwhole]
  exact finish_trap (bind_stop (egoM_groupMissing hvalid hgroup))

theorem egoP_accepts (hgroup : GroupFits (blockRegs ws) s1) (hd : PlainReg d) : ∃ t, exec (.egoP p d a ch) s = .next t
    ∧ t.sig = .ran ∧ t.ctx.infl = (((s1.acceptCmd ch.toNat (blockRegs ws)).2).sent p 1 d
      ((s1.core.chan ch.toNat).nextId.setWidth 64)).ctx.infl := by
  obtain ⟨t, ht, hctx⟩ := cacheBlock_ctx (s.source p.bypA a).toNat ws
    ((s1.acceptCmd ch.toNat (blockRegs ws)).2.sent p 1 d ((s1.core.chan ch.toNat).nextId.setWidth 64))
  rw [exec_egoP hroom hs ha hblock hwhole]
  exact ⟨t.ran, finish_ok ((bind_ok (egoM_accepts hvalid hgroup hd)).trans ht), rfl, congrArg Ctx.infl hctx⟩

end

end

end

end

theorem egoAcceptsTheCommand : EgoAcceptsTheCommand := by
  intro p d a ch s ha hd r untagged
  refine ⟨fun hroom hs => ⟨fun hvalid hgroup => ?_, fun hvalid hgroup => ?_, fun ws s1 hblock hwhole hvalid hgroup => ?_,
    fun n hbad => ?_, fun ws s1 hblock hwhole hvalid hgroup => ?_⟩, fun hfull => ⟨ego_waits hfull, egoP_waits hfull⟩⟩
  · rw [exec_ego hroom hs]
    exact finish_ok (egoM_accepts hvalid hgroup hd)
  · rw [exec_ego hroom hs]
    exact finish_trap (egoM_groupMissing hvalid hgroup)
  · exact egoP_groupMissing hroom hs ha hblock hwhole hvalid hgroup
  · rw [exec_ego hroom hs]
    exact finish_trap (egoM_format hbad)
  · exact egoP_accepts hroom hs ha hblock hwhole hvalid hgroup hd

/-- Settles O37: each engine register by the branch of its number, then EGO and EGO.P by the checks of their command. -/
theorem engineRegistersAndCommandsAreAccepted : Obligations.EngineRegistersAndCommandsAreAccepted :=
  ⟨engineRegistersAreWrittenAndRead, egoAcceptsTheCommand⟩

end Sys2Proof.Laws.CopyEngine
end

section
/-! Calendar slots issue lines (spec/11 R216, R217; spec/12 R231). -/

namespace Sys2Proof.Laws.CopyEngine
open Sys2Proof Sys2Proof.Machine Sys2Proof.Laws.Ordering

/-! ## What a translation leaves where it was -/

/-- Two states agree on the focus core's number, channels and calendar lines, on the clock and on every byte. -/
structure SameLines (s t : State) : Prop where
  id : t.core.id = s.core.id
  chans : t.core.chans = s.core.chans
  lines : t.core.lines = s.core.lines
  now : t.now = s.now
  bytes : SameMem s t

theorem SameLines.refl (s : State) : SameLines s s := ⟨rfl, rfl, rfl, rfl, .refl s⟩

theorem SameLines.trans {s t u : State} (h : SameLines s t) (g : SameLines t u) : SameLines s u :=
  ⟨g.id.trans h.id, g.chans.trans h.chans, g.lines.trans h.lines, g.now.trans h.now, h.bytes.trans g.bytes⟩

/-- An access at a home keeps the whole core. -/
theorem SameLines.of_site {s t : State} (h : SameSite s t) (hm : SameMem s t) : SameLines s t :=
  ⟨congrArg Core.id h.core, congrArg Core.chans h.core, congrArg Core.lines h.core, h.now, hm⟩

theorem homeRead_lines (s : State) (pa n : Nat) (lv : Level) (g : Nat) : SameLines s (s.homeRead pa n lv g).2 :=
  .of_site (homeRead_site ..) (homeRead_spec ..).2

theorem walk_lines (agency va : Nat) (levels : List (Nat × Nat × Nat)) (table : Nat) (s : State) :
    SameLines s (s.walk agency va levels table).2 := by
  induction levels generalizing table s with
  | nil => exact .refl s
  | cons level rest ih =>
    obtain ⟨lv, lo, w⟩ := level
    have hread := homeRead_lines s (table + 8 * (va / 2 ^ lo % 2 ^ w)) 8 .l2 agency
    simp only [State.walk]
    split
    · exact hread
    · split
      · exact hread
      · exact hread.trans (ih ..)

theorem coreAt_id (s : State) (n : Nat) : (s.coreAt n).id = n := by
  unfold State.coreAt
  split
  · assumption
  · cases hk : s.cores.find? (fun k => k.id == n) with
    | none => rfl
    | some k =>
      have hid := List.find?_some hk
      exact beq_iff_eq.1 hid

/-- A core's TLB takes an entry. -/
theorem keepLeaf_lines (s : State) (n : Nat) (l : List TlbEnt) (d : Nat) :
    SameLines s { s.setCore { s.coreAt n with tlb := l } with draw := d } := by
  unfold State.setCore
  dsimp only
  split
  · rename_i h
    have hcore : s.coreAt n = s.core := if_pos (h.trans (coreAt_id s n))
    rw [hcore]
    exact ⟨rfl, rfl, rfl, rfl, rfl, rfl, rfl, rfl⟩
  · exact ⟨rfl, rfl, rfl, rfl, rfl, rfl, rfl, rfl⟩

theorem keepChamberLeaf_lines (s : State) (l : List (Nat × TlbEnt)) (d : Nat) :
    SameLines s { s with ctlb := l, draw := d } := ⟨rfl, rfl, rfl, rfl, rfl, rfl, rfl, rfl⟩

/-- A core's leaf, wherever it is found, is found without a channel, a line or a byte moving (R204). -/
theorem leaf_lines (s : State) (n launch va : Nat) : SameLines s (s.leaf (some n) launch va).2 := by
  unfold State.leaf
  dsimp only [Option.map_some]
  split
  · exact .refl s
  · split
    · split
      · exact keepLeaf_lines ..
      · exact .refl s
    · split
      · exact .refl s
      · rename_i l _
        have hwalk := walk_lines l.agency va walkLevels l.root s
        split
        · rename_i h
          rw [h] at hwalk
          exact hwalk
        · rename_i h
          rw [h] at hwalk
          split
          · exact (hwalk.trans (keepChamberLeaf_lines ..)).trans (keepLeaf_lines ..)
          · exact hwalk.trans (keepChamberLeaf_lines ..)

theorem translate_lines (s : State) (n launch va : Nat) (write sup : Bool) :
    SameLines s (s.translate (some n) launch va write sup).2 := by
  have hleaf := leaf_lines s n launch va
  unfold State.translate
  split
  · exact .refl s
  · split
    · rename_i h
      rw [h] at hleaf
      exact hleaf
    · rename_i h
      rw [h] at hleaf
      exact hleaf

/-! ## Accesses of an engine -/

theorem engine_bind_ok {α β : Type} {m : E α} {f : α → E β} {s t : State} {a : α} (h : m s = .ok (a, t)) :
    (m >>= f) s = f a t := by
  show (Except.bind (m s) fun x => f x.1 x.2) = _
  rw [h]; rfl

theorem engine_bind_stop {α β : Type} {m : E α} {f : α → E β} {s : State} {e : EStop} (h : m s = .error e) :
    (m >>= f) s = .error e := by
  show (Except.bind (m s) fun x => f x.1 x.2) = _
  rw [h]; rfl

/-- How a step on the way of a line ends: with an answer, no channel, line or byte moved, or with a fault that logs nothing. -/
def Tried {α : Type} (m : E α) (s : State) : Prop :=
  (∃ a t, m s = .ok (a, t) ∧ SameLines s t) ∨ ∃ r, m s = .error (.fault r id)

theorem tried_pure {α : Type} (a : α) (s : State) : Tried (pure a : E α) s := .inl ⟨a, s, rfl, .refl s⟩

theorem tried_fault {α : Type} (r : TrapReq) (s : State) : Tried (faultE r : E α) s := .inr ⟨r, rfl⟩

theorem tried_bind {α β : Type} {m : E α} {f : α → E β} {s : State} (hm : Tried m s) (hf : ∀ a t, Tried (f a) t) :
    Tried (m >>= f) s := by
  rcases hm with ⟨a, t, ht, hst⟩ | ⟨r, hr⟩
  · unfold Tried
    rw [engine_bind_ok ht]
    exact (hf a t).imp (fun ⟨b, u, hu, htu⟩ => ⟨b, u, hu, hst.trans htu⟩) id
  · exact .inr ⟨r, engine_bind_stop hr⟩

theorem engLocate_tried {w : Who} {n : Nat} (hw : w.core = some n) (va : Nat) (write : Bool) (s : State) :
    Tried (engLocate w va write) s := by
  have hlines := translate_lines s n w.launch va write w.sup
  unfold Tried engLocate
  rw [hw]
  split
  · exact .inr ⟨_, rfl⟩
  · split
    · rename_i h
      rw [h] at hlines
      exact .inl ⟨_, _, rfl, hlines⟩
    · exact .inr ⟨_, rfl⟩

theorem engScr_tried (w : Who) (chamber ca n : Nat) (write : Bool) (s : State) : Tried (engScr w chamber ca n write) s := by
  unfold Tried engScr
  dsimp only
  split
  · exact .inl ⟨_, s, rfl, .refl s⟩
  · exact .inr ⟨_, rfl⟩

theorem calPlace_tried {w : Who} {n : Nat} (hw : w.core = some n) (chamber sa da : Nat) (s : State) :
    Tried (calPlace w chamber sa da) s := by
  unfold calPlace
  refine tried_bind (engLocate_tried hw ..) fun sp t => tried_bind (engScr_tried ..) fun at_ u => ?_
  cases sp with
  | mem pa mapped => exact tried_pure ..
  | remote dev pa => exact tried_pure ..
  | own off | scr core off | local_ off | mcast pa => exact tried_fault ..

/-! ## Where a placed line leads -/

theorem leaf_held {s : State} {launch va : Nat} {e : TlbEnt} (hcore : s.core.id < 192)
    (hfind : s.core.tlb.find? (fun e => e.covers launch va) = some e) :
    s.leaf (some s.core.id) launch va = (.ok (e.size, e.pte), s) := by
  simp [State.leaf, hcore, State.coreAt, hfind]

theorem tlbHolds_held {s : State} {launch va : Nat} {e : TlbEnt}
    (hfind : s.core.tlb.find? (fun e => e.covers launch va) = some e) : s.tlbHolds s.core.id launch va = true := by
  have hcovers := List.find?_some hfind
  have hany : s.core.tlb.any (fun e => e.covers launch va) = true :=
    List.any_eq_true.2 ⟨e, List.mem_of_find?_eq_some hfind, hcovers⟩
  simp [State.tlbHolds, State.coreAt, hany]

section
variable {s : State} {q : Command} {i pa core off : Nat} (h : LinePlaced s q i pa core off)
include h

theorem placed_held : s.tlbHolds s.core.id q.launch (q.regs.lineAddrs i).1 = true := by
  obtain ⟨-, -, -, -, ⟨e, hfind, -⟩, -⟩ := h
  exact tlbHolds_held hfind

theorem engLocate_placed (ch : Nat) :
    engLocate (q.who s.core.id ch) (q.regs.lineAddrs i).1 false s = .ok (.mem pa false, s) := by
  obtain ⟨hlo, hhi, hcore, hhbm, ⟨e, hfind, rfl, hsup, hrm⟩, -⟩ := h
  rw [engLocate, if_neg (Nat.not_lt.2 hlo), State.translate, if_neg (Nat.not_le.2 hhi), Command.who, leaf_held hcore hfind]
  simp [leafSpot, hhbm, hsup, hrm]

theorem engScr_placed (ch : Nat) :
    engScr (q.who s.core.id ch) (s.core.id / 8) (q.regs.lineAddrs i).2 128 true s = .ok ((core, off), s) := by
  obtain ⟨-, -, -, -, -, hda, rfl, rfl, hgran⟩ := h
  exact if_pos ⟨Nat.div_eq_of_lt hda, hgran⟩

/-- A placed line leads to its bytes and its destination, and looking it up changes nothing. -/
theorem calPlace_placed (ch : Nat) : calPlace (q.who s.core.id ch) (s.core.id / 8) (q.regs.lineAddrs i).1
    (q.regs.lineAddrs i).2 s = .ok ((.mem pa false, core, off), s) :=
  (engine_bind_ok (engLocate_placed h ch)).trans (engine_bind_ok (engScr_placed h ch))

end

/-! ## A slot's line -/

/-- The translation of line i is complete: its leaf is held, or its walk is done (R217, log 9, DESIGN CHOICE). -/
def lineKnown (s : State) (q : Command) (i : Nat) : Bool :=
  decide ((q.regs.lineAddrs i).1 < 2 ^ 32) || s.tlbHolds s.core.id q.launch (q.regs.lineAddrs i).1 || Config.walked s.draw

theorem lineKnown_untranslated {s : State} {q : Command} {i : Nat} (hva : 2 ^ 32 ≤ (q.regs.lineAddrs i).1)
    (htlb : s.tlbHolds s.core.id q.launch (q.regs.lineAddrs i).1 = false) : lineKnown s q i = Config.walked s.draw := by
  rw [lineKnown, htlb, decide_eq_false (Nat.not_lt.2 hva)]
  rfl

/-- A line that issues changes no byte. -/
theorem calIssued_same (s : State) (ch : Nat) (q : Command) (dev : Option Nat) (pa core off : Nat) (fault : Option TrapReq) :
    SameMem s (s.calIssued ch q dev pa core off fault) := ⟨rfl, rfl, rfl, rfl⟩

theorem calMiss_same (s : State) (ch : Nat) : SameMem s (s.calMiss ch) := ⟨rfl, rfl, rfl, rfl⟩

section
variable {s : State} {ch : Nat} {q : Command} {rest : List Command} (hq : (s.core.chan ch).queue = q :: rest)
  (hact : (s.core.chan ch).active = true) (hflt : (s.core.chan ch).flt = false) (hcal : q.regs.cal = true)
  (hsome : q.regs.empty = false) (hleft : (s.core.chan ch).issued < q.regs.lineCount)
  (hready : (s.core.chan ch).readyAt ≤ s.now)
include hq hact hflt hcal hsome hleft hready

/-- A placed line issues, to be read at its source and to land at its destination (R217). -/
theorem calIssue_placed {pa core off : Nat} (h : LinePlaced s q (s.core.chan ch).issued pa core off) :
    s.calIssue ch = ({ s with draw := s.draw + 1 } : State).calIssued ch q none pa core off none := by
  have hplace := calPlace_placed (s := { s with draw := s.draw + 1 }) h ch
  simp [State.calIssue, hq, hact, hflt, hcal, hsome, hleft, hready, hplace, placed_held h]

/-- What a slot does with the next line of a ready command: a line whose translation is not complete stays; another issues, with
its place or with its fault. -/
theorem calIssue_cases : ∃ u, SameLines s u
    ∧ ((lineKnown s q (s.core.chan ch).issued = false ∧ s.calIssue ch = u.calMiss ch)
      ∨ (lineKnown s q (s.core.chan ch).issued = true ∧ (s.calIssue ch = u
        ∨ ∃ dev pa core off fault, s.calIssue ch = u.calIssued ch q dev pa core off fault))) := by
  have hdrawn : SameLines s { s with draw := s.draw + 1 } := ⟨rfl, rfl, rfl, rfl, rfl, rfl, rfl, rfl⟩
  simp only [State.calIssue, lineKnown, hq, hact, hflt, hcal, hsome, hleft, hready, Bool.not_false, Bool.and_self, decide_true,
    Bool.not_true, Bool.false_eq_true, if_false]
  generalize (decide ((q.regs.lineAddrs (s.core.chan ch).issued).1 < 2 ^ 32) || _ || _) = known
  obtain ⟨⟨spot, core, off⟩, u, hplace, hu⟩ | ⟨r, hplace⟩ := calPlace_tried (w := q.who s.core.id ch) rfl (s.core.id / 8)
    (q.regs.lineAddrs (s.core.chan ch).issued).1 (q.regs.lineAddrs (s.core.chan ch).issued).2 { s with draw := s.draw + 1 }
  · rw [hplace]
    refine ⟨u, hdrawn.trans hu, ?_⟩
    cases known with
    | false => exact .inl ⟨rfl, rfl⟩
    | true =>
      cases spot with
      | mem pa mapped => exact .inr ⟨rfl, .inr ⟨none, pa, core, off, none, rfl⟩⟩
      | remote dev pa => exact .inr ⟨rfl, .inr ⟨some dev, pa, core, off, none, rfl⟩⟩
      | own _ | scr _ _ | local_ _ | mcast _ => exact .inr ⟨rfl, .inl rfl⟩
  · rw [hplace]
    refine ⟨_, hdrawn, ?_⟩
    cases known with
    | false => exact .inl ⟨rfl, rfl⟩
    | true => exact .inr ⟨rfl, .inr ⟨none, 0, 0, 0, some r, rfl⟩⟩

/-- A slot moves no byte. -/
theorem calIssue_same : SameMem s (s.calIssue ch) := by
  obtain ⟨u, hu, ⟨-, h⟩ | ⟨-, h | ⟨dev, pa, core, off, fault, h⟩⟩⟩ := calIssue_cases hq hact hflt hcal hsome hleft hready
  · exact h ▸ hu.bytes.trans (calMiss_same ..)
  · exact h ▸ hu.bytes
  · exact h ▸ hu.bytes.trans (calIssued_same ..)

end

/-- A line that missed its slot stays for the next rotation's (R217). -/
theorem calMiss_stays {s u : State} {ch : Nat} (h4 : ch < 4) (hu : SameLines s u) : (u.calMiss ch).core.lines = s.core.lines
    ∧ ((u.calMiss ch).core.chan ch).issued = (s.core.chan ch).issued ∧ ((u.calMiss ch).core.chan ch).readyAt = s.now + 256 := by
  have hchan : u.core.chan ch = s.core.chan ch := congrArg (fun v => Vector.getD v ch Channel.reset) hu.chans
  have hmiss : (u.calMiss ch).core.chan ch = { u.core.chan ch with readyAt := u.now + 256 } := chan_setChan_same h4 _
  rw [hmiss, hchan, hu.now]
  exact ⟨hu.lines, rfl, rfl⟩

theorem calIssued_channel {s : State} {ch : Nat} (h4 : ch < 4) (q : Command) (dev : Option Nat) (pa core off : Nat)
    (fault : Option TrapReq) : ((s.calIssued ch q dev pa core off fault).core.chan ch).issued = (s.core.chan ch).issued + 1 := by
  have hchan : (s.calIssued ch q dev pa core off fault).core.chan ch
    = { s.core.chan ch with issued := (s.core.chan ch).issued + 1, readyAt := s.now + 1 } := chan_setChan_same h4 _
  rw [hchan]

theorem rotate_pending {k : Core} {m : Vector Word 6} (h : k.calNext = some m) :
    k.rotate = { k with calMap := m, calNext := none } := by
  simp only [Core.rotate, h]

theorem rotate_settled {k : Core} (h : k.calNext = none) : k.rotate = k := by
  simp only [Core.rotate, h]

theorem calendarSlotsIssueLines : CalendarSlotsIssueLines := by
  intro s ch c
  have h4 : ch.toNat < 4 := ch.isLt
  refine ⟨fun m hm => ?_, fun hm => ?_, fun hq => ?_, fun q rest hq hact hflt hcal hsome hleft hready =>
    ⟨fun pa core off h => ?_, fun hva htlb => ?_⟩⟩
  · exact congrArg (fun k => Host.Outcome.next { s with core := k }) (rotate_pending hm)
  · exact congrArg (fun k => Host.Outcome.next { s with core := k }) (rotate_settled hm)
  · refine congrArg Host.Outcome.next ?_
    simp only [State.calIssue, show (s.core.chan ch.toNat).queue = [] from hq]
  · exact ⟨_, _, congrArg Host.Outcome.next (calIssue_placed hq hact hflt hcal hsome hleft hready h), rfl, rfl, rfl, rfl, rfl, rfl,
      rfl, rfl, rfl, rfl, rfl, rfl, calIssued_channel h4 .., rfl, rfl⟩
  · obtain ⟨hmem, hscr, -, -⟩ := calIssue_same hq hact hflt hcal hsome hleft hready
    refine ⟨_, rfl, hmem, hscr, fun hwalk => ?_⟩
    have hunknown := (lineKnown_untranslated hva htlb).trans hwalk
    obtain ⟨u, hu, ⟨-, hmiss⟩ | ⟨hknown, -⟩⟩ := calIssue_cases hq hact hflt hcal hsome hleft hready
    · rw [hmiss]
      exact calMiss_stays h4 hu
    · exact absurd (hknown.symm.trans hunknown) Bool.noConfusion

end Sys2Proof.Laws.CopyEngine
end

section
/-! Calendar lines are read and land, and the chamber bus's arrivals pass (spec/10 R188; spec/11 R217, R218, R220; spec/12 R231 to R233). -/

namespace Sys2Proof.Laws.CopyEngine
open Sys2Proof Sys2Proof.Machine Sys2Proof.Laws.Ordering

/-! ## Reading and holding -/

/-- The poison of a line's sectors, as a mask of the first n of them. -/
def sectorFlags (bad : Nat → Bool) (n : Nat) : BitVec 4 :=
  (List.range n).foldl (fun b i => if bad i then b ||| BitVec.ofNat 4 (2 ^ i) else b) 0

theorem sectorFlags_bit (bad : Nat → Bool) (n : Nat) {i : Nat} (hi : i < 4) :
    (sectorFlags bad n).getLsbD i = (decide (i < n) && bad i) := by
  induction n with
  | zero => simp [sectorFlags]
  | succ n ih =>
    have hstep : sectorFlags bad (n + 1) = if bad n then sectorFlags bad n ||| BitVec.ofNat 4 (2 ^ n) else sectorFlags bad n := by
      simp [sectorFlags, List.range_succ]
    have hbit : (BitVec.ofNat 4 (2 ^ n)).getLsbD i = decide (n = i) := by
      rw [BitVec.getLsbD_ofNat, Nat.testBit_two_pow, decide_eq_true hi, Bool.true_and]
    rw [hstep]
    generalize BitVec.ofNat 4 (2 ^ n) = one at hbit ⊢
    by_cases hin : i = n
    · subst hin
      cases hb : bad i <;> simp [ih, hbit]
    · have hlt : i < n + 1 ↔ i < n := by omega
      cases hb : bad n <;> simp [ih, hbit, hlt, Ne.symm hin]

theorem setLine_at {s : State} {k : Nat} (hk : k < s.core.lines.length) (l : CalLine) :
    (s.setLine k l).core.lines[k]? = some l :=
  List.getElem?_set_self hk

/-- A line of this package is read at its home, with its bytes and its sectors' poison (R231, R233). -/
theorem calRead_here {s : State} {k : Nat} {l : CalLine} (hl : s.core.lines[k]? = some l) (hdev : l.dev = none) :
    ∃ u dram, SameLines s u ∧ s.calRead k = u.setLine k { l with
      bytes := memGetN s.mem l.pa 128, bad := sectorFlags (fun i => u.sectorBad (l.pa / 32 + i)) 4, read := true, dram := dram } := by
  simp only [State.calRead, hl, hdev]
  exact ⟨_, _, homeRead_lines .., rfl⟩

/-- A hold moves its line's landing, and what it logs is no line and no byte (R232). -/
theorem calHold_moves {s : State} {k : Nat} {l : CalLine} (hl : s.core.lines[k]? = some l) (delay : Nat) :
    (s.calHold k delay).core = (s.setLine k { l with land := l.at_ + 520 + delay }).core
      ∧ SameMem s (s.calHold k delay) := by
  simp only [State.calHold, hl]
  split
  · exact ⟨rfl, rfl, rfl, rfl, rfl⟩
  · exact ⟨(logError_site ..).core, (SameMem.trans (t := s.setLine k { l with land := l.at_ + 520 + delay })
      ⟨rfl, rfl, rfl, rfl⟩ (logError_same ..))⟩

/-! ## Landing -/

/-- Two states agree on the cores and on memory: what a write into an open scratchpad leaves where it was. -/
structure SameButScratch (s t : State) : Prop where
  core : t.core = s.core
  cores : t.cores = s.cores
  mem : t.mem = s.mem

/-- No PHASE window of the core holds a write back (R188). -/
theorem scrDeliver_open {s : State} {core : Nat} (h : (s.coreAt core).phaseEnd = none) (a : Agent) (off : Nat) (bs : List Byte)
    (bad : Bool) : s.scrDeliver a core off bs bad = s.scrWrite core off bs bad := by
  simp only [State.scrDeliver, h]

theorem scrDeliver_keeps {s t : State} {core : Nat} (h : (s.coreAt core).phaseEnd = none) (ht : SameButScratch s t) (a : Agent)
    (off : Nat) (bs : List Byte) (bad : Bool) : SameButScratch s (t.scrDeliver a core off bs bad) := by
  have hopen : (t.coreAt core).phaseEnd = none := by
    rw [State.coreAt, ht.core, ht.cores]
    exact h
  rw [scrDeliver_open hopen]
  exact ⟨ht.core, ht.cores, ht.mem⟩

/-- A line's bytes on their way into their scratchpad: in one piece, or sector by sector around what later lines have written,
each with its poison (R122, R233). -/
def delivered (s : State) (l : CalLine) : State :=
  let agent := l.agent s.core.id
  if l.bad = 0 ∧ l.skip = 0 then s.scrDeliver agent l.core l.off l.bytes
  else (List.range 4).foldl (fun s i =>
    (maskRuns (lineMask (32 * i) 32 &&& ~~~l.skip)).foldl (fun (s : State) r =>
      s.scrDeliver agent l.core (l.off + r.1) ((l.bytes.drop r.1).take r.2) (l.bad.getLsbD i)) s) s

/-- A line once l has been written: an earlier one of the same command leaves those bytes as they are (R122). -/
def skipsUnder (l x : CalLine) : CalLine :=
  if x.chan = l.chan ∧ x.cmd = l.cmd ∧ x.index < l.index then { x with skip := x.skip ||| x.overlap l } else x

/-- Line l has been written, and the earlier lines of its command pass it by. -/
def skipsBehind (s : State) (l : CalLine) : State :=
  { s with core := { s.core with lines := s.core.lines.map (skipsUnder l) } }

theorem calLand_delivers {s : State} {k : Nat} {l : CalLine} (hl : s.core.lines[k]? = some l) :
    s.calLand k = if (skipsBehind (delivered s l) l).scrPending (l.agent s.core.id)
      then (skipsBehind (delivered s l) l).setLine k { l with stored := true }
      else (skipsBehind (delivered s l) l).calLanded k := by
  rw [State.calLand, hl]
  rfl

theorem delivered_keeps {s : State} {l : CalLine} (h : (s.coreAt l.core).phaseEnd = none) : SameButScratch s (delivered s l) := by
  unfold delivered
  dsimp only
  split
  · exact scrDeliver_keeps h ⟨rfl, rfl, rfl⟩ ..
  · exact List.foldlRecOn _ _ ⟨rfl, rfl, rfl⟩ fun t ht i _ =>
      List.foldlRecOn _ _ ht fun u hu r _ => scrDeliver_keeps h hu ..

section
variable {s : State} {k : Nat} {l : CalLine} (hl : s.core.lines[k]? = some l) (hopen : (s.coreAt l.core).phaseEnd = none)
include hl hopen

theorem skipsBehind_line : (skipsBehind (delivered s l) l).core.lines[k]? = some l := by
  show ((delivered s l).core.lines.map (skipsUnder l))[k]? = some l
  rw [(delivered_keeps hopen).core, List.getElem?_map, hl]
  simp [skipsUnder]

/-- A line whose destination is open lands at once (R217). -/
theorem calLand_lands (hpend : s.scrPending (l.agent s.core.id) = false) :
    s.calLand k = (skipsBehind (delivered s l) l).calLanded k := by
  have hkept := delivered_keeps hopen
  have hpend' : (skipsBehind (delivered s l) l).scrPending (l.agent s.core.id) = false := by
    rw [← hpend]
    simp only [State.scrPending, skipsBehind, hkept.core, hkept.cores, List.any_cons]
  rw [calLand_delivers hl, hpend', if_neg Bool.false_ne_true]

end

/-! ## What a landing lets end -/

theorem startChan_lines (k : Core) (now ch : Nat) : (k.startChan now ch).lines = k.lines := by
  unfold Core.startChan
  dsimp only
  split
  · split <;> rfl
  · rfl

/-- Settling joins and starting commands takes no line. -/
theorem settleChans_lines (k : Core) (now : Nat) : (k.settleChans now).lines = k.lines := by
  unfold Core.settleChans
  dsimp only
  refine List.foldlRecOn (motive := fun (x : Core) => x.lines = k.lines) _ _ ?_ fun x hx ch _ => (startChan_lines ..).trans hx
  exact List.foldlRecOn (motive := fun (x : Core) => x.lines = k.lines) _ _ rfl fun x hx ch _ => hx

theorem copyDone_keeps (s : State) (ch : Nat) : (s.copyDone ch).core.lines = s.core.lines ∧ SameMem s (s.copyDone ch) := by
  cases hq : (s.core.chan ch).queue with
  | nil =>
    have hidle : s.copyDone ch = s := by simp only [State.copyDone, hq]
    rw [hidle]
    exact ⟨rfl, .refl s⟩
  | cons q rest =>
    rw [copyDone_ended hq, commandEnded_core]
    exact ⟨settleChans_lines (s.core.setChan ch (poppedChannel (s.core.chan ch) rest)) s.now,
      (withCore_same s _).trans (commandEnded_same ..)⟩

/-- Without an element to perform, a channel's command is left alone or completes. -/
theorem copyWork_zero (s : State) (ch : Nat) : s.copyWork ch 0 = s ∨ s.copyWork ch 0 = s.copyDone ch := by
  simp only [State.copyWork, State.copyRun]
  split
  · exact .inl rfl
  · split
    · exact .inl rfl
    · split
      · exact .inr rfl
      · split <;> split
        · exact .inr rfl
        · exact .inl rfl
        · exact .inr rfl
        · exact .inl rfl

theorem copyWork_zero_keeps (s : State) (ch : Nat) :
    (s.copyWork ch 0).core.lines = s.core.lines ∧ SameMem s (s.copyWork ch 0) := by
  rcases copyWork_zero s ch with h | h
  · rw [h]
    exact ⟨rfl, .refl s⟩
  · rw [h]
    exact copyDone_keeps s ch

section
variable {s : State} {k : Nat} {l : CalLine} (hl : s.core.lines[k]? = some l)
include hl

theorem calLanded_clean (hbad : l.bad = 0) : (s.calLanded k).core.lines.length + 1 = s.core.lines.length
    ∧ SameMem s (s.calLanded k) := by
  obtain ⟨hlt, -⟩ := List.getElem?_eq_some_iff.1 hl
  obtain ⟨hlines, hsame⟩ := copyWork_zero_keeps { s with core := { s.core with lines := s.core.lines.eraseIdx k } } l.chan
  simp only [State.calLanded, hl, hbad, if_true]
  refine ⟨?_, (withCore_same s _).trans hsame⟩
  rw [hlines, List.length_eraseIdx_of_lt hlt]
  omega

theorem calLanded_poisoned (hbad : l.bad ≠ 0) : s.calLanded k = s.setLine k { l with land := 0 } := by
  simp only [State.calLanded, hl, hbad, if_false]

end

section
variable {s : State} {k : Nat} {l : CalLine} (hl : s.core.lines[k]? = some l) (hopen : (s.coreAt l.core).phaseEnd = none)
  (hpend : s.scrPending (l.agent s.core.id) = false)
include hl hopen hpend

/-- A clean line is in its scratchpad, and no longer in flight (R217). -/
theorem calLand_clean (hskip : l.skip = 0) (hbad : l.bad = 0) : (s.calLand k).core.lines.length + 1 = s.core.lines.length
    ∧ (s.calLand k).scr = memPutN s.scr (scrKey l.core l.off) l.bytes ∧ (s.calLand k).mem = s.mem := by
  have hwritten : delivered s l = s.scrWrite l.core l.off l.bytes :=
    (if_pos ⟨hbad, hskip⟩).trans (scrDeliver_open hopen ..)
  obtain ⟨hlen, hmem, hscr, -, -⟩ := calLanded_clean (skipsBehind_line hl hopen) hbad
  rw [calLand_lands hl hopen hpend]
  refine ⟨hlen.trans ?_, hscr.trans ?_, hmem.trans (delivered_keeps hopen).mem⟩
  · exact (List.length_map ..).trans (congrArg (fun k => k.lines.length) (delivered_keeps hopen).core)
  · exact congrArg State.scr hwritten

/-- A poisoned line stays until its channel stops at it (R219, R233). -/
theorem calLand_poisoned (hbad : l.bad ≠ 0) : (s.calLand k).core.lines[k]? = some { l with land := 0 }
    ∧ (s.calLand k).mem = s.mem := by
  have hline := skipsBehind_line hl hopen
  rw [calLand_lands hl hopen hpend, calLanded_poisoned hline hbad]
  exact ⟨setLine_at (List.getElem?_eq_some_iff.1 hline).1 _, (delivered_keeps hopen).mem⟩

end

theorem calendarLinesAreReadAndLand : CalendarLinesAreReadAndLand := by
  intro s k delay l hl
  have hk : k < s.core.lines.length := (List.getElem?_eq_some_iff.1 hl).1
  refine ⟨fun hdev => ?_, ?_, fun hopen hpend hskip => ⟨fun hbad => ?_, fun hbad => ?_⟩⟩
  · obtain ⟨u, dram, hu, hread⟩ := calRead_here hl hdev
    obtain ⟨hmem, hscr, -, -⟩ := hu.bytes
    refine ⟨_, _, congrArg Host.Outcome.next hread, setLine_at (hu.lines ▸ hk) _, rfl, rfl, rfl, rfl, rfl, rfl, hmem, hscr,
      fun i hi => ?_⟩
    simp only [sectorFlags_bit _ _ hi, decide_eq_true hi, Bool.true_and]
    rfl
  · obtain ⟨hcore, hmem, hscr, -, -⟩ := calHold_moves hl delay
    exact ⟨_, rfl, (congrArg (fun c => c.lines[k]?) hcore).trans (setLine_at hk _), hmem, hscr⟩
  · exact ⟨_, rfl, calLand_clean hl hopen hpend hskip hbad⟩
  · exact ⟨_, rfl, calLand_poisoned hl hopen hpend hbad⟩

/-! ## The chamber bus -/

/-- Counting the arrivals that passed moves neither the bus nor a byte. -/
theorem busArrivalsPass : BusArrivalsPass := by
  intro s
  exact ⟨_, rfl, List.foldlRecOn (motive := fun t : State => t.core.bus = s.core.bus.filter (fun b => !b.passed s.now s.ctx)
    ∧ t.mem = s.mem ∧ t.scr = s.scr) _ _ ⟨rfl, rfl, rfl⟩ fun t ht _ _ => ht⟩

/-- Settles O52: the slots of the calendar by what is known of the next line, then its lines and the arrivals of the bus. -/
theorem calendarLinesIssueReadAndLand : Obligations.CalendarLinesIssueReadAndLand :=
  ⟨calendarSlotsIssueLines, calendarLinesAreReadAndLand, busArrivalsPass⟩

end Sys2Proof.Laws.CopyEngine
end

section
/-! VTGR reads a tag: the word of its example, what else is illegal, and its effect (spec/14 R275). -/

namespace Sys2Proof.Laws.Helictite
open Sys2Proof Sys2Proof.Machine Sys2Proof.Laws.Ordering

/-! ## What a decoder refuses -/

/-- Where a word has no bit of a mask, a field that lies in the mask is zero. -/
theorem field_of_masked {w mask : SlotWord} {lo n : Nat} (hmask : mask.extractLsb' lo n = BitVec.allOnes n) (h : w &&& mask = 0) :
    w.extractLsb' lo n = 0 := by
  calc w.extractLsb' lo n = w.extractLsb' lo n &&& mask.extractLsb' lo n := by rw [hmask, BitVec.and_allOnes]
    _ = (w &&& mask).extractLsb' lo n := BitVec.extractLsb'_and.symm
    _ = 0 := by rw [h]; exact BitVec.extractLsb'_zero

theorem decodeSlot_one (hdr : Bool) (lend : Byte) (w : SlotWord) : decodeSlot 1 hdr lend w
    = (decodeX (Pos.lent 1 hdr lend) w).bind (fun i => if i.wellFormed then .ok i else .error .reservedValue) := by
  have hslot : (1 : BitVec 2).toNat = 1 := rfl
  simp only [decodeSlot, hslot]
  cases decodeX (Pos.lent 1 hdr lend) w <;> rfl

/-- A word of slot 1 whose operation is not well formed is refused, whatever the operation's table says of its unused bits. -/
theorem decodeSlot_ill_formed {hdr : Bool} {lend : Byte} {w mask : SlotWord} {i : Instr}
    (h : decodeX (Pos.lent 1 hdr lend) w = unused w mask i) (hill : i.wellFormed = false) :
    ∃ e, decodeSlot 1 hdr lend w = .error e := by
  by_cases hw : w &&& mask = 0
  · exact ⟨.reservedValue, by rw [decodeSlot_one, h, unused, if_pos hw, Except.bind, hill]; rfl⟩
  · exact ⟨.reservedField, by rw [decodeSlot_one, h, unused, if_neg hw, Except.bind]⟩

/-! ## VTGR -/

theorem decodeX_vtgr {w : SlotWord} (h : fMajor w = 0x2D) (p : Pos) :
    decodeX p w = unused w 0x0000FFFF (.vtgr p (fD w) (fA w)) := by
  have halu : decodeAlu p w = none := by simp only [decodeAlu, h]
  simp only [decodeX, halu, h]

/-- A vector field of slot 1 takes no latch (R27). -/
theorem vtgr_ill_formed {p : Pos} (hslot : p.slot = 1) (hbyp : p.bypA = true) (d a : BitVec 5) :
    (Instr.vtgr p d a).wellFormed = false := by
  show (Shape.lends ⟨.x, true, .vector a, .absent, false⟩ p && _) = false
  simp [Shape.lends, Field.bypass, hslot, hbyp]

theorem vtgr_unused {w : SlotWord} (h : fMajor w = 0x2D) (hfield : w.extractLsb' 11 5 ≠ 0 ∨ w.extractLsb' 0 11 ≠ 0) :
    decodeSlot 1 false 0 w = .error .reservedField := by
  have hmask : w &&& 0x0000FFFF ≠ 0 := fun hzero => hfield.elim (· (field_of_masked rfl hzero)) (· (field_of_masked rfl hzero))
  rw [decodeSlot_one, decodeX_vtgr h, unused, if_neg hmask, Except.bind]

theorem vtgr_reads (p : Pos) {d : BitVec 5} (a : BitVec 5) (s : State) (hd : PlainReg d) :
    exec (.vtgr p d a) s = .next (s.sent p 3 d ((s.ctx.vec a.toNat).tag.setWidth 64)).ran := by
  rw [← BitVec.ofNat_toNat]
  exact finish_ok ((bind_ok (readV_run false a s)).trans (writeS_plain hd))

/-- Settles O36: the example's word is the encoder's, and the table's unused bits and the lending rules refuse the rest. -/
theorem vtgrReadsTheTag : Obligations.VtgrReadsTheTag :=
  ⟨decodeSlot_of_encode (RoundTrip.vtgr _ _ _) rfl rfl rfl,
   fun _ hmajor hfield => ⟨_, vtgr_unused hmajor hfield⟩,
   fun _ _ hmajor hbyp => decodeSlot_ill_formed (decodeX_vtgr hmajor _) (vtgr_ill_formed rfl hbyp _ _),
   fun p _ a s => vtgr_reads p a s⟩

end Sys2Proof.Laws.Helictite
end

section
/-! Setting a tag, rotating, narrowing and widening complete (spec/14 R270 to R274). -/

namespace Sys2Proof.Laws.Helictite
open Sys2Proof Sys2Proof.Machine

/-! ## Checks that pass -/

/-- A sequence whose first part answers goes on with its answer. -/
theorem bind_goes {α β : Type} {m : M α} {g : α → M β} {s t : State} {a : α} {o : Except Stop (β × State)} (hm : m s = .ok (a, t))
    (hg : g a t = o) : (m >>= g) s = o := (bind_ok hm).trans hg

theorem check_ok {c : Prop} [Decidable c] {m : M Unit} (h : ¬ c) (s : State) : (if c then m else pure ()) s = .ok ((), s) := by
  rw [if_neg h, pure_run]

/-! ## VTAG -/

theorem sideOf_take (n : Nat) (side : Vector (BitVec 24) 16) :
    sideOf (side.toList.take n) = Vector.ofFn (fun j : Fin 16 => if j.val < n then side[j] else 0) := by
  unfold sideOf
  congr 1
  funext j
  have hlen : j.val < side.toList.length := by rw [Vector.length_toList]; exact j.isLt
  rw [List.getD_eq_getElem?_getD, List.getElem?_take]
  by_cases hj : j.val < n
  · rw [if_pos hj, if_pos hj, List.getElem?_eq_getElem hlen]; rfl
  · rw [if_neg hj, if_neg hj]; rfl

/-- The sidecar that VTAG leaves: the source's entries of the new tag's groups (R274). -/
theorem vtag_side (grp : BitVec 2) (n : Nat) (side : Vector (BitVec 24) 16) :
    (if grp = 0 then sideOf [] else sideOf (side.toList.take n))
      = Vector.ofFn (fun j : Fin 16 => if grp = 0 then 0 else if j.val < n then side[j] else 0) := by
  by_cases hgrp : grp = 0
  · simp only [hgrp, if_true]; rfl
  · simp only [hgrp, if_false, sideOf_take]

theorem vtag_sets {p : Pos} {vd va : BitVec 5} {rot grp : BitVec 2} {seed : BitVec 4} {fmt : BitVec 5} {s : State} {new : BitVec 24}
    (hnew : new = mkTag fmt.toNat grp.toNat rot.toNat seed.toNat (if rot = 0 then 0 else fingerprint (s.ctx.sg.getD seed.toNat 0)))
    (hok : tagOk new = true)
    (hside : grp = 0 ∨ sideOk fmt.toNat (groupCount fmt grp.toNat) (s.vsource p.bypA va).side = true) :
    exec (.vtag p vd va rot grp seed fmt) s = .next (s.sentV p 2 vd ⟨(s.vsource p.bypA va).data, new,
      Vector.ofFn (fun j : Fin 16 => if grp = 0 then 0 else
        if j.val < groupCount fmt grp.toNat then (s.vsource p.bypA va).side[j] else 0)⟩).ran := by
  subst hnew
  rw [← vtag_side]
  refine finish_ok (bind_goes (readV_run ..) (bind_goes (getCtx_run s) (bind_goes (check_ok ?_ s) (bind_goes (check_ok ?_ s)
    (writeV_run ..)))))
  · rw [hok]; exact Bool.false_ne_true
  · rcases hside with h | h <;> simp [h]

/-! ## VROT -/

theorem vrot_rotates {p : Pos} {vd va : BitVec 5} {block : BitVec 2} {seed : BitVec 4} {fmt : BitVec 5} {s : State}
    (hfits : Fits fmt (s.vsource p.bypA va).tag) (hblock : runLen block.toNat ≤ 2048 / fmtWidth fmt) (hfp : s.ctx.fptrap = 0) :
    let w := s.ctx.sg.getD seed.toNat 0
    let rs := (blocksOf (runLen block.toNat) 16 (((s.vsource p.bypA va).lanes (fmtWidth fmt)).map ((ffmt fmt).decode false))).map
      (narrowBlock fmt block.toNat (some w) false)
    exec (.vrot p vd va block seed fmt) s = .next (s.sentV p (blockLat block) vd
      (VVal.mk' (dataOfLanes (fmtWidth fmt) (rs.flatMap (fun r => r.2.1)))
        (mkTag fmt.toNat 0 block.toNat seed.toNat (fingerprint w))) fullMask (orFlags (rs.flatMap (fun r => r.2.2)))).ran := by
  intro w rs
  refine finish_ok (bind_goes (readV_run ..) (bind_goes (getCtx_run s) (bind_goes (check_ok ?_ s)
    (bind_goes (check_ok (Nat.not_lt.2 hblock) s) (bind_goes (fpTrap_off hfp) (writeV_run ..))))))
  rcases hfits with hraw | ⟨hok, hfmt, hgrp, hrot⟩
  · rw [hraw]; exact Bool.false_ne_true
  · simp [hok, hfmt, hgrp, hrot]

/-! ## VNR -/

/-- The registers of a run, read by name (R270). -/
def runSource (s : State) (va : BitVec 5) (n : Nat) : List VVal := (List.range n).map (fun k => s.ctx.vec (va.toNat + k))

theorem readRun_run (n : Nat) (va : BitVec 5) (s : State) : readRun n va s = .ok (runSource s va n, s) := rfl

theorem tagF_eq {t : BitVec 24} {f : BitVec 5} (h : tagFmt t = f.toNat) : tagF t = f := by
  rw [tagF, h, BitVec.ofNat_toNat, BitVec.setWidth_eq]

section
variable {c : Ctx} {src : BitVec 24} {block : BitVec 2} (group : Bool) (seed : BitVec 4)

theorem vnrRot_rotated (hrot : tagRot src ≠ 0) (hblock : block.toNat = tagRot src) :
    vnrRot c src block group false seed = some (tagRot src, tagSeed src, tagFp src, none) := by
  simp [vnrRot, hrot, hblock]

theorem vnrRot_rotates (hrot : tagRot src = 0) : vnrRot c src block group true seed
    = some (block.toNat, seed.toNat, fingerprint (c.sg.getD seed.toNat 0), some (c.sg.getD seed.toNat 0)) := by
  simp [vnrRot, hrot]

theorem vnrRot_plain (hrot : tagRot src = 0) (hblock : group = true ∨ block = 0) :
    vnrRot c src block group false seed = some (0, 0, 0, none) := by
  rcases hblock with h | h <;> simp [vnrRot, hrot, h]

end

/-- What R270 and R271 ask of a run that VNR narrows: one well-formed tag without a group, a format that narrows by the run's size, an
aligned name, a group bit that the result's format takes. -/
structure Narrows (s : State) (va : BitVec 5) (run : BitVec 2) (group : Bool) (fmt f : BitVec 5) (src : BitVec 24) : Prop where
  tags : ∀ v ∈ runSource s va (runRegs run), v.tag = src
  ok : tagOk src = true
  ungrouped : tagGrp src = 0
  format : tagFmt src = f.toNat
  range : fmtIn f 9 12 = true
  width : fmtWidth f = runRegs run * fmtWidth fmt
  aligned : va.toNat % runRegs run = 0
  group_iff : group = true ↔ 15 ≤ fmt.toNat

section
variable {s : State} {va : BitVec 5} {run : BitVec 2} {group : Bool} {fmt f : BitVec 5} {src : BitVec 24}
  (h : Narrows s va run group fmt f src)
include h

theorem Narrows.first_tag : ((runSource s va (runRegs run)).getD 0 VVal.zero).tag = src := by
  have hlen : 0 < (runSource s va (runRegs run)).length := by
    rw [runSource, List.length_map, List.length_range]
    exact Nat.two_pow_pos run.toNat
  rw [List.getD_eq_getElem?_getD, List.getElem?_eq_getElem hlen]
  exact h.tags _ (List.getElem_mem hlen)

theorem Narrows.no_mismatch :
    (runSource s va (runRegs run)).find? (fun v => v.tag != src || tagGrp v.tag != 0 || !tagOk v.tag) = none := by
  rw [List.find?_eq_none]
  intro v hv
  simp [h.tags v hv, h.ok, h.ungrouped]

theorem Narrows.shape : ¬ (!(fmtIn f 9 12) || fmtWidth f != runRegs run * fmtWidth fmt || va.toNat % runRegs run != 0
    || (decide (15 ≤ fmt.toNat)) != group) = true := by
  have hgroup : decide (15 ≤ fmt.toNat) = group := by
    rw [Bool.eq_iff_iff, decide_eq_true_iff, h.group_iff]
  simp [h.range, h.width, h.aligned, hgroup]

variable {block : BitVec 2} {rotate : Bool} {seed : BitVec 4} {r sd fp : Nat} {sw : Option Word}
  (hrot : vnrRot s.ctx src block group rotate seed = some (r, sd, fp, sw)) (hfp : s.ctx.fptrap = 0) (p : Pos) (vd : BitVec 5)
include hrot hfp

theorem vnr_narrows :
    let xs := (runSource s va (runRegs run)).flatMap (fun v => v.lanes (fmtWidth f))
    let tag := mkTag fmt.toNat (if group then block.toNat else 0) r sd fp
    (block = 0 → exec (.vnr p vd va run block group rotate seed fmt) s = .next (s.sentV p 10 vd
      (VVal.mk' (dataOfLanes (fmtWidth fmt) ((xs.map (convert f fmt 0 false)).map Prod.fst)) tag) fullMask
      (orFlags ((xs.map (convert f fmt 0 false)).map Prod.snd))).ran)
    ∧ (block ≠ 0 →
      let rs := (blocksOf (runLen block.toNat) 16 (xs.map ((ffmt f).decode false))).map (narrowBlock fmt block.toNat sw true)
      exec (.vnr p vd va run block group rotate seed fmt) s = .next (s.sentV p (blockLat block) vd
        ⟨dataOfLanes (fmtWidth fmt) (rs.flatMap (fun e => e.2.1)), tag, sideOf (if group then rs.map Prod.fst else [])⟩ fullMask
        (orFlags (rs.flatMap (fun e => e.2.2)))).ran) := by
  obtain rfl := h.first_tag
  obtain rfl := tagF_eq h.format
  refine ⟨fun hb => finish_ok ?_, fun hb => finish_ok ?_⟩ <;>
    refine bind_goes (readRun_run _ va s) (bind_goes (getCtx_run s) (bind_goes (a := ()) (t := s) (by rw [h.no_mismatch]; rfl)
      (bind_goes (check_ok h.shape s) ?_))) <;>
    rw [hrot]
  · subst hb
    exact bind_goes (fpTrap_off hfp) (writeV_run ..)
  · rw [apply_ite sideOf]
    exact (congrFun (if_neg hb) s).trans (bind_goes (fpTrap_off hfp) (writeV_run ..))

end

/-! ## VWD -/

theorem writeRun_run (p : Pos) (lat d : Nat) (fl : BitVec 5) (vs : List VVal) (k : Nat) (s : State) :
    writeRun p lat (if k = 0 then fl else 0) (d + k) vs s = .ok ((), (vs.zipIdx k).foldl (fun (t : State) (e : VVal × Nat) =>
      t.sentV p lat (BitVec.ofNat 5 (d + e.2)) e.1 fullMask (if e.2 = 0 then fl else 0)) s) := by
  induction vs generalizing k s with
  | nil => rfl
  | cons v vs ih => exact bind_goes (writeV_run ..) (ih (k + 1) _)

theorem writeRun_sends (p : Pos) (lat d : Nat) (fl : BitVec 5) (vs : List VVal) (s : State) :
    writeRun p lat fl d vs s = .ok ((), runSent s p lat d vs fl) := writeRun_run p lat d fl vs 0 s

/-- What R270 and R272 ask of a register that VWD widens. -/
structure Widens (x : VVal) (vd : BitVec 5) (run : BitVec 2) (fmt f : BitVec 5) : Prop where
  ok : tagOk x.tag = true
  format : tagFmt x.tag = f.toNat
  range : fmtIn f 10 16 = true
  width : fmtWidth fmt = runRegs run * fmtWidth f
  aligned : vd.toNat % runRegs run = 0
  side : tagGrp x.tag = 0 ∨ sideOk f.toNat (groupCount f (tagGrp x.tag)) x.side = true

section
variable {x : VVal} {vd : BitVec 5} {run : BitVec 2} {fmt f : BitVec 5} (h : Widens x vd run fmt f)
include h

theorem Widens.tag_fits : ¬ (!tagOk x.tag) = true := by simp [h.ok]

theorem Widens.side_fits : ¬ (tagGrp x.tag != 0 && !sideOk f.toNat (groupCount f (tagGrp x.tag)) x.side) = true := by
  rcases h.side with hs | hs <;> simp [hs]

theorem Widens.shape : ¬ (!(fmtIn f 10 16) || fmtWidth fmt != runRegs run * fmtWidth f || vd.toNat % runRegs run != 0) = true := by
  simp [h.range, h.width, h.aligned]

end

section
variable {p : Pos} {s : State} {vd va : BitVec 5} {run : BitVec 2} {fmt f : BitVec 5} (h : Widens (s.vsource p.bypA va) vd run fmt f)
include h

variable (hfp : s.ctx.fptrap = 0) (seed : BitVec 4)
include hfp

theorem vwd_converts :
    let x := s.vsource p.bypA va
    let rs := ((wideVals x).zip (x.lanes (fmtWidth f))).map (fun (e : FVal × Nat) => widenLane f fmt e.1 e.2)
    exec (.vwd p vd va run 0 false seed fmt) s = .next (runSent s p 10 vd.toNat
      ((blocksOf (2048 / fmtWidth fmt) (2 ^ run.toNat) (rs.map Prod.fst)).map (fun l => VVal.mk' (dataOfLanes (fmtWidth fmt) l)
        (mkTag fmt.toNat 0 (tagRot x.tag) (tagSeed x.tag) (tagFp x.tag)))) (orFlags (rs.map Prod.snd))).ran := by
  intro x rs
  obtain rfl := tagF_eq h.format
  exact finish_ok (bind_goes (readV_run ..) (bind_goes (getCtx_run s) (bind_goes (check_ok h.tag_fits s)
    (bind_goes (check_ok h.side_fits s) (bind_goes (check_ok (not_not_intro rfl) s) (bind_goes (check_ok h.shape s)
    (bind_goes (fpTrap_off hfp) (writeRun_sends ..))))))))

variable {block : BitVec 2} (hrot : tagRot (s.vsource p.bypA va).tag = block.toNat) (hblock : block ≠ 0)
  (hseed : tagFp (s.vsource p.bypA va).tag = fingerprint (s.ctx.sg.getD seed.toNat 0))
include hrot hblock hseed

theorem vwd_inverts :
    let x := s.vsource p.bypA va
    let rs := (blocksOf (runLen block.toNat) 16 (wideVals x)).map (inverseBlock fmt block.toNat (s.ctx.sg.getD seed.toNat 0))
    exec (.vwd p vd va run block true seed fmt) s = .next (runSent s p (blockLat block) vd.toNat
      ((blocksOf (2048 / fmtWidth fmt) (2 ^ run.toNat) (rs.flatMap Prod.fst)).map (fun l =>
        VVal.mk' (dataOfLanes (fmtWidth fmt) l) (fmtTag fmt))) (orFlags (rs.flatMap Prod.snd))).ran := by
  intro x rs
  obtain rfl := tagF_eq h.format
  have hcode : block.toNat ≠ 0 := fun hzero => hblock (BitVec.eq_of_toNat_eq hzero)
  have hsame : ¬ (tagRot (s.vsource p.bypA va).tag = 0 ∨ block.toNat ≠ tagRot (s.vsource p.bypA va).tag) := by simp [hrot, hcode]
  exact finish_ok (bind_goes (readV_run ..) (bind_goes (getCtx_run s) (bind_goes (check_ok h.tag_fits s)
    (bind_goes (check_ok h.side_fits s) (bind_goes (check_ok hsame s) (bind_goes (check_ok (not_not_intro hseed.symm) s)
    (bind_goes (check_ok h.shape s) (bind_goes (fpTrap_off hfp) (writeRun_sends ..)))))))))

end

/-- Settles O46: each of the four passes its checks and sends the result that its blocks give. -/
theorem helictiteOperationsMoveBlocks : Obligations.HelictiteOperationsMoveBlocks := by
  intro p vd va run block rot grp seed group rotate fmt f s x w
  refine ⟨fun new hnew hok hside => vtag_sets hnew hok hside, fun hfits _ hblock hfp => vrot_rotates hfits hblock hfp, ?_, ?_⟩
  · intro src r sd fp sw n regs htags hok hgrp hfmt hrange hwidth haligned hgroup hfp hcarried
    have hnarrows : Narrows s va run group fmt f src := ⟨htags, hok, hgrp, hfmt, hrange, hwidth, haligned, hgroup⟩
    refine vnr_narrows hnarrows ?_ hfp p vd
    rcases hcarried with ⟨hrot, rfl, hblock, rfl, rfl, rfl, rfl⟩ | ⟨hrot, rfl, rfl, rfl, rfl, rfl⟩
      | ⟨hrot, rfl, hblock, rfl, rfl, rfl, rfl⟩
    · exact vnrRot_rotated group seed hrot hblock
    · exact vnrRot_rotates group seed hrot
    · exact vnrRot_plain group seed hrot hblock
  · intro hok hfmt hrange hwidth haligned hside hfp
    have hwidens : Widens x vd run fmt f := ⟨hok, hfmt, hrange, hwidth, haligned, hside⟩
    exact ⟨vwd_converts hwidens hfp seed, fun hrot hblock hseed => vwd_inverts hwidens hfp seed hrot hblock hseed⟩

end Sys2Proof.Laws.Helictite
end
